-- ==== Sys2Proof/Word.lean ====
section
/-! DEFINITION. The word types of the machine (R5 to R7, R28, R205): widths only, no behaviour. -/

namespace Sys2Proof

/-- A byte of memory (R7). -/
abbrev Byte := BitVec 8

/-- A 64-bit scalar register value, and an instruction word (R39). -/
abbrev Word := BitVec 64

/-- A byte offset in a code object, a task id, a guest-physical address: 48 bits (R108, R113, R270). -/
abbrev Addr48 := BitVec 48

/-- A 1024-bit operand row; cell j holds bits [32j+31:32j] (R57). -/
abbrev Row := BitVec 1024

/-- A predicate register: bit [0] governs byte lane 0 (R7, R205). -/
abbrev Pred := BitVec 128

/-- A finite map held as data: pairs of key and value. The operations that keep its one canonical form
are in Machine/Map.lean. -/
abbrev Map (α : Type) := List (Nat × α)

end Sys2Proof
end

