-- ==== Sys2Proof/Config.lean ====
section
/-! DEFINITION. What an implementation fixes and the spec leaves to it: fuses, identities, keys and signatures, and the
values that the spec states no result for. Each is a constant with no body, so that nothing can be proved of its value. -/

namespace Sys2Proof

/-- FEATOFF.OFF, a fuse: the features offered (R386). Log entry 2. -/
opaque Config.featOff : BitVec 16

/-- PKGID.ID, a fuse (R360). Log entry 2. -/
opaque Config.pkgId : BitVec 32

/-- The EPOCH of R337 as the fuse array holds it after the `n`-th package reset of the model's run is not stated; this is
its value at the first. Each package reset adds one. Log entry 2. -/
opaque Config.epoch : BitVec 32

/-- DEVID, the device's fused 16-byte identity (R338). Log entry 2. -/
opaque Config.devId : BitVec 128

/-- The identifiers of the LMS trees of RFC 8554: tree 0 the device's top tree, tree e + 1 the bottom tree of the boot with
EPOCH e (R339). Log entry 2. -/
opaque Config.hssId : (tree : Nat) → BitVec 128

/-- The secret start of a one-time chain: of a tree, a leaf and a chain (R339). Log entry 2. -/
opaque Config.hssSecret : (tree leaf chain : Nat) → BitVec 256

/-- The random value C with which a leaf signs its one message (R339). Log entry 2. -/
opaque Config.hssRandom : (tree leaf : Nat) → BitVec 256

/-- A value the spec leaves open, by a plain counter of the state: sensor readings (R389), the data a pool or peer
returns for what another package holds, sizes that the pool chooses (R365), and a captured operand that a
frame does not carry (R304). Log entry 3. -/
opaque Config.free : Nat → Word

end Sys2Proof
end

