-- ==== Sys2Proof/Syntax.lean ====
section
/-! DEFINITION. The instruction set as syntax: the operand forms of R45 to R61 and one constructor of `Instr` for
each row of spec/opcode_table.json, the 215 instructions of wbas first (in the order of the opcode map, R63 to R70) and
then the 75 operations and events of the device, its host and the pool. Register numbers and field values are natural
numbers; `WellFormed` bounds them by the widths of their fields. -/

namespace Sys2Proof

/-- Saturation mode of R117 (sub [1:0]) and of VIADD, VISUB, VIMUL (R217). -/
inductive Sat where
  | wrap | sat | satu
  deriving DecidableEq, Repr

/-- The size operand of SEXT and ZEXT (R118). -/
inductive ExtSize where
  | b | h | w
  deriving DecidableEq, Repr

/-- The Size field of formats M and A (R51, R52). -/
inductive Size where
  | b | h | w | d
  deriving DecidableEq, Repr

/-- Compare conditions of CMP, CMPI (R121) and VICMP (R218). -/
inductive Cond where
  | eq | ne | lt | ge | le | gt | ltu | geu | leu | gtu | tst | ntst
  deriving DecidableEq, Repr

/-- Compare conditions of VCMP (R218). -/
inductive FCond where
  | eq | ne | lt | ge | le | gt | unord | ord
  deriving DecidableEq, Repr

/-- Operations of the atomics (R160). -/
inductive Aop where
  | add | and | or | xor | smin | smax | umin | umax | xchg | fadd | fmin | fmax
  deriving DecidableEq, Repr

/-- The ORD field (R55). -/
inductive Ord2 where
  | plain | acq | rel | ar
  deriving DecidableEq, Repr

/-- The ordering fields CLASS, ORD, SCOPE and EVICT (R55). -/
structure AccOrd where
  cls   : Nat
  ord   : Ord2
  scope : Nat
  evict : Nat
  deriving DecidableEq, Repr

/-- The space of an atomic or WAITA: an object through a capability, or the scratchpad window (R136). -/
inductive ASpace where
  | object | spad
  deriving DecidableEq, Repr

/-- A wide operand (R56): a row, a column or a diagonal of a tile, a queue-mapped register, or the scalar broadcast. -/
inductive WOp where
  | h (tile index : Nat)
  | v (tile index : Nat)
  | d (tile index : Nat)
  | q (n : Nat)
  | bcast
  deriving DecidableEq, Repr

/-- The element formats of R81 that are legal targets (every tag but EMPTY). -/
inductive Fmt where
  | fp32 | fp16 | bf16 | fp8l | fp8w | ln6 | int8 | uint8 | int32 | uint32
  deriving DecidableEq, Repr

/-- Rounding modes (R92). -/
inductive Rnd where
  | rne | rtz | rdn | rup | rna | sto
  deriving DecidableEq, Repr

/-- The conversion control word of R67. -/
structure CvtWord where
  target : Fmt
  rnd    : Rnd
  sat    : Bool
  deriving DecidableEq, Repr

/-- Forms of CAPNAR (R164). -/
inductive NarForm where
  | rights | lo | hi
  deriving DecidableEq, Repr

/-- Items of CAPINF (R165). -/
inductive CapItem where
  | oid | lo | hi | attr | ttp
  deriving DecidableEq, Repr

/-- Field selectors of TDSET and TDGET (R167). -/
inductive TdField where
  | handle | fmt | layout | rank | e0 | e1 | e2 | e3 | base | w0 | w1 | w2 | ttp
  deriving DecidableEq, Repr

/-- Retention classes of HINT and of a Rill entry (R170, R255). -/
inductive Retain where
  | hot | warm | cold | stream
  deriving DecidableEq, Repr

/-- The space of a VL or VS row access: the scratchpad, or a tensor descriptor (R207). -/
inductive VSpace where
  | spad
  | desc (d : Nat)
  deriving DecidableEq, Repr

/-- Operations of VRED, VREDS, VSCAN (R221). -/
inductive RedOp where
  | add | min | max
  deriving DecidableEq, Repr

/-- Forms of VPACK (R101). -/
inductive PackMode where
  | half | qtr
  deriving DecidableEq, Repr

/-- Operand formats of the matrix engine (R225). -/
inductive MxFmt where
  | fp8l | fp8w | bf16 | fp16 | ln6 | fp8ls | fp8ws | ln6s
  deriving DecidableEq, Repr

/-- SRC of a matrix operand descriptor (R229). -/
inductive MxSrc where
  | tile | spad | desc
  deriving DecidableEq, Repr

/-- MODE of an ms image as MXSM writes it (R230). -/
inductive MsMode where
  | bmap | sp24 | both
  deriving DecidableEq, Repr

/-- Items of MXRD (R240). -/
inductive MxItem where
  | rp | stat | wa | wb | mbwa | mbwb | ms
  deriving DecidableEq, Repr

/-- The memory side of BGET and BPUT: a capability or a descriptor (R250). -/
inductive XMem where
  | cap (c : Nat)
  | desc (d : Nat)
  deriving DecidableEq, Repr

/-- The destination code of BGET (R245). -/
inductive GetDest where
  | spad | rsv | cist
  deriving DecidableEq, Repr

/-- The space of BCPY and BFILL (R245). -/
inductive XSpace where
  | spad
  | object (c : Nat)
  deriving DecidableEq, Repr

/-- Kinds of commons engine (R260). -/
inductive EngKind where
  | bc | cp | cl
  deriving DecidableEq, Repr

/-- Items of TSELF (R288). -/
inductive SelfItem where
  | id | parent | frame | launch
  deriving DecidableEq, Repr

/-- Forms of ERET (R316). -/
inductive EretForm where
  | res | kill | refl
  deriving DecidableEq, Repr

/-- Items of FLTINFO (R318). -/
inductive FltItem where
  | word | pc | mpc | oid | x0 | xhi | leaf | tick
  deriving DecidableEq, Repr

/-- Forms of TLBIV (R320). -/
inductive TlbForm where
  | tile | table | all
  deriving DecidableEq, Repr

/-- Items of LSTOK (R379). -/
inductive TokItem where
  | tok | name | left | st
  deriving DecidableEq, Repr

/-- Items of FEAT (R387). -/
inductive FeatItem where
  | off | acc | lock
  deriving DecidableEq, Repr

/-- The five engines of a core that hold queues (R28). -/
inductive Eng where
  | vl | va | vs | mx | xf
  deriving DecidableEq, Repr

/-- A function of the host link: the physical function or virtual function n (R381). -/
inductive HostFn where
  | pf
  | vf (n : Nat)
  deriving DecidableEq, Repr

/-- Resources of weighted deficit arbitration (R258). -/
inductive Res where
  | bulk | compress | collect | conduit | lemcon | rill
  deriving DecidableEq, Repr

/-- Which lease-bound access a STALE answer names: a P0 access of the slot, its VS store or an XF write (R156, R251). -/
inductive StaleSrc where
  | p0 (idx : Nat)
  | vs
  | xf (idx : Nat)
  deriving DecidableEq, Repr

/-- What an inbound packet from another package asks of a page that this package serves (R155). -/
inductive PeerOp where
  | read
  | write (data : Nat)
  | atomic (op : Aop) (operand : Nat)
  | cas (operand compare : Nat)
  deriving DecidableEq, Repr

/-- One constructor per row of spec/opcode_table.json. -/
inductive Instr where
  -- CTL, CLS 0x0 (R63)
  | nop
  | mov (sd sa : Nat)
  | sel (sd sa sb k : Nat)
  | lea (sd sa sb shift : Nat)
  | mfs (sd spec : Nat)
  | mts (sa spec : Nat)
  | add (sd sa sb : Nat) (mode : Sat)
  | sub (sd sa sb : Nat) (mode : Sat)
  | mul (sd sa sb : Nat) (mode : Sat)
  | mulh (sd sa sb : Nat)
  | mulhu (sd sa sb : Nat)
  | div (sd sa sb : Nat)
  | divu (sd sa sb : Nat)
  | rem (sd sa sb : Nat)
  | remu (sd sa sb : Nat)
  | min (sd sa sb : Nat)
  | max (sd sa sb : Nat)
  | minu (sd sa sb : Nat)
  | maxu (sd sa sb : Nat)
  | and (sd sa sb : Nat)
  | or (sd sa sb : Nat)
  | xor (sd sa sb : Nat)
  | andn (sd sa sb : Nat)
  | shl (sd sa sb : Nat)
  | shr (sd sa sb : Nat)
  | sra (sd sa sb : Nat)
  | rol (sd sa sb : Nat)
  | clz (sd sa : Nat)
  | ctz (sd sa : Nat)
  | popc (sd sa : Nat)
  | brev (sd sa : Nat)
  | sext (sd sa : Nat) (size : ExtSize)
  | zext (sd sa : Nat) (size : ExtSize)
  | addi (sd sa : Nat) (mode : Sat) (imm : Int)
  | muli (sd sa : Nat) (mode : Sat) (imm : Int)
  | andi (sd sa imm : Nat)
  | ori (sd sa imm : Nat)
  | xori (sd sa imm : Nat)
  | shli (sd sa imm : Nat)
  | shri (sd sa imm : Nat)
  | srai (sd sa imm : Nat)
  | ldi (sd : Nat) (imm : Int)
  | ldih (sd imm : Nat)
  | cmp (kd sa sb : Nat) (cond : Cond)
  | cmpi (kd sa : Nat) (cond : Cond) (imm : Int)
  | kand (kd ka kb : Nat)
  | kor (kd ka kb : Nat)
  | kxor (kd ka kb : Nat)
  | knot (kd ka : Nat)
  | vany (kd p : Nat)
  | vall (kd p : Nat)
  | prep (bd : Nat) (disp : Int)
  | prepr (bd sa : Nat)
  | br (bd k : Nat)
  | bra (bd k : Nat)
  | call (bd k : Nat)
  | ret (k : Nat)
  | loop (lc sa body count : Nat)
  | loopp (lc depth sa p k count e : Nat)
  | brk (lc k : Nat)
  -- MEM, CLS 0x1 (R64)
  | lds (sd c sa : Nat) (o : AccOrd) (size : Size) (imm : Int)
  | sts (sd c sa : Nat) (o : AccOrd) (size : Size) (imm : Int)
  | ldp (sd sa : Nat) (o : AccOrd) (imm : Int)
  | stp (sd sa : Nat) (o : AccOrd) (imm : Int)
  | lde (sd d sa : Nat) (o : AccOrd) (size : Size) (imm : Int)
  | ste (sd d sa : Nat) (o : AccOrd) (size : Size) (imm : Int)
  | atom (c sa : Nat) (o : AccOrd) (op : Aop) (size : Size) (space : ASpace) (sb : Nat)
  | atomf (sd c sa : Nat) (o : AccOrd) (op : Aop) (size : Size) (space : ASpace) (sb : Nat)
  | acas (sd c sa : Nat) (o : AccOrd) (size : Size) (space : ASpace) (sb sc : Nat)
  | capsel (cd sa imm : Nat)
  | capnar (cd ca sb : Nat) (form : NarForm)
  | capinf (sd ca : Nat) (item : CapItem)
  | capclr (cd : Nat)
  | tdset (dd sa : Nat) (f : TdField)
  | tdget (sd da : Nat) (f : TdField)
  | tdcap (dd ca : Nat)
  | pref (d sa sb : Nat) (cls scope evict : Nat) (rep : Nat)
  | hint (d sa sb : Nat) (rep : Nat) (cls : Retain)
  -- ORD, CLS 0x2 (R65)
  | fence (paths scope classes : Nat)
  | fencem (engines : Nat)
  | joinm
  | waitc (loads stores copies tileops : Nat)
  | waita (sd c sa : Nat) (o : AccOrd) (size : Size) (space : ASpace) (imm : Int)
  | tokp (sluice sa : Nat)
  | tokg (sd sluice : Nat)
  | tokn (sd sluice : Nat)
  -- VEC, CLS 0x3 (R66)
  | vld (row : WOp) (sp : VSpace) (sa sb : Nat) (o : AccOrd) (rep pN : Nat)
  | vlds (row : WOp) (sp : VSpace) (sa sb : Nat) (o : AccOrd) (rep pN dim : Nat)
  | vldt (row : WOp) (sp : VSpace) (sa sb : Nat) (o : AccOrd) (rep pN : Nat)
  | vldg (row : WOp) (sp : VSpace) (sa sb : Nat) (o : AccOrd) (rep pN : Nat)
  | vldc (row : WOp) (d sa sb : Nat) (cls rep pN : Nat)
  | vst (row : WOp) (sp : VSpace) (sa sb : Nat) (o : AccOrd) (rep pN : Nat)
  | vsts (row : WOp) (sp : VSpace) (sa sb : Nat) (o : AccOrd) (rep pN dim : Nat)
  | vstt (row : WOp) (sp : VSpace) (sa sb : Nat) (o : AccOrd) (rep pN : Nat)
  | vsct (row : WOp) (sp : VSpace) (sa sb : Nat) (o : AccOrd) (rep pN : Nat)
  | vstc (row : WOp) (d sa sb : Nat) (cls rep pN : Nat)
  | vadd (dst a b : WOp) (sN pN rep : Nat)
  | vsub (dst a b : WOp) (sN pN rep : Nat)
  | vmul (dst a b : WOp) (sN pN rep : Nat)
  | vfma (dst a b : WOp) (sN pN rep : Nat)
  | vfms (dst a b : WOp) (sN pN rep : Nat)
  | vneg (dst a : WOp) (sN pN rep : Nat)
  | vabs (dst a : WOp) (sN pN rep : Nat)
  | vmin (dst a b : WOp) (sN pN rep : Nat)
  | vmax (dst a b : WOp) (sN pN rep : Nat)
  | vrcp (dst a : WOp) (sN pN rep : Nat)
  | vrsq (dst a : WOp) (sN pN rep : Nat)
  | vexp2 (dst a : WOp) (sN pN rep : Nat)
  | vlog2 (dst a : WOp) (sN pN rep : Nat)
  | viadd (dst a b : WOp) (sN pN rep : Nat) (mode : Sat)
  | visub (dst a b : WOp) (sN pN rep : Nat) (mode : Sat)
  | vimul (dst a b : WOp) (sN pN rep : Nat) (mode : Sat)
  | vand (dst a b : WOp) (sN pN rep : Nat)
  | vor (dst a b : WOp) (sN pN rep : Nat)
  | vxor (dst a b : WOp) (sN pN rep : Nat)
  | vshl (dst a b : WOp) (sN pN rep : Nat)
  | vshr (dst a b : WOp) (sN pN rep : Nat)
  | vsra (dst a b : WOp) (sN pN rep : Nat)
  | vimin (dst a b : WOp) (sN pN rep : Nat) (uns : Bool)
  | vimax (dst a b : WOp) (sN pN rep : Nat) (uns : Bool)
  | vcmp (pd : Nat) (cond : FCond) (a b : WOp) (sN pN : Nat)
  | vicmp (pd : Nat) (cond : Cond) (a b : WOp) (sN pN : Nat)
  | pand (pd pa pb : Nat)
  | por (pd pa pb : Nat)
  | pxor (pd pa pb : Nat)
  | pnot (pd pa : Nat)
  | pmov (pd pa : Nat)
  | vmov (dst a : WOp) (sN pN rep : Nat)
  | vsel (dst a b : WOp) (sN pS rep : Nat)
  | vbcst (dst a : WOp) (sN pN rep : Nat)
  | vperm (dst a b : WOp) (pN rep : Nat)
  | vrmg (dst a b : WOp) (sN pN rep : Nat)
  | vidx (dst : WOp) (sN pN rep : Nat)
  | vred (dst a : WOp) (pN rep : Nat) (op : RedOp)
  | vreds (dst a : WOp) (pN rep : Nat) (op : RedOp)
  | vscan (dst a : WOp) (pN rep : Nat) (op : RedOp)
  -- CNV, CLS 0x4 (R67)
  | vcvt (dst a : WOp) (cw : CvtWord) (sN pN rep : Nat)
  | vcvts (dst a : WOp) (cw : CvtWord) (sN pN rep : Nat)
  | vscl (dst a b : WOp) (pN rep blk : Nat)
  | vpack (dst a : WOp) (pN rep : Nat) (mode : PackMode)
  | vunpk (dst a : WOp) (cw : CvtWord) (pN rep : Nat)
  | vqln (dst a : WOp) (cw : CvtWord) (pN rep : Nat)
  | ttag (tile : Nat) (fmt : Fmt) (scaled : Bool)
  | ttget (sd tile : Nat)
  | fmtm (sa mask : Nat)
  -- MTX, CLS 0x5 (R68)
  | mma (acc ma mb sK jet : Nat) (fa fb : MxFmt) (o : AccOrd)
  | mmas (acc ma mb sK jet : Nat) (fa fb : MxFmt) (o : AccOrd) (ms : Nat)
  | mmal (acc ma mb sK jet : Nat) (fa fb : MxFmt) (o : AccOrd) (ms : Option Nat)
  | mmaz (acc ma mb sK jet : Nat) (fa fb : MxFmt) (o : AccOrd)
  | mxsa (ma sa sb : Nat) (src : MxSrc)
  | mxsb (mb sa sb : Nat) (src : MxSrc)
  | mxsm (ms sa : Nat) (mode : MsMode)
  | mxrd (sd : Nat) (item : MxItem) (index : Nat)
  -- XFR, CLS 0x6 (R245)
  | bget (mem : XMem) (sa sb sc sF : Nat) (o : AccOrd) (dest : GetDest)
  | bput (mem : XMem) (sa sb sc sF : Nat) (o : AccOrd)
  | bcpy (sp : XSpace) (sa sb sc sF : Nat) (o : AccOrd)
  | bfill (sp : XSpace) (sloc sc sF : Nat) (o : AccOrd) (byte : Nat)
  | xflag (sF : Nat) (o : AccOrd)
  | bcan (sF : Nat) (o : AccOrd)
  | rlpub (c sa sb sc sF : Nat) (o : AccOrd) (k : Nat)
  | rlstp (sa sF : Nat) (o : AccOrd)
  | rlqry (sb sF : Nat) (o : AccOrd)
  | cbind (sb sF : Nat) (o : AccOrd) (kind : EngKind) (index : Nat)
  | crel (sF : Nat) (o : AccOrd) (kind : EngKind) (index : Nat)
  | ccoll (c sa sb sc sF : Nat) (o : AccOrd)
  | ccmp (c sa sb sc sF : Nat) (o : AccOrd) (put : Bool)
  | cdcp (c sa sb sc sF : Nat) (o : AccOrd) (put : Bool)
  | cstat (sb sF : Nat) (o : AccOrd)
  -- TSK, CLS 0x7 (R284)
  | tspawn (sd c sa sb : Nat) (dep : Bool)
  | tdep (sd sa sb : Nat) (grp : Bool)
  | tend
  | ttrig
  | tyld
  | tself (sd : Nat) (item : SelfItem)
  | tprio (sd sa sb : Nat)
  | gjoin (sd sa imm : Nat)
  | gleave (sd sa imm : Nat)
  | gbar (sd sa imm : Nat)
  | gmem (sd sa imm : Nat)
  | tlinc (sd c sa sb scope : Nat)
  | tlset (sd c sa sb scope : Nat)
  | tlwait (sd c sa sb scope : Nat)
  | tlget (sd c sa scope : Nat)
  | resq (sd sa sb region : Nat)
  | reshint (sa sb region : Nat) (clear : Bool) (mask : Nat)
  -- SYS 0x00 to 0x13 (R314)
  | trap (sa imm : Nat) (hv : Bool)
  | eret (sa : Nat) (form : EretForm)
  | mfsp (sd sa item : Nat)
  | mtsp (sa sb item : Nat)
  | ctxsv (sd sa sb c : Nat) (move : Bool) (scope : Nat)
  | ctxld (sd sb c : Nat) (scope : Nat)
  | fltinfo (sd sa : Nat) (item : FltItem)
  | tlbiv (sd sa sb : Nat) (form : TlbForm)
  | unmap (sd sa : Nat) (shoot : Bool)
  | mapsync
  | cstwin (sd : Nat) (close : Bool)
  -- SYS 0x40 to 0x48 (R346)
  | rgnasn (sd sa sb : Nat)
  | rgnwin (sd sa : Nat)
  | rgnrst (sd sa : Nat)
  | scrub (sd sa : Nat) (frame : Bool)
  | scrst (sd sa : Nat) (alloc : Bool)
  | tokchk (sd sa sb c : Nat) (get : Bool)
  | keyz (sd sa : Nat)
  | msgf (sd sa c imm : Nat)
  | xenq (sd sa c imm : Nat)
  -- SYS 0x80 to 0x91 (R375, R387, R388)
  | lkst (sd sa : Nat) (port : Bool)
  | lkdrn (sd sa : Nat)
  | lktop (sd sa c : Nat)
  | lkrsm (sd sa : Nat)
  | lsacq (sd sa sb : Nat) (wait : Bool)
  | lsrnw (sd sb : Nat)
  | lsrel (sd : Nat)
  | lstok (sd : Nat) (item : TokItem)
  | feat (sd : Nat) (item : FeatItem)
  | errlog (sd sa c : Nat) (pop : Bool)
  -- operations and events of a core
  | loadDataReturn (core slot idx : Nat)
  | postedAccessAck (core slot idx : Nat)
  | markerRetire (core slot : Nat) (eng : Eng)
  | waitaRepoll (core slot : Nat)
  | tokenEntry (core slot : Nat)
  | sluiceReservationGrant (core sluice : Nat)
  | vlStep (core slot : Nat)
  | vsStep (core slot : Nat)
  | vaStep (core slot : Nat)
  | mxStep (core jet : Nat)
  | mxCommandStart (core : Nat)
  | xfPayloadStep (core idx : Nat)
  | xfSingleStep (core idx : Nat)
  | flagStep (core idx : Nat)
  -- the Rill and the commons
  | rillFetch (part : Nat)
  | arbiterRound (res : Res)
  -- step leases
  | leaseGrant (part token waited : Nat)
  | lsacqWaitTimeout (part : Nat)
  | stepLeaseExpiry (part : Nat)
  -- tasks
  | tlwaitRetest (part task : Nat)
  | dispatchDecision (part : Nat)
  | drainLimitExpiry (core slot : Nat)
  | sliceExpiry (core slot : Nat)
  | handlerRecordEntry
  | frameSlotFreed (core slot : Nat)
  | fetchCheckFault
  | illegalInstruction (word : Nat)
  -- regions, scrub and the Cistern
  | regionResetRelease (region : Nat)
  | quiesceComplete (region : Nat)
  | scrubPhaseComplete (region : Nat)
  | tokenSigned
  | frameScrubStart
  | scrubOnFreeAck (idx : Nat)
  | cisternRefreshWindow
  -- conduits and the pool
  | drainComplete (conduit : Nat)
  | trainingAttemptSuccess (conduit : Nat)
  | trainingAttemptFail (conduit : Nat)
  | retuneComplete (conduit : Nat)
  | retuneFail (conduit : Nat)
  | lossOfSignal (conduit : Nat)
  | linkRetryExhausted (conduit : Nat)
  | heldRequestTimeout (core slot idx : Nat)
  | requestOutcomeTimeout (core slot idx : Nat)
  | retryStatus (core slot idx : Nat)
  | staleAnswer (core slot : Nat) (src : StaleSrc)
  | fencedAnswer
  | recall (base size : Nat)
  | readLeaseExpiry (part line : Nat)
  | join
  | joinAccepted (slice : Nat)
  -- further events of the commons, of tasks and of translation
  | bindingExpiry (kind : EngKind) (index : Nat)
  | preemptionRequest (core slot : Nat)
  | translationLeaseExpiry (region : Nat)
  | inboundPeerRequest (addr size : Nat) (op : PeerOp)
  -- the host link and the sideband
  | launch (fn : HostFn) (nrec part addr tag : Nat)
  | tokchkCommand (fn : HostFn) (region seq : Nat)
  | tokget (fn : HostFn) (region addr : Nat)
  | repair (fn : HostFn) (image : List Nat)
  | accept (fn : HostFn) (mask : Nat)
  | keyset (fn : HostFn) (part slot key : Nat)
  | pubkey (fn : HostFn)
  | readlog (fn : HostFn)
  | unlistedCommandCode (fn : HostFn) (code : Nat)
  | sidebandTemperature
  | sidebandPower
  | sidebandPwst
  | sidebandLstate
  | sidebandDevid
  | sidebandPubkey
  | sidebandNack (cmd : Nat)
  -- the package
  | packageReset
  | powerLimit
  | junctionThrottle (die : Nat)
  | junctionShutdown (die : Nat)
  | junctionCooled (die : Nat)
  deriving DecidableEq, Repr

end Sys2Proof
end

