-- ==== Sys2Proof/WellFormed.lean ====
section
/-! DEFINITION. Well-formed instructions: every field value lies in the range that R45 and R47 give its field, and every
unit that an event names is one that the package has (R17 to R20, R28, R194, R357). Combinations of legal fields that an
entry refuses are `Instr.staticFault` of Decode.lean. -/

namespace Sys2Proof

/-- A signed value fits a field of `n` bits (R47). -/
def fitsInt (n : Nat) (i : Int) : Bool := decide (-(2 ^ (n - 1) : Int) ≤ i) && decide (i < (2 ^ (n - 1) : Int))

/-- An optional register index lies below `n`. -/
def optLt (n : Nat) : Option Nat → Bool
  | none => true
  | some k => decide (k < n)

/-- The fields of a wide operand lie in their ranges (R56). -/
def WOp.wf : WOp → Bool
  | .h t i => decide (t < 32) && decide (i < 32)
  | .v t i => decide (t < 32) && decide (i < 32)
  | .d t i => decide (t < 32) && decide (i < 32)
  | .q n => decide (n < 8)
  | .bcast => true

/-- CLASS is 0 to 15; SCOPE and EVICT fit three bits (R55). -/
def AccOrd.wf (o : AccOrd) : Bool := decide (o.cls < 16) && decide (o.scope < 8) && decide (o.evict < 8)

/-- The descriptor of a row access is d0 to d15 (R45). -/
def VSpace.wf : VSpace → Bool
  | .spad => true
  | .desc d => decide (d < 16)

/-- The capability or descriptor of a transfer is one of sixteen (R45). -/
def XMem.wf : XMem → Bool
  | .cap c => decide (c < 16)
  | .desc d => decide (d < 16)

/-- The capability of a copy or fill is one of sixteen (R45). -/
def XSpace.wf : XSpace → Bool
  | .spad => true
  | .object c => decide (c < 16)

/-- A virtual function is one of 64 (R21, R381). -/
def HostFn.wf : HostFn → Bool
  | .pf => true
  | .vf n => decide (n < 64)

/-- The commons engines of a kind (R19, R260). -/
def EngKind.units : EngKind → Nat
  | .bc => 8
  | .cp => 4
  | .cl => 4

/-- Every field of the instruction holds a value that its field can name, and every unit of an event exists. -/
def Instr.wf : Instr → Bool
  | .nop => true
  | .mov sd sa => decide (sd < 64) && decide (sa < 64)
  | .sel sd sa sb k => decide (sd < 64) && decide (sa < 64) && decide (sb < 64) && decide (k < 8)
  | .lea sd sa sb shift => decide (sd < 64) && decide (sa < 64) && decide (sb < 64) && decide (shift < 8)
  | .mfs sd spec => decide (sd < 64) && decide (spec < 1024)
  | .mts sa spec => decide (sa < 64) && decide (spec < 1024)
  | .add sd sa sb _ => decide (sd < 64) && decide (sa < 64) && decide (sb < 64)
  | .sub sd sa sb _ => decide (sd < 64) && decide (sa < 64) && decide (sb < 64)
  | .mul sd sa sb _ => decide (sd < 64) && decide (sa < 64) && decide (sb < 64)
  | .mulh sd sa sb => decide (sd < 64) && decide (sa < 64) && decide (sb < 64)
  | .mulhu sd sa sb => decide (sd < 64) && decide (sa < 64) && decide (sb < 64)
  | .div sd sa sb => decide (sd < 64) && decide (sa < 64) && decide (sb < 64)
  | .divu sd sa sb => decide (sd < 64) && decide (sa < 64) && decide (sb < 64)
  | .rem sd sa sb => decide (sd < 64) && decide (sa < 64) && decide (sb < 64)
  | .remu sd sa sb => decide (sd < 64) && decide (sa < 64) && decide (sb < 64)
  | .min sd sa sb => decide (sd < 64) && decide (sa < 64) && decide (sb < 64)
  | .max sd sa sb => decide (sd < 64) && decide (sa < 64) && decide (sb < 64)
  | .minu sd sa sb => decide (sd < 64) && decide (sa < 64) && decide (sb < 64)
  | .maxu sd sa sb => decide (sd < 64) && decide (sa < 64) && decide (sb < 64)
  | .and sd sa sb => decide (sd < 64) && decide (sa < 64) && decide (sb < 64)
  | .or sd sa sb => decide (sd < 64) && decide (sa < 64) && decide (sb < 64)
  | .xor sd sa sb => decide (sd < 64) && decide (sa < 64) && decide (sb < 64)
  | .andn sd sa sb => decide (sd < 64) && decide (sa < 64) && decide (sb < 64)
  | .shl sd sa sb => decide (sd < 64) && decide (sa < 64) && decide (sb < 64)
  | .shr sd sa sb => decide (sd < 64) && decide (sa < 64) && decide (sb < 64)
  | .sra sd sa sb => decide (sd < 64) && decide (sa < 64) && decide (sb < 64)
  | .rol sd sa sb => decide (sd < 64) && decide (sa < 64) && decide (sb < 64)
  | .clz sd sa => decide (sd < 64) && decide (sa < 64)
  | .ctz sd sa => decide (sd < 64) && decide (sa < 64)
  | .popc sd sa => decide (sd < 64) && decide (sa < 64)
  | .brev sd sa => decide (sd < 64) && decide (sa < 64)
  | .sext sd sa _ => decide (sd < 64) && decide (sa < 64)
  | .zext sd sa _ => decide (sd < 64) && decide (sa < 64)
  | .addi sd sa _ imm => decide (sd < 64) && decide (sa < 64) && fitsInt 32 imm
  | .muli sd sa _ imm => decide (sd < 64) && decide (sa < 64) && fitsInt 32 imm
  | .andi sd sa imm => decide (sd < 64) && decide (sa < 64) && decide (imm < 4294967296)
  | .ori sd sa imm => decide (sd < 64) && decide (sa < 64) && decide (imm < 4294967296)
  | .xori sd sa imm => decide (sd < 64) && decide (sa < 64) && decide (imm < 4294967296)
  | .shli sd sa imm => decide (sd < 64) && decide (sa < 64) && decide (imm < 64)
  | .shri sd sa imm => decide (sd < 64) && decide (sa < 64) && decide (imm < 64)
  | .srai sd sa imm => decide (sd < 64) && decide (sa < 64) && decide (imm < 64)
  | .ldi sd imm => decide (sd < 64) && fitsInt 32 imm
  | .ldih sd imm => decide (sd < 64) && decide (imm < 4294967296)
  | .cmp kd sa sb _ => decide (kd < 8) && decide (sa < 64) && decide (sb < 64)
  | .cmpi kd sa _ imm => decide (kd < 8) && decide (sa < 64) && fitsInt 32 imm
  | .kand kd ka kb => decide (kd < 8) && decide (ka < 8) && decide (kb < 8)
  | .kor kd ka kb => decide (kd < 8) && decide (ka < 8) && decide (kb < 8)
  | .kxor kd ka kb => decide (kd < 8) && decide (ka < 8) && decide (kb < 8)
  | .knot kd ka => decide (kd < 8) && decide (ka < 8)
  | .vany kd p => decide (kd < 8) && decide (p < 8)
  | .vall kd p => decide (kd < 8) && decide (p < 8)
  | .prep bd disp => decide (bd < 4) && fitsInt 32 disp
  | .prepr bd sa => decide (bd < 4) && decide (sa < 64)
  | .br bd k => decide (bd < 4) && decide (k < 8)
  | .bra bd k => decide (bd < 4) && decide (k < 8)
  | .call bd k => decide (bd < 4) && decide (k < 8)
  | .ret k => decide (k < 8)
  | .loop lc sa body count => decide (lc < 4) && decide (sa < 64) && decide (body < 1024) && decide (count < 4096)
  | .loopp lc depth sa p k count e => decide (lc < 4) && decide (depth < 8) && decide (sa < 64) && decide (p < 1024) && decide (k < 1024) && decide (count < 4096) && decide (e < 512)
  | .brk lc k => decide (lc < 4) && decide (k < 8)
  | .lds sd c sa o _ imm => decide (sd < 64) && decide (c < 16) && decide (sa < 64) && o.wf && fitsInt 20 imm
  | .sts sd c sa o _ imm => decide (sd < 64) && decide (c < 16) && decide (sa < 64) && o.wf && fitsInt 20 imm
  | .ldp sd sa o imm => decide (sd < 64) && decide (sa < 64) && o.wf && fitsInt 20 imm
  | .stp sd sa o imm => decide (sd < 64) && decide (sa < 64) && o.wf && fitsInt 20 imm
  | .lde sd d sa o _ imm => decide (sd < 64) && decide (d < 16) && decide (sa < 64) && o.wf && fitsInt 20 imm
  | .ste sd d sa o _ imm => decide (sd < 64) && decide (d < 16) && decide (sa < 64) && o.wf && fitsInt 20 imm
  | .atom c sa o _ _ _ sb => decide (c < 16) && decide (sa < 64) && o.wf && decide (sb < 64)
  | .atomf sd c sa o _ _ _ sb => decide (sd < 64) && decide (c < 16) && decide (sa < 64) && o.wf && decide (sb < 64)
  | .acas sd c sa o _ _ sb sc => decide (sd < 64) && decide (c < 16) && decide (sa < 64) && o.wf && decide (sb < 64) && decide (sc < 64)
  | .capsel cd sa imm => decide (cd < 16) && decide (sa < 64) && decide (imm < 65536)
  | .capnar cd ca sb _ => decide (cd < 16) && decide (ca < 16) && decide (sb < 64)
  | .capinf sd ca _ => decide (sd < 64) && decide (ca < 16)
  | .capclr cd => decide (cd < 16)
  | .tdset dd sa _ => decide (dd < 16) && decide (sa < 64)
  | .tdget sd da _ => decide (sd < 64) && decide (da < 16)
  | .tdcap dd ca => decide (dd < 16) && decide (ca < 16)
  | .pref d sa sb cls scope evict rep => decide (d < 16) && decide (sa < 64) && decide (sb < 64) && decide (cls < 16) && decide (scope < 8) && decide (evict < 8) && decide (rep < 32)
  | .hint d sa sb rep _ => decide (d < 16) && decide (sa < 64) && decide (sb < 64) && decide (rep < 32)
  | .fence paths scope classes => decide (paths < 64) && decide (scope < 8) && decide (classes < 65536)
  | .fencem engines => decide (engines < 32)
  | .joinm => true
  | .waitc loads stores copies tileops => decide (loads < 16) && decide (stores < 16) && decide (copies < 16) && decide (tileops < 16)
  | .waita sd c sa o _ _ imm => decide (sd < 64) && decide (c < 16) && decide (sa < 64) && o.wf && fitsInt 20 imm
  | .tokp sluice sa => decide (sluice < 16) && decide (sa < 64)
  | .tokg sd sluice => decide (sd < 64) && decide (sluice < 16)
  | .tokn sd sluice => decide (sd < 64) && decide (sluice < 16)
  | .vld row sp sa sb o rep pN => row.wf && sp.wf && decide (sa < 64) && decide (sb < 64) && o.wf && decide (rep < 32) && decide (pN < 8)
  | .vlds row sp sa sb o rep pN dim => row.wf && sp.wf && decide (sa < 64) && decide (sb < 64) && o.wf && decide (rep < 32) && decide (pN < 8) && decide (dim < 4)
  | .vldt row sp sa sb o rep pN => row.wf && sp.wf && decide (sa < 64) && decide (sb < 64) && o.wf && decide (rep < 32) && decide (pN < 8)
  | .vldg row sp sa sb o rep pN => row.wf && sp.wf && decide (sa < 64) && decide (sb < 64) && o.wf && decide (rep < 32) && decide (pN < 8)
  | .vldc row d sa sb cls rep pN => row.wf && decide (d < 16) && decide (sa < 64) && decide (sb < 64) && decide (cls < 16) && decide (rep < 32) && decide (pN < 8)
  | .vst row sp sa sb o rep pN => row.wf && sp.wf && decide (sa < 64) && decide (sb < 64) && o.wf && decide (rep < 32) && decide (pN < 8)
  | .vsts row sp sa sb o rep pN dim => row.wf && sp.wf && decide (sa < 64) && decide (sb < 64) && o.wf && decide (rep < 32) && decide (pN < 8) && decide (dim < 4)
  | .vstt row sp sa sb o rep pN => row.wf && sp.wf && decide (sa < 64) && decide (sb < 64) && o.wf && decide (rep < 32) && decide (pN < 8)
  | .vsct row sp sa sb o rep pN => row.wf && sp.wf && decide (sa < 64) && decide (sb < 64) && o.wf && decide (rep < 32) && decide (pN < 8)
  | .vstc row d sa sb cls rep pN => row.wf && decide (d < 16) && decide (sa < 64) && decide (sb < 64) && decide (cls < 16) && decide (rep < 32) && decide (pN < 8)
  | .vadd dst a b sN pN rep => dst.wf && a.wf && b.wf && decide (sN < 64) && decide (pN < 8) && decide (rep < 32)
  | .vsub dst a b sN pN rep => dst.wf && a.wf && b.wf && decide (sN < 64) && decide (pN < 8) && decide (rep < 32)
  | .vmul dst a b sN pN rep => dst.wf && a.wf && b.wf && decide (sN < 64) && decide (pN < 8) && decide (rep < 32)
  | .vfma dst a b sN pN rep => dst.wf && a.wf && b.wf && decide (sN < 64) && decide (pN < 8) && decide (rep < 32)
  | .vfms dst a b sN pN rep => dst.wf && a.wf && b.wf && decide (sN < 64) && decide (pN < 8) && decide (rep < 32)
  | .vneg dst a sN pN rep => dst.wf && a.wf && decide (sN < 64) && decide (pN < 8) && decide (rep < 32)
  | .vabs dst a sN pN rep => dst.wf && a.wf && decide (sN < 64) && decide (pN < 8) && decide (rep < 32)
  | .vmin dst a b sN pN rep => dst.wf && a.wf && b.wf && decide (sN < 64) && decide (pN < 8) && decide (rep < 32)
  | .vmax dst a b sN pN rep => dst.wf && a.wf && b.wf && decide (sN < 64) && decide (pN < 8) && decide (rep < 32)
  | .vrcp dst a sN pN rep => dst.wf && a.wf && decide (sN < 64) && decide (pN < 8) && decide (rep < 32)
  | .vrsq dst a sN pN rep => dst.wf && a.wf && decide (sN < 64) && decide (pN < 8) && decide (rep < 32)
  | .vexp2 dst a sN pN rep => dst.wf && a.wf && decide (sN < 64) && decide (pN < 8) && decide (rep < 32)
  | .vlog2 dst a sN pN rep => dst.wf && a.wf && decide (sN < 64) && decide (pN < 8) && decide (rep < 32)
  | .viadd dst a b sN pN rep _ => dst.wf && a.wf && b.wf && decide (sN < 64) && decide (pN < 8) && decide (rep < 32)
  | .visub dst a b sN pN rep _ => dst.wf && a.wf && b.wf && decide (sN < 64) && decide (pN < 8) && decide (rep < 32)
  | .vimul dst a b sN pN rep _ => dst.wf && a.wf && b.wf && decide (sN < 64) && decide (pN < 8) && decide (rep < 32)
  | .vand dst a b sN pN rep => dst.wf && a.wf && b.wf && decide (sN < 64) && decide (pN < 8) && decide (rep < 32)
  | .vor dst a b sN pN rep => dst.wf && a.wf && b.wf && decide (sN < 64) && decide (pN < 8) && decide (rep < 32)
  | .vxor dst a b sN pN rep => dst.wf && a.wf && b.wf && decide (sN < 64) && decide (pN < 8) && decide (rep < 32)
  | .vshl dst a b sN pN rep => dst.wf && a.wf && b.wf && decide (sN < 64) && decide (pN < 8) && decide (rep < 32)
  | .vshr dst a b sN pN rep => dst.wf && a.wf && b.wf && decide (sN < 64) && decide (pN < 8) && decide (rep < 32)
  | .vsra dst a b sN pN rep => dst.wf && a.wf && b.wf && decide (sN < 64) && decide (pN < 8) && decide (rep < 32)
  | .vimin dst a b sN pN rep _ => dst.wf && a.wf && b.wf && decide (sN < 64) && decide (pN < 8) && decide (rep < 32)
  | .vimax dst a b sN pN rep _ => dst.wf && a.wf && b.wf && decide (sN < 64) && decide (pN < 8) && decide (rep < 32)
  | .vcmp pd _ a b sN pN => decide (pd < 8) && a.wf && b.wf && decide (sN < 64) && decide (pN < 8)
  | .vicmp pd _ a b sN pN => decide (pd < 8) && a.wf && b.wf && decide (sN < 64) && decide (pN < 8)
  | .pand pd pa pb => decide (pd < 8) && decide (pa < 8) && decide (pb < 8)
  | .por pd pa pb => decide (pd < 8) && decide (pa < 8) && decide (pb < 8)
  | .pxor pd pa pb => decide (pd < 8) && decide (pa < 8) && decide (pb < 8)
  | .pnot pd pa => decide (pd < 8) && decide (pa < 8)
  | .pmov pd pa => decide (pd < 8) && decide (pa < 8)
  | .vmov dst a sN pN rep => dst.wf && a.wf && decide (sN < 64) && decide (pN < 8) && decide (rep < 32)
  | .vsel dst a b sN pS rep => dst.wf && a.wf && b.wf && decide (sN < 64) && decide (pS < 8) && decide (rep < 32)
  | .vbcst dst a sN pN rep => dst.wf && a.wf && decide (sN < 64) && decide (pN < 8) && decide (rep < 32)
  | .vperm dst a b pN rep => dst.wf && a.wf && b.wf && decide (pN < 8) && decide (rep < 32)
  | .vrmg dst a b sN pN rep => dst.wf && a.wf && b.wf && decide (sN < 64) && decide (pN < 8) && decide (rep < 32)
  | .vidx dst sN pN rep => dst.wf && decide (sN < 64) && decide (pN < 8) && decide (rep < 32)
  | .vred dst a pN rep _ => dst.wf && a.wf && decide (pN < 8) && decide (rep < 32)
  | .vreds dst a pN rep _ => dst.wf && a.wf && decide (pN < 8) && decide (rep < 32)
  | .vscan dst a pN rep _ => dst.wf && a.wf && decide (pN < 8) && decide (rep < 32)
  | .vcvt dst a _ sN pN rep => dst.wf && a.wf && decide (sN < 64) && decide (pN < 8) && decide (rep < 32)
  | .vcvts dst a _ sN pN rep => dst.wf && a.wf && decide (sN < 64) && decide (pN < 8) && decide (rep < 32)
  | .vscl dst a b pN rep blk => dst.wf && a.wf && b.wf && decide (pN < 8) && decide (rep < 32) && decide (blk < 4)
  | .vpack dst a pN rep _ => dst.wf && a.wf && decide (pN < 8) && decide (rep < 32)
  | .vunpk dst a _ pN rep => dst.wf && a.wf && decide (pN < 8) && decide (rep < 32)
  | .vqln dst a _ pN rep => dst.wf && a.wf && decide (pN < 8) && decide (rep < 32)
  | .ttag tile _ _ => decide (tile < 32)
  | .ttget sd tile => decide (sd < 64) && decide (tile < 32)
  | .fmtm sa mask => decide (sa < 64) && decide (mask < 256)
  | .mma acc ma mb sK jet _ _ o => decide (acc < 32) && decide (ma < 8) && decide (mb < 8) && decide (sK < 64) && decide (jet < 4) && o.wf
  | .mmas acc ma mb sK jet _ _ o ms => decide (acc < 32) && decide (ma < 8) && decide (mb < 8) && decide (sK < 64) && decide (jet < 4) && o.wf && decide (ms < 8)
  | .mmal acc ma mb sK jet _ _ o ms => decide (acc < 32) && decide (ma < 8) && decide (mb < 8) && decide (sK < 64) && decide (jet < 4) && o.wf && optLt 8 ms
  | .mmaz acc ma mb sK jet _ _ o => decide (acc < 32) && decide (ma < 8) && decide (mb < 8) && decide (sK < 64) && decide (jet < 4) && o.wf
  | .mxsa ma sa sb _ => decide (ma < 8) && decide (sa < 64) && decide (sb < 64)
  | .mxsb mb sa sb _ => decide (mb < 8) && decide (sa < 64) && decide (sb < 64)
  | .mxsm ms sa _ => decide (ms < 8) && decide (sa < 64)
  | .mxrd sd _ index => decide (sd < 64) && decide (index < 16)
  | .bget mem sa sb sc sF o _ => mem.wf && decide (sa < 64) && decide (sb < 64) && decide (sc < 64) && decide (sF < 64) && o.wf
  | .bput mem sa sb sc sF o => mem.wf && decide (sa < 64) && decide (sb < 64) && decide (sc < 64) && decide (sF < 64) && o.wf
  | .bcpy sp sa sb sc sF o => sp.wf && decide (sa < 64) && decide (sb < 64) && decide (sc < 64) && decide (sF < 64) && o.wf
  | .bfill sp sloc sc sF o byte => sp.wf && decide (sloc < 64) && decide (sc < 64) && decide (sF < 64) && o.wf && decide (byte < 256)
  | .xflag sF o => decide (sF < 64) && o.wf
  | .bcan sF o => decide (sF < 64) && o.wf
  | .rlpub c sa sb sc sF o k => decide (c < 16) && decide (sa < 64) && decide (sb < 64) && decide (sc < 64) && decide (sF < 64) && o.wf && decide (k < 256)
  | .rlstp sa sF o => decide (sa < 64) && decide (sF < 64) && o.wf
  | .rlqry sb sF o => decide (sb < 64) && decide (sF < 64) && o.wf
  | .cbind sb sF o _ index => decide (sb < 64) && decide (sF < 64) && o.wf && decide (index < 256)
  | .crel sF o _ index => decide (sF < 64) && o.wf && decide (index < 256)
  | .ccoll c sa sb sc sF o => decide (c < 16) && decide (sa < 64) && decide (sb < 64) && decide (sc < 64) && decide (sF < 64) && o.wf
  | .ccmp c sa sb sc sF o _ => decide (c < 16) && decide (sa < 64) && decide (sb < 64) && decide (sc < 64) && decide (sF < 64) && o.wf
  | .cdcp c sa sb sc sF o _ => decide (c < 16) && decide (sa < 64) && decide (sb < 64) && decide (sc < 64) && decide (sF < 64) && o.wf
  | .cstat sb sF o => decide (sb < 64) && decide (sF < 64) && o.wf
  | .tspawn sd c sa sb _ => decide (sd < 64) && decide (c < 16) && decide (sa < 64) && decide (sb < 64)
  | .tdep sd sa sb _ => decide (sd < 64) && decide (sa < 64) && decide (sb < 64)
  | .tend => true
  | .ttrig => true
  | .tyld => true
  | .tself sd _ => decide (sd < 64)
  | .tprio sd sa sb => decide (sd < 64) && decide (sa < 64) && decide (sb < 64)
  | .gjoin sd sa imm => decide (sd < 64) && decide (sa < 64) && decide (imm < 65536)
  | .gleave sd sa imm => decide (sd < 64) && decide (sa < 64) && decide (imm < 65536)
  | .gbar sd sa imm => decide (sd < 64) && decide (sa < 64) && decide (imm < 65536)
  | .gmem sd sa imm => decide (sd < 64) && decide (sa < 64) && decide (imm < 65536)
  | .tlinc sd c sa sb scope => decide (sd < 64) && decide (c < 16) && decide (sa < 64) && decide (sb < 64) && decide (scope < 8)
  | .tlset sd c sa sb scope => decide (sd < 64) && decide (c < 16) && decide (sa < 64) && decide (sb < 64) && decide (scope < 8)
  | .tlwait sd c sa sb scope => decide (sd < 64) && decide (c < 16) && decide (sa < 64) && decide (sb < 64) && decide (scope < 8)
  | .tlget sd c sa scope => decide (sd < 64) && decide (c < 16) && decide (sa < 64) && decide (scope < 8)
  | .resq sd sa sb region => decide (sd < 64) && decide (sa < 64) && decide (sb < 64) && decide (region < 128)
  | .reshint sa sb region _ mask => decide (sa < 64) && decide (sb < 64) && decide (region < 128) && decide (mask < 8)
  | .trap sa imm _ => decide (sa < 64) && decide (imm < 65536)
  | .eret sa _ => decide (sa < 64)
  | .mfsp sd sa item => decide (sd < 64) && decide (sa < 64) && decide (item < 1024)
  | .mtsp sa sb item => decide (sa < 64) && decide (sb < 64) && decide (item < 1024)
  | .ctxsv sd sa sb c _ scope => decide (sd < 64) && decide (sa < 64) && decide (sb < 64) && decide (c < 16) && decide (scope < 8)
  | .ctxld sd sb c scope => decide (sd < 64) && decide (sb < 64) && decide (c < 16) && decide (scope < 8)
  | .fltinfo sd sa _ => decide (sd < 64) && decide (sa < 64)
  | .tlbiv sd sa sb _ => decide (sd < 64) && decide (sa < 64) && decide (sb < 64)
  | .unmap sd sa _ => decide (sd < 64) && decide (sa < 64)
  | .mapsync => true
  | .cstwin sd _ => decide (sd < 64)
  | .rgnasn sd sa sb => decide (sd < 64) && decide (sa < 64) && decide (sb < 64)
  | .rgnwin sd sa => decide (sd < 64) && decide (sa < 64)
  | .rgnrst sd sa => decide (sd < 64) && decide (sa < 64)
  | .scrub sd sa _ => decide (sd < 64) && decide (sa < 64)
  | .scrst sd sa _ => decide (sd < 64) && decide (sa < 64)
  | .tokchk sd sa sb c _ => decide (sd < 64) && decide (sa < 64) && decide (sb < 64) && decide (c < 16)
  | .keyz sd sa => decide (sd < 64) && decide (sa < 64)
  | .msgf sd sa c imm => decide (sd < 64) && decide (sa < 64) && decide (c < 16) && decide (imm < 256)
  | .xenq sd sa c imm => decide (sd < 64) && decide (sa < 64) && decide (c < 16) && decide (imm < 256)
  | .lkst sd sa _ => decide (sd < 64) && decide (sa < 64)
  | .lkdrn sd sa => decide (sd < 64) && decide (sa < 64)
  | .lktop sd sa c => decide (sd < 64) && decide (sa < 64) && decide (c < 16)
  | .lkrsm sd sa => decide (sd < 64) && decide (sa < 64)
  | .lsacq sd sa sb _ => decide (sd < 64) && decide (sa < 64) && decide (sb < 64)
  | .lsrnw sd sb => decide (sd < 64) && decide (sb < 64)
  | .lsrel sd => decide (sd < 64)
  | .lstok sd _ => decide (sd < 64)
  | .feat sd _ => decide (sd < 64)
  | .errlog sd sa c _ => decide (sd < 64) && decide (sa < 64) && decide (c < 16)
  | .loadDataReturn core slot _ => decide (core < 65) && decide (slot < 4)
  | .postedAccessAck core slot _ => decide (core < 65) && decide (slot < 4)
  | .markerRetire core slot _ => decide (core < 65) && decide (slot < 4)
  | .waitaRepoll core slot => decide (core < 65) && decide (slot < 4)
  | .tokenEntry core slot => decide (core < 65) && decide (slot < 4)
  | .sluiceReservationGrant core sluice => decide (core < 65) && decide (sluice < 16)
  | .vlStep core slot => decide (core < 65) && decide (slot < 4)
  | .vsStep core slot => decide (core < 65) && decide (slot < 4)
  | .vaStep core slot => decide (core < 65) && decide (slot < 4)
  | .mxStep core jet => decide (core < 65) && decide (jet < 3)
  | .mxCommandStart core => decide (core < 65)
  | .xfPayloadStep core _ => decide (core < 65)
  | .xfSingleStep core _ => decide (core < 65)
  | .flagStep core _ => decide (core < 65)
  | .rillFetch part => decide (part < 65)
  | .bindingExpiry kind index => decide (index < kind.units)
  | .arbiterRound _ => true
  | .tlwaitRetest part _ => decide (part < 65)
  | .dispatchDecision part => decide (part < 65)
  | .preemptionRequest core slot => decide (core < 65) && decide (slot < 4)
  | .drainLimitExpiry core slot => decide (core < 65) && decide (slot < 4)
  | .sliceExpiry core slot => decide (core < 65) && decide (slot < 4)
  | .handlerRecordEntry => true
  | .frameSlotFreed core slot => decide (core < 65) && decide (slot < 4)
  | .fetchCheckFault => true
  | .illegalInstruction _ => true
  | .translationLeaseExpiry region => decide (region < 66)
  | .cisternRefreshWindow => true
  | .regionResetRelease region => decide (region < 64)
  | .quiesceComplete region => decide (region < 64)
  | .scrubPhaseComplete region => decide (region < 64)
  | .tokenSigned => true
  | .frameScrubStart => true
  | .scrubOnFreeAck _ => true
  | .drainComplete conduit => decide (conduit < 48)
  | .trainingAttemptSuccess conduit => decide (conduit < 48)
  | .trainingAttemptFail conduit => decide (conduit < 48)
  | .retuneComplete conduit => decide (conduit < 48)
  | .retuneFail conduit => decide (conduit < 48)
  | .lossOfSignal conduit => decide (conduit < 48)
  | .linkRetryExhausted conduit => decide (conduit < 48)
  | .heldRequestTimeout core slot _ => decide (core < 65) && decide (slot < 4)
  | .requestOutcomeTimeout core slot _ => decide (core < 65) && decide (slot < 4)
  | .retryStatus core slot _ => decide (core < 65) && decide (slot < 4)
  | .staleAnswer core slot _ => decide (core < 65) && decide (slot < 4)
  | .fencedAnswer => true
  | .recall _ _ => true
  | .readLeaseExpiry part _ => decide (part < 64)
  | .join => true
  | .joinAccepted slice => decide (slice < 256)
  | .leaseGrant part _ _ => decide (part < 64)
  | .lsacqWaitTimeout part => decide (part < 64)
  | .stepLeaseExpiry part => decide (part < 64)
  | .inboundPeerRequest _ size _ => decide (0 < size) && decide (size < 9)
  | .launch fn _ _ _ _ => fn.wf
  | .tokchkCommand fn region _ => fn.wf && decide (region < 256)
  | .tokget fn region _ => fn.wf && decide (region < 256)
  | .repair fn _ => fn.wf
  | .accept fn _ => fn.wf
  | .keyset fn _ _ _ => fn.wf
  | .pubkey fn => fn.wf
  | .readlog fn => fn.wf
  | .unlistedCommandCode fn _ => fn.wf
  | .sidebandTemperature => true
  | .sidebandPower => true
  | .sidebandPwst => true
  | .sidebandLstate => true
  | .sidebandDevid => true
  | .sidebandPubkey => true
  | .sidebandNack _ => true
  | .packageReset => true
  | .powerLimit => true
  | .junctionThrottle die => decide (die < 4)
  | .junctionShutdown die => decide (die < 4)
  | .junctionCooled die => decide (die < 4)

/-- The instructions of wbas, which have a word; the other rows of the table are operations and events. -/
def Instr.isWbas : Instr → Bool
  | .loadDataReturn _ _ _ => false
  | .postedAccessAck _ _ _ => false
  | .markerRetire _ _ _ => false
  | .waitaRepoll _ _ => false
  | .tokenEntry _ _ => false
  | .sluiceReservationGrant _ _ => false
  | .vlStep _ _ => false
  | .vsStep _ _ => false
  | .vaStep _ _ => false
  | .mxStep _ _ => false
  | .mxCommandStart _ => false
  | .xfPayloadStep _ _ => false
  | .xfSingleStep _ _ => false
  | .flagStep _ _ => false
  | .rillFetch _ => false
  | .bindingExpiry _ _ => false
  | .arbiterRound _ => false
  | .tlwaitRetest _ _ => false
  | .dispatchDecision _ => false
  | .preemptionRequest _ _ => false
  | .drainLimitExpiry _ _ => false
  | .sliceExpiry _ _ => false
  | .handlerRecordEntry => false
  | .frameSlotFreed _ _ => false
  | .fetchCheckFault => false
  | .illegalInstruction _ => false
  | .translationLeaseExpiry _ => false
  | .cisternRefreshWindow => false
  | .regionResetRelease _ => false
  | .quiesceComplete _ => false
  | .scrubPhaseComplete _ => false
  | .tokenSigned => false
  | .frameScrubStart => false
  | .scrubOnFreeAck _ => false
  | .drainComplete _ => false
  | .trainingAttemptSuccess _ => false
  | .trainingAttemptFail _ => false
  | .retuneComplete _ => false
  | .retuneFail _ => false
  | .lossOfSignal _ => false
  | .linkRetryExhausted _ => false
  | .heldRequestTimeout _ _ _ => false
  | .requestOutcomeTimeout _ _ _ => false
  | .retryStatus _ _ _ => false
  | .staleAnswer _ _ _ => false
  | .fencedAnswer => false
  | .recall _ _ => false
  | .readLeaseExpiry _ _ => false
  | .join => false
  | .joinAccepted _ => false
  | .leaseGrant _ _ _ => false
  | .lsacqWaitTimeout _ => false
  | .stepLeaseExpiry _ => false
  | .inboundPeerRequest _ _ _ => false
  | .launch _ _ _ _ _ => false
  | .tokchkCommand _ _ _ => false
  | .tokget _ _ _ => false
  | .repair _ _ => false
  | .accept _ _ => false
  | .keyset _ _ _ _ => false
  | .pubkey _ => false
  | .readlog _ => false
  | .unlistedCommandCode _ _ => false
  | .sidebandTemperature => false
  | .sidebandPower => false
  | .sidebandPwst => false
  | .sidebandLstate => false
  | .sidebandDevid => false
  | .sidebandPubkey => false
  | .sidebandNack _ => false
  | .packageReset => false
  | .powerLimit => false
  | .junctionThrottle _ => false
  | .junctionShutdown _ => false
  | .junctionCooled _ => false
  | _ => true

end Sys2Proof
end

