-- ==== Sys2Proof/Decode.lean ====
section
/-! DEFINITION. Instruction words (R39 to R71): the encoder and the decoder, both written from the spec's encoding tables,
the fate of every word that is no instruction (R42), and the properties of an instruction that its issue checks read
(level, transfer of control, feature, engine, fields an entry refuses). -/

namespace Sys2Proof

/-- The `n` bits of `w` from bit `lo` upwards. -/
def fld (w lo n : Nat) : Nat := w / 2 ^ lo % 2 ^ n

/-- A signed value as `n` bits (R47). -/
def unsgn (n : Nat) (i : Int) : Nat := (i % (2 ^ n : Int)).toNat

/-- `n` bits read as a signed value (R47). -/
def sgn (n v : Nat) : Int := if v < 2 ^ (n - 1) then (v : Int) else (v : Int) - (2 ^ n : Int)

/-- Saturation modes (R117, R217). -/
def Sat.code : Sat → Nat
  | .wrap => 0
  | .sat => 1
  | .satu => 2

/-- The inverse of `Sat.code`; a reserved value has none. -/
def Sat.ofCode : Nat → Option Sat
  | 0 => some .wrap
  | 1 => some .sat
  | 2 => some .satu
  | _ => none

/-- Sizes of SEXT and ZEXT (R118). -/
def ExtSize.code : ExtSize → Nat
  | .b => 0
  | .h => 1
  | .w => 2

/-- The inverse of `ExtSize.code`; a reserved value has none. -/
def ExtSize.ofCode : Nat → Option ExtSize
  | 0 => some .b
  | 1 => some .h
  | 2 => some .w
  | _ => none

/-- The Size field of formats M and A (R51). -/
def Size.code : Size → Nat
  | .b => 0
  | .h => 1
  | .w => 2
  | .d => 3

/-- The inverse of `Size.code`; a reserved value has none. -/
def Size.ofCode : Nat → Option Size
  | 0 => some .b
  | 1 => some .h
  | 2 => some .w
  | 3 => some .d
  | _ => none

/-- Conditions (R121, R218). -/
def Cond.code : Cond → Nat
  | .eq => 0
  | .ne => 1
  | .lt => 2
  | .ge => 3
  | .le => 4
  | .gt => 5
  | .ltu => 6
  | .geu => 7
  | .leu => 8
  | .gtu => 9
  | .tst => 10
  | .ntst => 11

/-- The inverse of `Cond.code`; a reserved value has none. -/
def Cond.ofCode : Nat → Option Cond
  | 0 => some .eq
  | 1 => some .ne
  | 2 => some .lt
  | 3 => some .ge
  | 4 => some .le
  | 5 => some .gt
  | 6 => some .ltu
  | 7 => some .geu
  | 8 => some .leu
  | 9 => some .gtu
  | 10 => some .tst
  | 11 => some .ntst
  | _ => none

/-- Conditions of VCMP (R218). -/
def FCond.code : FCond → Nat
  | .eq => 0
  | .ne => 1
  | .lt => 2
  | .ge => 3
  | .le => 4
  | .gt => 5
  | .unord => 10
  | .ord => 11

/-- The inverse of `FCond.code`; a reserved value has none. -/
def FCond.ofCode : Nat → Option FCond
  | 0 => some .eq
  | 1 => some .ne
  | 2 => some .lt
  | 3 => some .ge
  | 4 => some .le
  | 5 => some .gt
  | 10 => some .unord
  | 11 => some .ord
  | _ => none

/-- Atomic operations (R160). -/
def Aop.code : Aop → Nat
  | .add => 0
  | .and => 1
  | .or => 2
  | .xor => 3
  | .smin => 4
  | .smax => 5
  | .umin => 6
  | .umax => 7
  | .xchg => 8
  | .fadd => 9
  | .fmin => 10
  | .fmax => 11

/-- The inverse of `Aop.code`; a reserved value has none. -/
def Aop.ofCode : Nat → Option Aop
  | 0 => some .add
  | 1 => some .and
  | 2 => some .or
  | 3 => some .xor
  | 4 => some .smin
  | 5 => some .smax
  | 6 => some .umin
  | 7 => some .umax
  | 8 => some .xchg
  | 9 => some .fadd
  | 10 => some .fmin
  | 11 => some .fmax
  | _ => none

/-- The ORD field (R55). -/
def Ord2.code : Ord2 → Nat
  | .plain => 0
  | .acq => 1
  | .rel => 2
  | .ar => 3

/-- The inverse of `Ord2.code`; a reserved value has none. -/
def Ord2.ofCode : Nat → Option Ord2
  | 0 => some .plain
  | 1 => some .acq
  | 2 => some .rel
  | 3 => some .ar
  | _ => none

/-- The Space field of atomics and WAITA (R52, R193). -/
def ASpace.code : ASpace → Nat
  | .object => 0
  | .spad => 1

/-- The inverse of `ASpace.code`; a reserved value has none. -/
def ASpace.ofCode : Nat → Option ASpace
  | 0 => some .object
  | 1 => some .spad
  | _ => none

/-- Format tags (R81); EMPTY and the reserved codes are no target. -/
def Fmt.code : Fmt → Nat
  | .fp32 => 0
  | .fp16 => 1
  | .bf16 => 2
  | .fp8l => 3
  | .fp8w => 4
  | .ln6 => 5
  | .int8 => 8
  | .uint8 => 9
  | .int32 => 10
  | .uint32 => 11

/-- The inverse of `Fmt.code`; a reserved value has none. -/
def Fmt.ofCode : Nat → Option Fmt
  | 0 => some .fp32
  | 1 => some .fp16
  | 2 => some .bf16
  | 3 => some .fp8l
  | 4 => some .fp8w
  | 5 => some .ln6
  | 8 => some .int8
  | 9 => some .uint8
  | 10 => some .int32
  | 11 => some .uint32
  | _ => none

/-- Rounding codes (R67). -/
def Rnd.code : Rnd → Nat
  | .rne => 0
  | .rtz => 1
  | .rdn => 2
  | .rup => 3
  | .rna => 4
  | .sto => 5

/-- The inverse of `Rnd.code`; a reserved value has none. -/
def Rnd.ofCode : Nat → Option Rnd
  | 0 => some .rne
  | 1 => some .rtz
  | 2 => some .rdn
  | 3 => some .rup
  | 4 => some .rna
  | 5 => some .sto
  | _ => none

/-- Forms of CAPNAR (R164). -/
def NarForm.code : NarForm → Nat
  | .rights => 0
  | .lo => 1
  | .hi => 2

/-- The inverse of `NarForm.code`; a reserved value has none. -/
def NarForm.ofCode : Nat → Option NarForm
  | 0 => some .rights
  | 1 => some .lo
  | 2 => some .hi
  | _ => none

/-- Items of CAPINF (R165). -/
def CapItem.code : CapItem → Nat
  | .oid => 0
  | .lo => 1
  | .hi => 2
  | .attr => 3
  | .ttp => 4

/-- The inverse of `CapItem.code`; a reserved value has none. -/
def CapItem.ofCode : Nat → Option CapItem
  | 0 => some .oid
  | 1 => some .lo
  | 2 => some .hi
  | 3 => some .attr
  | 4 => some .ttp
  | _ => none

/-- Field selectors of TDSET and TDGET (R167). -/
def TdField.code : TdField → Nat
  | .handle => 0
  | .fmt => 1
  | .layout => 2
  | .rank => 3
  | .e0 => 4
  | .e1 => 5
  | .e2 => 6
  | .e3 => 7
  | .base => 8
  | .w0 => 9
  | .w1 => 10
  | .w2 => 11
  | .ttp => 12

/-- The inverse of `TdField.code`; a reserved value has none. -/
def TdField.ofCode : Nat → Option TdField
  | 0 => some .handle
  | 1 => some .fmt
  | 2 => some .layout
  | 3 => some .rank
  | 4 => some .e0
  | 5 => some .e1
  | 6 => some .e2
  | 7 => some .e3
  | 8 => some .base
  | 9 => some .w0
  | 10 => some .w1
  | 11 => some .w2
  | 12 => some .ttp
  | _ => none

/-- Retention classes (R170). -/
def Retain.code : Retain → Nat
  | .hot => 0
  | .warm => 1
  | .cold => 2
  | .stream => 3

/-- The inverse of `Retain.code`; a reserved value has none. -/
def Retain.ofCode : Nat → Option Retain
  | 0 => some .hot
  | 1 => some .warm
  | 2 => some .cold
  | 3 => some .stream
  | _ => none

/-- Reductions (R221). -/
def RedOp.code : RedOp → Nat
  | .add => 0
  | .min => 1
  | .max => 2

/-- The inverse of `RedOp.code`; a reserved value has none. -/
def RedOp.ofCode : Nat → Option RedOp
  | 0 => some .add
  | 1 => some .min
  | 2 => some .max
  | _ => none

/-- Forms of VPACK (R101). -/
def PackMode.code : PackMode → Nat
  | .half => 0
  | .qtr => 1

/-- The inverse of `PackMode.code`; a reserved value has none. -/
def PackMode.ofCode : Nat → Option PackMode
  | 0 => some .half
  | 1 => some .qtr
  | _ => none

/-- Matrix operand formats (R225). -/
def MxFmt.code : MxFmt → Nat
  | .fp8l => 0
  | .fp8w => 1
  | .bf16 => 2
  | .fp16 => 3
  | .ln6 => 4
  | .fp8ls => 8
  | .fp8ws => 9
  | .ln6s => 12

/-- The inverse of `MxFmt.code`; a reserved value has none. -/
def MxFmt.ofCode : Nat → Option MxFmt
  | 0 => some .fp8l
  | 1 => some .fp8w
  | 2 => some .bf16
  | 3 => some .fp16
  | 4 => some .ln6
  | 8 => some .fp8ls
  | 9 => some .fp8ws
  | 12 => some .ln6s
  | _ => none

/-- SRC of MXSA and MXSB (R229). -/
def MxSrc.code : MxSrc → Nat
  | .tile => 0
  | .spad => 1
  | .desc => 2

/-- The inverse of `MxSrc.code`; a reserved value has none. -/
def MxSrc.ofCode : Nat → Option MxSrc
  | 0 => some .tile
  | 1 => some .spad
  | 2 => some .desc
  | _ => none

/-- MODE of MXSM (R230); 00 is refused. -/
def MsMode.code : MsMode → Nat
  | .bmap => 1
  | .sp24 => 2
  | .both => 3

/-- The inverse of `MsMode.code`; a reserved value has none. -/
def MsMode.ofCode : Nat → Option MsMode
  | 1 => some .bmap
  | 2 => some .sp24
  | 3 => some .both
  | _ => none

/-- Items of MXRD (R240). -/
def MxItem.code : MxItem → Nat
  | .rp => 0
  | .stat => 1
  | .wa => 2
  | .wb => 3
  | .mbwa => 4
  | .mbwb => 5
  | .ms => 6

/-- The inverse of `MxItem.code`; a reserved value has none. -/
def MxItem.ofCode : Nat → Option MxItem
  | 0 => some .rp
  | 1 => some .stat
  | 2 => some .wa
  | 3 => some .wb
  | 4 => some .mbwa
  | 5 => some .mbwb
  | 6 => some .ms
  | _ => none

/-- Destinations of BGET (R245). -/
def GetDest.code : GetDest → Nat
  | .spad => 0
  | .rsv => 1
  | .cist => 2

/-- The inverse of `GetDest.code`; a reserved value has none. -/
def GetDest.ofCode : Nat → Option GetDest
  | 0 => some .spad
  | 1 => some .rsv
  | 2 => some .cist
  | _ => none

/-- Kinds of commons engine (R245). -/
def EngKind.code : EngKind → Nat
  | .bc => 0
  | .cp => 1
  | .cl => 2

/-- The inverse of `EngKind.code`; a reserved value has none. -/
def EngKind.ofCode : Nat → Option EngKind
  | 0 => some .bc
  | 1 => some .cp
  | 2 => some .cl
  | _ => none

/-- Items of TSELF (R288). -/
def SelfItem.code : SelfItem → Nat
  | .id => 0
  | .parent => 1
  | .frame => 2
  | .launch => 3

/-- The inverse of `SelfItem.code`; a reserved value has none. -/
def SelfItem.ofCode : Nat → Option SelfItem
  | 0 => some .id
  | 1 => some .parent
  | 2 => some .frame
  | 3 => some .launch
  | _ => none

/-- Forms of ERET (R316). -/
def EretForm.code : EretForm → Nat
  | .res => 0
  | .kill => 1
  | .refl => 2

/-- The inverse of `EretForm.code`; a reserved value has none. -/
def EretForm.ofCode : Nat → Option EretForm
  | 0 => some .res
  | 1 => some .kill
  | 2 => some .refl
  | _ => none

/-- Items of FLTINFO (R318). -/
def FltItem.code : FltItem → Nat
  | .word => 0
  | .pc => 1
  | .mpc => 2
  | .oid => 3
  | .x0 => 4
  | .xhi => 5
  | .leaf => 6
  | .tick => 7

/-- The inverse of `FltItem.code`; a reserved value has none. -/
def FltItem.ofCode : Nat → Option FltItem
  | 0 => some .word
  | 1 => some .pc
  | 2 => some .mpc
  | 3 => some .oid
  | 4 => some .x0
  | 5 => some .xhi
  | 6 => some .leaf
  | 7 => some .tick
  | _ => none

/-- Forms of TLBIV (R320). -/
def TlbForm.code : TlbForm → Nat
  | .tile => 0
  | .table => 1
  | .all => 2

/-- The inverse of `TlbForm.code`; a reserved value has none. -/
def TlbForm.ofCode : Nat → Option TlbForm
  | 0 => some .tile
  | 1 => some .table
  | 2 => some .all
  | _ => none

/-- Items of LSTOK (R379). -/
def TokItem.code : TokItem → Nat
  | .tok => 0
  | .name => 1
  | .left => 2
  | .st => 3

/-- The inverse of `TokItem.code`; a reserved value has none. -/
def TokItem.ofCode : Nat → Option TokItem
  | 0 => some .tok
  | 1 => some .name
  | 2 => some .left
  | 3 => some .st
  | _ => none

/-- Items of FEAT (R387). -/
def FeatItem.code : FeatItem → Nat
  | .off => 0
  | .acc => 1
  | .lock => 2

/-- The inverse of `FeatItem.code`; a reserved value has none. -/
def FeatItem.ofCode : Nat → Option FeatItem
  | 0 => some .off
  | 1 => some .acc
  | 2 => some .lock
  | _ => none

/-- A wide operand field (R56). -/
def WOp.code : WOp → Nat
  | .h t i => t * 32 + i
  | .v t i => 1024 + t * 32 + i
  | .d t i => 2048 + t * 32 + i
  | .q n => 3072 + n
  | .bcast => 4095

/-- The wide operand that a 12-bit field names; direction 11 with another value is reserved (R56). -/
def WOp.ofCode (v : Nat) : Option WOp :=
  if v < 1024 then some (.h (v / 32) (v % 32))
  else if v < 2048 then some (.v ((v - 1024) / 32) (v % 32))
  else if v < 3072 then some (.d ((v - 2048) / 32) (v % 32))
  else if v < 3080 then some (.q (v - 3072))
  else if v = 4095 then some .bcast
  else none

/-- CLASS, ORD, SCOPE and EVICT, which stand side by side in every format (R51 to R55). -/
def AccOrd.code (o : AccOrd) : Nat := o.cls * 256 + o.ord.code * 64 + o.scope * 8 + o.evict

/-- The inverse of `AccOrd.code` on 12 bits. -/
def AccOrd.ofCode (v : Nat) : Option AccOrd := do
  let q ← Ord2.ofCode (v / 64 % 4)
  some ⟨v / 256, q, v / 8 % 8, v % 8⟩

/-- The conversion control word of R67. -/
def CvtWord.code (c : CvtWord) : Nat := c.target.code * 128 + c.rnd.code * 16 + c.sat.toNat * 8

/-- The inverse of `CvtWord.code` on 12 bits (R67, R97). -/
def CvtWord.ofCode (v : Nat) : Option CvtWord := do
  let t ← Fmt.ofCode (v / 128)
  let r ← Rnd.ofCode (v / 16 % 8)
  some ⟨t, r, v / 8 % 2 == 1⟩

/-- The Space field of a row access (R54). -/
def VSpace.code : VSpace → Nat
  | .spad => 0
  | .desc _ => 1

/-- The dN field of a row access; zero for the scratchpad (R54). -/
def VSpace.reg : VSpace → Nat
  | .spad => 0
  | .desc d => d

/-- The space of a row access from its Space and dN fields; 10 and 11 are reserved here (R66, R207). -/
def VSpace.ofCode (sp d : Nat) : Option VSpace :=
  match sp with
  | 0 => some .spad
  | 1 => some (.desc d)
  | _ => none

/-- Bit [3] of sub of BGET and BPUT (R245). -/
def XMem.code : XMem → Nat
  | .cap _ => 0
  | .desc _ => 1

/-- The cN or dN field of BGET and BPUT (R245). -/
def XMem.reg : XMem → Nat
  | .cap c => c
  | .desc d => d

/-- The memory side of BGET and BPUT (R245). -/
def XMem.ofCode (b r : Nat) : XMem := if b = 1 then .desc r else .cap r

/-- Bit [0] of sub of BCPY and BFILL (R245). -/
def XSpace.code : XSpace → Nat
  | .spad => 0
  | .object _ => 1

/-- The cN field of BCPY and BFILL; c0 for the scratchpad (R245). -/
def XSpace.reg : XSpace → Nat
  | .spad => 0
  | .object c => c

/-- The space of BCPY and BFILL (R245). -/
def XSpace.ofCode (b r : Nat) : XSpace := if b = 1 then .object r else .spad

/-- The ms selector: 0x0 to 0x7, or 0xF for a dense command (R54). -/
def msCode : Option Nat → Nat
  | none => 15
  | some k => k

/-- The ms register that a selector names; 0xF names none. -/
def msOf (v : Nat) : Option Nat := if v = 15 then none else some v

/-- A word of format S, assembled from its fields (R48). -/
def S.asm (cls opc : Nat) (sd : Nat := 0) (sa : Nat := 0) (sb : Nat := 0) (sc : Nat := 0) (k : Nat := 0) (sub : Nat := 0) : Nat :=
  cls * 2 ^ 60 + opc * 2 ^ 52 + sd * 2 ^ 46 + sa * 2 ^ 40 + sb * 2 ^ 34 + sc * 2 ^ 28 + k * 2 ^ 24 + sub * 2 ^ 16

/-- Field sd of format S, bits [51:46] (R48). -/
abbrev S.sd (w : Nat) : Nat := fld w 46 6
/-- Field sa of format S, bits [45:40] (R48). -/
abbrev S.sa (w : Nat) : Nat := fld w 40 6
/-- Field sb of format S, bits [39:34] (R48). -/
abbrev S.sb (w : Nat) : Nat := fld w 34 6
/-- Field sc of format S, bits [33:28] (R48). -/
abbrev S.sc (w : Nat) : Nat := fld w 28 6
/-- Field k of format S, bits [27:24] (R48). -/
abbrev S.k (w : Nat) : Nat := fld w 24 4
/-- Field sub of format S, bits [23:16] (R48). -/
abbrev S.sub (w : Nat) : Nat := fld w 16 8

/-- A word of format I, assembled from its fields (R49). -/
def I.asm (cls opc : Nat) (sd : Nat := 0) (sa : Nat := 0) (sub : Nat := 0) (imm32 : Nat := 0) : Nat :=
  cls * 2 ^ 60 + opc * 2 ^ 52 + sd * 2 ^ 46 + sa * 2 ^ 40 + sub * 2 ^ 32 + imm32

/-- Field sd of format I, bits [51:46] (R49). -/
abbrev I.sd (w : Nat) : Nat := fld w 46 6
/-- Field sa of format I, bits [45:40] (R49). -/
abbrev I.sa (w : Nat) : Nat := fld w 40 6
/-- Field sub of format I, bits [39:32] (R49). -/
abbrev I.sub (w : Nat) : Nat := fld w 32 8
/-- Field imm32 of format I, bits [31:0] (R49). -/
abbrev I.imm32 (w : Nat) : Nat := fld w 0 32

/-- A word of format B, assembled from its fields (R50). -/
def B.asm (cls opc : Nat) (bd : Nat := 0) (k : Nat := 0) (lc : Nat := 0) (sub : Nat := 0) (sa : Nat := 0) (low : Nat := 0) (imm32 : Nat := 0) : Nat :=
  cls * 2 ^ 60 + opc * 2 ^ 52 + bd * 2 ^ 50 + k * 2 ^ 47 + lc * 2 ^ 45 + sub * 2 ^ 42 + sa * 2 ^ 36 + low * 2 ^ 32 + imm32

/-- Field bd of format B, bits [51:50] (R50). -/
abbrev B.bd (w : Nat) : Nat := fld w 50 2
/-- Field k of format B, bits [49:47] (R50). -/
abbrev B.k (w : Nat) : Nat := fld w 47 3
/-- Field lc of format B, bits [46:45] (R50). -/
abbrev B.lc (w : Nat) : Nat := fld w 45 2
/-- Field sub of format B, bits [44:42] (R50). -/
abbrev B.sub (w : Nat) : Nat := fld w 42 3
/-- Field sa of format B, bits [41:36] (R50). -/
abbrev B.sa (w : Nat) : Nat := fld w 36 6
/-- Field low of format B, bits [35:32] (R50). -/
abbrev B.low (w : Nat) : Nat := fld w 32 4
/-- Field imm32 of format B, bits [31:0] (R50). -/
abbrev B.imm32 (w : Nat) : Nat := fld w 0 32

/-- A word of format M, assembled from its fields (R51). -/
def M.asm (cls opc : Nat) (sd : Nat := 0) (cN : Nat := 0) (sa : Nat := 0) (ord : Nat := 0) (size : Nat := 0) (space : Nat := 0) (imm20 : Nat := 0) : Nat :=
  cls * 2 ^ 60 + opc * 2 ^ 52 + sd * 2 ^ 46 + cN * 2 ^ 42 + sa * 2 ^ 36 + ord * 2 ^ 24 + size * 2 ^ 22 + space * 2 ^ 20 + imm20

/-- Field sd of format M, bits [51:46] (R51). -/
abbrev M.sd (w : Nat) : Nat := fld w 46 6
/-- Field cN of format M, bits [45:42] (R51). -/
abbrev M.cN (w : Nat) : Nat := fld w 42 4
/-- Field sa of format M, bits [41:36] (R51). -/
abbrev M.sa (w : Nat) : Nat := fld w 36 6
/-- Field ord of format M, bits [35:24] (R51). -/
abbrev M.ord (w : Nat) : Nat := fld w 24 12
/-- Field size of format M, bits [23:22] (R51). -/
abbrev M.size (w : Nat) : Nat := fld w 22 2
/-- Field space of format M, bits [21:20] (R51). -/
abbrev M.space (w : Nat) : Nat := fld w 20 2
/-- Field imm20 of format M, bits [19:0] (R51). -/
abbrev M.imm20 (w : Nat) : Nat := fld w 0 20

/-- A word of format A, assembled from its fields (R52). -/
def A.asm (cls opc : Nat) (sd : Nat := 0) (cN : Nat := 0) (sa : Nat := 0) (ord : Nat := 0) (aop : Nat := 0) (size : Nat := 0) (space : Nat := 0) (sb : Nat := 0) (sc : Nat := 0) : Nat :=
  cls * 2 ^ 60 + opc * 2 ^ 52 + sd * 2 ^ 46 + cN * 2 ^ 42 + sa * 2 ^ 36 + ord * 2 ^ 24 + aop * 2 ^ 20 + size * 2 ^ 18 + space * 2 ^ 16 + sb * 2 ^ 10 + sc * 2 ^ 4

/-- Field sd of format A, bits [51:46] (R52). -/
abbrev A.sd (w : Nat) : Nat := fld w 46 6
/-- Field cN of format A, bits [45:42] (R52). -/
abbrev A.cN (w : Nat) : Nat := fld w 42 4
/-- Field sa of format A, bits [41:36] (R52). -/
abbrev A.sa (w : Nat) : Nat := fld w 36 6
/-- Field ord of format A, bits [35:24] (R52). -/
abbrev A.ord (w : Nat) : Nat := fld w 24 12
/-- Field aop of format A, bits [23:20] (R52). -/
abbrev A.aop (w : Nat) : Nat := fld w 20 4
/-- Field size of format A, bits [19:18] (R52). -/
abbrev A.size (w : Nat) : Nat := fld w 18 2
/-- Field space of format A, bits [17:16] (R52). -/
abbrev A.space (w : Nat) : Nat := fld w 16 2
/-- Field sb of format A, bits [15:10] (R52). -/
abbrev A.sb (w : Nat) : Nat := fld w 10 6
/-- Field sc of format A, bits [9:4] (R52). -/
abbrev A.sc (w : Nat) : Nat := fld w 4 6

/-- A word of format W, assembled from its fields (R53). -/
def W.asm (cls opc : Nat) (dst : Nat := 0) (srcA : Nat := 0) (srcB : Nat := 0) (sN : Nat := 0) (pN : Nat := 0) (rep : Nat := 0) (mod : Nat := 0) : Nat :=
  cls * 2 ^ 60 + opc * 2 ^ 52 + dst * 2 ^ 40 + srcA * 2 ^ 28 + srcB * 2 ^ 16 + sN * 2 ^ 10 + pN * 2 ^ 7 + rep * 2 ^ 2 + mod

/-- Field dst of format W, bits [51:40] (R53). -/
abbrev W.dst (w : Nat) : Nat := fld w 40 12
/-- Field srcA of format W, bits [39:28] (R53). -/
abbrev W.srcA (w : Nat) : Nat := fld w 28 12
/-- Field srcB of format W, bits [27:16] (R53). -/
abbrev W.srcB (w : Nat) : Nat := fld w 16 12
/-- Field sN of format W, bits [15:10] (R53). -/
abbrev W.sN (w : Nat) : Nat := fld w 10 6
/-- Field pN of format W, bits [9:7] (R53). -/
abbrev W.pN (w : Nat) : Nat := fld w 7 3
/-- Field rep of format W, bits [6:2] (R53). -/
abbrev W.rep (w : Nat) : Nat := fld w 2 5
/-- Field mod of format W, bits [1:0] (R53). -/
abbrev W.mod (w : Nat) : Nat := fld w 0 2

/-- A word of format WM, assembled from its fields (R54). -/
def WM.asm (cls opc : Nat) (row : Nat := 0) (dN : Nat := 0) (sa : Nat := 0) (sb : Nat := 0) (ord : Nat := 0) (space : Nat := 0) (rep : Nat := 0) (pN : Nat := 0) (mod : Nat := 0) : Nat :=
  cls * 2 ^ 60 + opc * 2 ^ 52 + row * 2 ^ 40 + dN * 2 ^ 36 + sa * 2 ^ 30 + sb * 2 ^ 24 + ord * 2 ^ 12 + space * 2 ^ 10 + rep * 2 ^ 5 + pN * 2 ^ 2 + mod

/-- Field row of format WM, bits [51:40] (R54). -/
abbrev WM.row (w : Nat) : Nat := fld w 40 12
/-- Field dN of format WM, bits [39:36] (R54). -/
abbrev WM.dN (w : Nat) : Nat := fld w 36 4
/-- Field sa of format WM, bits [35:30] (R54). -/
abbrev WM.sa (w : Nat) : Nat := fld w 30 6
/-- Field sb of format WM, bits [29:24] (R54). -/
abbrev WM.sb (w : Nat) : Nat := fld w 24 6
/-- Field ord of format WM, bits [23:12] (R54). -/
abbrev WM.ord (w : Nat) : Nat := fld w 12 12
/-- Field space of format WM, bits [11:10] (R54). -/
abbrev WM.space (w : Nat) : Nat := fld w 10 2
/-- Field rep of format WM, bits [9:5] (R54). -/
abbrev WM.rep (w : Nat) : Nat := fld w 5 5
/-- Field pN of format WM, bits [4:2] (R54). -/
abbrev WM.pN (w : Nat) : Nat := fld w 2 3
/-- Field mod of format WM, bits [1:0] (R54). -/
abbrev WM.mod (w : Nat) : Nat := fld w 0 2

/-- A word of format X, assembled from its fields (R54). -/
def X.asm (cls opc : Nat) (acc : Nat := 0) (ma : Nat := 0) (mb : Nat := 0) (sK : Nat := 0) (hint : Nat := 0) (fa : Nat := 0) (fb : Nat := 0) (ord : Nat := 0) (ms : Nat := 0) : Nat :=
  cls * 2 ^ 60 + opc * 2 ^ 52 + acc * 2 ^ 47 + ma * 2 ^ 44 + mb * 2 ^ 41 + sK * 2 ^ 35 + hint * 2 ^ 32 + fa * 2 ^ 28 + fb * 2 ^ 24 + ord * 2 ^ 12 + ms * 2 ^ 8

/-- Field acc of format X, bits [51:47] (R54). -/
abbrev X.acc (w : Nat) : Nat := fld w 47 5
/-- Field ma of format X, bits [46:44] (R54). -/
abbrev X.ma (w : Nat) : Nat := fld w 44 3
/-- Field mb of format X, bits [43:41] (R54). -/
abbrev X.mb (w : Nat) : Nat := fld w 41 3
/-- Field sK of format X, bits [40:35] (R54). -/
abbrev X.sK (w : Nat) : Nat := fld w 35 6
/-- Field hint of format X, bits [34:32] (R54). -/
abbrev X.hint (w : Nat) : Nat := fld w 32 3
/-- Field fa of format X, bits [31:28] (R54). -/
abbrev X.fa (w : Nat) : Nat := fld w 28 4
/-- Field fb of format X, bits [27:24] (R54). -/
abbrev X.fb (w : Nat) : Nat := fld w 24 4
/-- Field ord of format X, bits [23:12] (R54). -/
abbrev X.ord (w : Nat) : Nat := fld w 12 12
/-- Field ms of format X, bits [11:8] (R54). -/
abbrev X.ms (w : Nat) : Nat := fld w 8 4

/-- A word of format T, assembled from its fields (R54). -/
def T.asm (cls opc : Nat) (cN : Nat := 0) (sa : Nat := 0) (sb : Nat := 0) (sc : Nat := 0) (sF : Nat := 0) (ord : Nat := 0) (sub : Nat := 0) (imm8 : Nat := 0) : Nat :=
  cls * 2 ^ 60 + opc * 2 ^ 52 + cN * 2 ^ 48 + sa * 2 ^ 42 + sb * 2 ^ 36 + sc * 2 ^ 30 + sF * 2 ^ 24 + ord * 2 ^ 12 + sub * 2 ^ 8 + imm8

/-- Field cN of format T, bits [51:48] (R54). -/
abbrev T.cN (w : Nat) : Nat := fld w 48 4
/-- Field sa of format T, bits [47:42] (R54). -/
abbrev T.sa (w : Nat) : Nat := fld w 42 6
/-- Field sb of format T, bits [41:36] (R54). -/
abbrev T.sb (w : Nat) : Nat := fld w 36 6
/-- Field sc of format T, bits [35:30] (R54). -/
abbrev T.sc (w : Nat) : Nat := fld w 30 6
/-- Field sF of format T, bits [29:24] (R54). -/
abbrev T.sF (w : Nat) : Nat := fld w 24 6
/-- Field ord of format T, bits [23:12] (R54). -/
abbrev T.ord (w : Nat) : Nat := fld w 12 12
/-- Field sub of format T, bits [11:8] (R54). -/
abbrev T.sub (w : Nat) : Nat := fld w 8 4
/-- Field imm8 of format T, bits [7:0] (R54). -/
abbrev T.imm8 (w : Nat) : Nat := fld w 0 8

/-- A word of format K, assembled from its fields (R54). -/
def K.asm (cls opc : Nat) (sd : Nat := 0) (sa : Nat := 0) (sb : Nat := 0) (spec : Nat := 0) (sub : Nat := 0) (imm16 : Nat := 0) : Nat :=
  cls * 2 ^ 60 + opc * 2 ^ 52 + sd * 2 ^ 46 + sa * 2 ^ 40 + sb * 2 ^ 34 + spec * 2 ^ 24 + sub * 2 ^ 16 + imm16

/-- Field sd of format K, bits [51:46] (R54). -/
abbrev K.sd (w : Nat) : Nat := fld w 46 6
/-- Field sa of format K, bits [45:40] (R54). -/
abbrev K.sa (w : Nat) : Nat := fld w 40 6
/-- Field sb of format K, bits [39:34] (R54). -/
abbrev K.sb (w : Nat) : Nat := fld w 34 6
/-- Field spec of format K, bits [33:24] (R54). -/
abbrev K.spec (w : Nat) : Nat := fld w 24 10
/-- Field sub of format K, bits [23:16] (R54). -/
abbrev K.sub (w : Nat) : Nat := fld w 16 8
/-- Field imm16 of format K, bits [15:0] (R54). -/
abbrev K.imm16 (w : Nat) : Nat := fld w 0 16

/-- The word of an instruction (R48 to R54, R63 to R70). An operation or event of the table has no word, and answers 0. -/
def encode : Instr → Nat
  | .nop => S.asm 0x0 0x01
  | .mov sd sa => S.asm 0x0 0x02 (sd := sd) (sa := sa)
  | .sel sd sa sb k => S.asm 0x0 0x03 (sd := sd) (sa := sa) (sb := sb) (k := k)
  | .lea sd sa sb shift => S.asm 0x0 0x04 (sd := sd) (sa := sa) (sb := sb) (sub := shift)
  | .mfs sd spec => K.asm 0x0 0x05 (sd := sd) (spec := spec)
  | .mts sa spec => K.asm 0x0 0x06 (sa := sa) (spec := spec)
  | .add sd sa sb mode => S.asm 0x0 0x10 (sd := sd) (sa := sa) (sb := sb) (sub := mode.code)
  | .sub sd sa sb mode => S.asm 0x0 0x11 (sd := sd) (sa := sa) (sb := sb) (sub := mode.code)
  | .mul sd sa sb mode => S.asm 0x0 0x12 (sd := sd) (sa := sa) (sb := sb) (sub := mode.code)
  | .mulh sd sa sb => S.asm 0x0 0x13 (sd := sd) (sa := sa) (sb := sb)
  | .mulhu sd sa sb => S.asm 0x0 0x14 (sd := sd) (sa := sa) (sb := sb)
  | .div sd sa sb => S.asm 0x0 0x15 (sd := sd) (sa := sa) (sb := sb)
  | .divu sd sa sb => S.asm 0x0 0x16 (sd := sd) (sa := sa) (sb := sb)
  | .rem sd sa sb => S.asm 0x0 0x17 (sd := sd) (sa := sa) (sb := sb)
  | .remu sd sa sb => S.asm 0x0 0x18 (sd := sd) (sa := sa) (sb := sb)
  | .min sd sa sb => S.asm 0x0 0x19 (sd := sd) (sa := sa) (sb := sb)
  | .max sd sa sb => S.asm 0x0 0x1A (sd := sd) (sa := sa) (sb := sb)
  | .minu sd sa sb => S.asm 0x0 0x1B (sd := sd) (sa := sa) (sb := sb)
  | .maxu sd sa sb => S.asm 0x0 0x1C (sd := sd) (sa := sa) (sb := sb)
  | .and sd sa sb => S.asm 0x0 0x20 (sd := sd) (sa := sa) (sb := sb)
  | .or sd sa sb => S.asm 0x0 0x21 (sd := sd) (sa := sa) (sb := sb)
  | .xor sd sa sb => S.asm 0x0 0x22 (sd := sd) (sa := sa) (sb := sb)
  | .andn sd sa sb => S.asm 0x0 0x23 (sd := sd) (sa := sa) (sb := sb)
  | .shl sd sa sb => S.asm 0x0 0x24 (sd := sd) (sa := sa) (sb := sb)
  | .shr sd sa sb => S.asm 0x0 0x25 (sd := sd) (sa := sa) (sb := sb)
  | .sra sd sa sb => S.asm 0x0 0x26 (sd := sd) (sa := sa) (sb := sb)
  | .rol sd sa sb => S.asm 0x0 0x27 (sd := sd) (sa := sa) (sb := sb)
  | .clz sd sa => S.asm 0x0 0x28 (sd := sd) (sa := sa)
  | .ctz sd sa => S.asm 0x0 0x29 (sd := sd) (sa := sa)
  | .popc sd sa => S.asm 0x0 0x2A (sd := sd) (sa := sa)
  | .brev sd sa => S.asm 0x0 0x2B (sd := sd) (sa := sa)
  | .sext sd sa size => S.asm 0x0 0x2C (sd := sd) (sa := sa) (sub := size.code)
  | .zext sd sa size => S.asm 0x0 0x2D (sd := sd) (sa := sa) (sub := size.code)
  | .addi sd sa mode imm => I.asm 0x0 0x30 (sd := sd) (sa := sa) (sub := mode.code) (imm32 := unsgn 32 imm)
  | .muli sd sa mode imm => I.asm 0x0 0x31 (sd := sd) (sa := sa) (sub := mode.code) (imm32 := unsgn 32 imm)
  | .andi sd sa imm => I.asm 0x0 0x32 (sd := sd) (sa := sa) (imm32 := imm)
  | .ori sd sa imm => I.asm 0x0 0x33 (sd := sd) (sa := sa) (imm32 := imm)
  | .xori sd sa imm => I.asm 0x0 0x34 (sd := sd) (sa := sa) (imm32 := imm)
  | .shli sd sa imm => I.asm 0x0 0x35 (sd := sd) (sa := sa) (imm32 := imm)
  | .shri sd sa imm => I.asm 0x0 0x36 (sd := sd) (sa := sa) (imm32 := imm)
  | .srai sd sa imm => I.asm 0x0 0x37 (sd := sd) (sa := sa) (imm32 := imm)
  | .ldi sd imm => I.asm 0x0 0x38 (sd := sd) (imm32 := unsgn 32 imm)
  | .ldih sd imm => I.asm 0x0 0x39 (sd := sd) (imm32 := imm)
  | .cmp kd sa sb cond => S.asm 0x0 0x40 (k := kd) (sa := sa) (sb := sb) (sub := cond.code)
  | .cmpi kd sa cond imm => I.asm 0x0 0x41 (sd := kd) (sa := sa) (sub := cond.code) (imm32 := unsgn 32 imm)
  | .kand kd ka kb => S.asm 0x0 0x42 (sd := kd) (sa := ka) (sb := kb)
  | .kor kd ka kb => S.asm 0x0 0x43 (sd := kd) (sa := ka) (sb := kb)
  | .kxor kd ka kb => S.asm 0x0 0x44 (sd := kd) (sa := ka) (sb := kb)
  | .knot kd ka => S.asm 0x0 0x45 (sd := kd) (sa := ka)
  | .vany kd p => S.asm 0x0 0x46 (k := kd) (sa := p)
  | .vall kd p => S.asm 0x0 0x47 (k := kd) (sa := p)
  | .prep bd disp => B.asm 0x0 0x50 (bd := bd) (imm32 := unsgn 32 disp)
  | .prepr bd sa => B.asm 0x0 0x51 (bd := bd) (sa := sa)
  | .br bd k => B.asm 0x0 0x52 (bd := bd) (k := k)
  | .bra bd k => B.asm 0x0 0x53 (bd := bd) (k := k)
  | .call bd k => B.asm 0x0 0x54 (bd := bd) (k := k)
  | .ret k => B.asm 0x0 0x55 (k := k)
  | .loop lc sa body count => B.asm 0x0 0x58 (lc := lc) (sa := sa) (imm32 := body * 4096 + count)
  | .loopp lc depth sa p k count e => B.asm 0x0 0x59 (lc := lc) (k := depth) (sa := sa) (imm32 := p * 4194304 + k * 4096 + count) (low := e / 1 % 16) (sub := e / 16 % 8) (bd := e / 128 % 4)
  | .brk lc k => B.asm 0x0 0x5A (lc := lc) (k := k)
  | .lds sd c sa o size imm => M.asm 0x1 0x00 (sd := sd) (cN := c) (sa := sa) (ord := o.code) (size := size.code) (imm20 := unsgn 20 imm)
  | .sts sd c sa o size imm => M.asm 0x1 0x01 (sd := sd) (cN := c) (sa := sa) (ord := o.code) (size := size.code) (imm20 := unsgn 20 imm)
  | .ldp sd sa o imm => M.asm 0x1 0x02 (sd := sd) (sa := sa) (ord := o.code) (size := 3) (space := 1) (imm20 := unsgn 20 imm)
  | .stp sd sa o imm => M.asm 0x1 0x03 (sd := sd) (sa := sa) (ord := o.code) (size := 3) (space := 1) (imm20 := unsgn 20 imm)
  | .lde sd d sa o size imm => M.asm 0x1 0x04 (sd := sd) (cN := d) (sa := sa) (ord := o.code) (size := size.code) (space := 2) (imm20 := unsgn 20 imm)
  | .ste sd d sa o size imm => M.asm 0x1 0x05 (sd := sd) (cN := d) (sa := sa) (ord := o.code) (size := size.code) (space := 2) (imm20 := unsgn 20 imm)
  | .atom c sa o op size space sb => A.asm 0x1 0x10 (cN := c) (sa := sa) (ord := o.code) (aop := op.code) (size := size.code) (space := space.code) (sb := sb)
  | .atomf sd c sa o op size space sb => A.asm 0x1 0x11 (sd := sd) (cN := c) (sa := sa) (ord := o.code) (aop := op.code) (size := size.code) (space := space.code) (sb := sb)
  | .acas sd c sa o size space sb sc => A.asm 0x1 0x12 (sd := sd) (cN := c) (sa := sa) (ord := o.code) (size := size.code) (space := space.code) (sb := sb) (sc := sc)
  | .capsel cd sa imm => K.asm 0x1 0x20 (sd := cd) (sa := sa) (imm16 := imm)
  | .capnar cd ca sb form => K.asm 0x1 0x21 (sd := cd) (sa := ca) (sb := sb) (sub := form.code)
  | .capinf sd ca item => K.asm 0x1 0x22 (sd := sd) (sa := ca) (sub := item.code)
  | .capclr cd => K.asm 0x1 0x23 (sd := cd)
  | .tdset dd sa f => K.asm 0x1 0x28 (sd := dd) (sa := sa) (sub := f.code)
  | .tdget sd da f => K.asm 0x1 0x29 (sd := sd) (sa := da) (sub := f.code)
  | .tdcap dd ca => K.asm 0x1 0x2A (sd := dd) (sa := ca)
  | .pref d sa sb cls scope evict rep => WM.asm 0x1 0x30 (dN := d) (sa := sa) (sb := sb) (ord := cls * 256 + scope * 8 + evict) (space := 1) (rep := rep)
  | .hint d sa sb rep cls => WM.asm 0x1 0x31 (dN := d) (sa := sa) (sb := sb) (space := 1) (rep := rep) (mod := cls.code)
  | .fence paths scope classes => K.asm 0x2 0x00 (spec := paths) (sub := scope) (imm16 := classes)
  | .fencem engines => K.asm 0x2 0x01 (spec := engines)
  | .joinm => K.asm 0x2 0x02
  | .waitc loads stores copies tileops => K.asm 0x2 0x03 (imm16 := loads * 4096 + stores * 256 + copies * 16 + tileops)
  | .waita sd c sa o size space imm => M.asm 0x2 0x04 (sd := sd) (cN := c) (sa := sa) (ord := o.code) (size := size.code) (space := space.code) (imm20 := unsgn 20 imm)
  | .tokp sluice sa => K.asm 0x2 0x08 (spec := sluice) (sa := sa)
  | .tokg sd sluice => K.asm 0x2 0x09 (sd := sd) (spec := sluice)
  | .tokn sd sluice => K.asm 0x2 0x0A (sd := sd) (spec := sluice)
  | .vld row sp sa sb o rep pN => WM.asm 0x3 0x00 (row := row.code) (dN := sp.reg) (space := sp.code) (sa := sa) (sb := sb) (ord := o.code) (rep := rep) (pN := pN)
  | .vlds row sp sa sb o rep pN dim => WM.asm 0x3 0x01 (row := row.code) (dN := sp.reg) (space := sp.code) (sa := sa) (sb := sb) (ord := o.code) (rep := rep) (pN := pN) (mod := dim)
  | .vldt row sp sa sb o rep pN => WM.asm 0x3 0x02 (row := row.code) (dN := sp.reg) (space := sp.code) (sa := sa) (sb := sb) (ord := o.code) (rep := rep) (pN := pN)
  | .vldg row sp sa sb o rep pN => WM.asm 0x3 0x03 (row := row.code) (dN := sp.reg) (space := sp.code) (sa := sa) (sb := sb) (ord := o.code) (rep := rep) (pN := pN)
  | .vldc row d sa sb cls rep pN => WM.asm 0x3 0x04 (row := row.code) (dN := d) (sa := sa) (sb := sb) (ord := cls * 256) (space := 2) (rep := rep) (pN := pN)
  | .vst row sp sa sb o rep pN => WM.asm 0x3 0x10 (row := row.code) (dN := sp.reg) (space := sp.code) (sa := sa) (sb := sb) (ord := o.code) (rep := rep) (pN := pN)
  | .vsts row sp sa sb o rep pN dim => WM.asm 0x3 0x11 (row := row.code) (dN := sp.reg) (space := sp.code) (sa := sa) (sb := sb) (ord := o.code) (rep := rep) (pN := pN) (mod := dim)
  | .vstt row sp sa sb o rep pN => WM.asm 0x3 0x12 (row := row.code) (dN := sp.reg) (space := sp.code) (sa := sa) (sb := sb) (ord := o.code) (rep := rep) (pN := pN)
  | .vsct row sp sa sb o rep pN => WM.asm 0x3 0x13 (row := row.code) (dN := sp.reg) (space := sp.code) (sa := sa) (sb := sb) (ord := o.code) (rep := rep) (pN := pN)
  | .vstc row d sa sb cls rep pN => WM.asm 0x3 0x14 (row := row.code) (dN := d) (sa := sa) (sb := sb) (ord := cls * 256) (space := 2) (rep := rep) (pN := pN)
  | .vadd dst a b sN pN rep => W.asm 0x3 0x20 (dst := dst.code) (srcA := a.code) (srcB := b.code) (sN := sN) (pN := pN) (rep := rep)
  | .vsub dst a b sN pN rep => W.asm 0x3 0x21 (dst := dst.code) (srcA := a.code) (srcB := b.code) (sN := sN) (pN := pN) (rep := rep)
  | .vmul dst a b sN pN rep => W.asm 0x3 0x22 (dst := dst.code) (srcA := a.code) (srcB := b.code) (sN := sN) (pN := pN) (rep := rep)
  | .vfma dst a b sN pN rep => W.asm 0x3 0x23 (dst := dst.code) (srcA := a.code) (srcB := b.code) (sN := sN) (pN := pN) (rep := rep)
  | .vfms dst a b sN pN rep => W.asm 0x3 0x24 (dst := dst.code) (srcA := a.code) (srcB := b.code) (sN := sN) (pN := pN) (rep := rep)
  | .vneg dst a sN pN rep => W.asm 0x3 0x25 (dst := dst.code) (srcA := a.code) (sN := sN) (pN := pN) (rep := rep)
  | .vabs dst a sN pN rep => W.asm 0x3 0x26 (dst := dst.code) (srcA := a.code) (sN := sN) (pN := pN) (rep := rep)
  | .vmin dst a b sN pN rep => W.asm 0x3 0x27 (dst := dst.code) (srcA := a.code) (srcB := b.code) (sN := sN) (pN := pN) (rep := rep)
  | .vmax dst a b sN pN rep => W.asm 0x3 0x28 (dst := dst.code) (srcA := a.code) (srcB := b.code) (sN := sN) (pN := pN) (rep := rep)
  | .vrcp dst a sN pN rep => W.asm 0x3 0x29 (dst := dst.code) (srcA := a.code) (sN := sN) (pN := pN) (rep := rep)
  | .vrsq dst a sN pN rep => W.asm 0x3 0x2A (dst := dst.code) (srcA := a.code) (sN := sN) (pN := pN) (rep := rep)
  | .vexp2 dst a sN pN rep => W.asm 0x3 0x2B (dst := dst.code) (srcA := a.code) (sN := sN) (pN := pN) (rep := rep)
  | .vlog2 dst a sN pN rep => W.asm 0x3 0x2C (dst := dst.code) (srcA := a.code) (sN := sN) (pN := pN) (rep := rep)
  | .viadd dst a b sN pN rep mode => W.asm 0x3 0x30 (dst := dst.code) (srcA := a.code) (srcB := b.code) (sN := sN) (pN := pN) (rep := rep) (mod := mode.code)
  | .visub dst a b sN pN rep mode => W.asm 0x3 0x31 (dst := dst.code) (srcA := a.code) (srcB := b.code) (sN := sN) (pN := pN) (rep := rep) (mod := mode.code)
  | .vimul dst a b sN pN rep mode => W.asm 0x3 0x32 (dst := dst.code) (srcA := a.code) (srcB := b.code) (sN := sN) (pN := pN) (rep := rep) (mod := mode.code)
  | .vand dst a b sN pN rep => W.asm 0x3 0x33 (dst := dst.code) (srcA := a.code) (srcB := b.code) (sN := sN) (pN := pN) (rep := rep)
  | .vor dst a b sN pN rep => W.asm 0x3 0x34 (dst := dst.code) (srcA := a.code) (srcB := b.code) (sN := sN) (pN := pN) (rep := rep)
  | .vxor dst a b sN pN rep => W.asm 0x3 0x35 (dst := dst.code) (srcA := a.code) (srcB := b.code) (sN := sN) (pN := pN) (rep := rep)
  | .vshl dst a b sN pN rep => W.asm 0x3 0x36 (dst := dst.code) (srcA := a.code) (srcB := b.code) (sN := sN) (pN := pN) (rep := rep)
  | .vshr dst a b sN pN rep => W.asm 0x3 0x37 (dst := dst.code) (srcA := a.code) (srcB := b.code) (sN := sN) (pN := pN) (rep := rep)
  | .vsra dst a b sN pN rep => W.asm 0x3 0x38 (dst := dst.code) (srcA := a.code) (srcB := b.code) (sN := sN) (pN := pN) (rep := rep)
  | .vimin dst a b sN pN rep uns => W.asm 0x3 0x39 (dst := dst.code) (srcA := a.code) (srcB := b.code) (sN := sN) (pN := pN) (rep := rep) (mod := uns.toNat)
  | .vimax dst a b sN pN rep uns => W.asm 0x3 0x3A (dst := dst.code) (srcA := a.code) (srcB := b.code) (sN := sN) (pN := pN) (rep := rep) (mod := uns.toNat)
  | .vcmp pd cond a b sN pN => W.asm 0x3 0x40 (dst := cond.code * 256 + pd) (srcA := a.code) (srcB := b.code) (sN := sN) (pN := pN)
  | .vicmp pd cond a b sN pN => W.asm 0x3 0x41 (dst := cond.code * 256 + pd) (srcA := a.code) (srcB := b.code) (sN := sN) (pN := pN)
  | .pand pd pa pb => W.asm 0x3 0x42 (dst := pd) (srcA := pa) (srcB := pb)
  | .por pd pa pb => W.asm 0x3 0x43 (dst := pd) (srcA := pa) (srcB := pb)
  | .pxor pd pa pb => W.asm 0x3 0x44 (dst := pd) (srcA := pa) (srcB := pb)
  | .pnot pd pa => W.asm 0x3 0x45 (dst := pd) (srcA := pa)
  | .pmov pd pa => W.asm 0x3 0x46 (dst := pd) (srcA := pa)
  | .vmov dst a sN pN rep => W.asm 0x3 0x50 (dst := dst.code) (srcA := a.code) (sN := sN) (pN := pN) (rep := rep)
  | .vsel dst a b sN pS rep => W.asm 0x3 0x51 (dst := dst.code) (srcA := a.code) (srcB := b.code) (sN := sN) (pN := pS) (rep := rep)
  | .vbcst dst a sN pN rep => W.asm 0x3 0x52 (dst := dst.code) (srcA := a.code) (sN := sN) (pN := pN) (rep := rep)
  | .vperm dst a b pN rep => W.asm 0x3 0x53 (dst := dst.code) (srcA := a.code) (srcB := b.code) (pN := pN) (rep := rep)
  | .vrmg dst a b sN pN rep => W.asm 0x3 0x54 (dst := dst.code) (srcA := a.code) (srcB := b.code) (sN := sN) (pN := pN) (rep := rep)
  | .vidx dst sN pN rep => W.asm 0x3 0x55 (dst := dst.code) (sN := sN) (pN := pN) (rep := rep)
  | .vred dst a pN rep op => W.asm 0x3 0x60 (dst := dst.code) (srcA := a.code) (pN := pN) (rep := rep) (mod := op.code)
  | .vreds dst a pN rep op => W.asm 0x3 0x61 (dst := dst.code) (srcA := a.code) (pN := pN) (rep := rep) (mod := op.code)
  | .vscan dst a pN rep op => W.asm 0x3 0x62 (dst := dst.code) (srcA := a.code) (pN := pN) (rep := rep) (mod := op.code)
  | .vcvt dst a cw sN pN rep => W.asm 0x4 0x00 (dst := dst.code) (srcA := a.code) (srcB := cw.code) (sN := sN) (pN := pN) (rep := rep)
  | .vcvts dst a cw sN pN rep => W.asm 0x4 0x01 (dst := dst.code) (srcA := a.code) (srcB := cw.code) (sN := sN) (pN := pN) (rep := rep)
  | .vscl dst a b pN rep blk => W.asm 0x4 0x02 (dst := dst.code) (srcA := a.code) (srcB := b.code) (pN := pN) (rep := rep) (mod := blk)
  | .vpack dst a pN rep mode => W.asm 0x4 0x03 (dst := dst.code) (srcA := a.code) (pN := pN) (rep := rep) (mod := mode.code)
  | .vunpk dst a cw pN rep => W.asm 0x4 0x04 (dst := dst.code) (srcA := a.code) (srcB := cw.code) (pN := pN) (rep := rep)
  | .vqln dst a cw pN rep => W.asm 0x4 0x05 (dst := dst.code) (srcA := a.code) (srcB := cw.code) (pN := pN) (rep := rep)
  | .ttag tile fmt scaled => K.asm 0x4 0x08 (spec := tile) (imm16 := fmt.code + scaled.toNat * 32)
  | .ttget sd tile => K.asm 0x4 0x09 (sd := sd) (spec := tile)
  | .fmtm sa mask => K.asm 0x4 0x0A (sa := sa) (imm16 := mask)
  | .mma acc ma mb sK jet fa fb o => X.asm 0x5 0x00 (acc := acc) (ma := ma) (mb := mb) (sK := sK) (hint := jet) (fa := fa.code) (fb := fb.code) (ord := o.code) (ms := 15)
  | .mmas acc ma mb sK jet fa fb o ms => X.asm 0x5 0x01 (acc := acc) (ma := ma) (mb := mb) (sK := sK) (hint := jet) (fa := fa.code) (fb := fb.code) (ord := o.code) (ms := ms)
  | .mmal acc ma mb sK jet fa fb o ms => X.asm 0x5 0x02 (acc := acc) (ma := ma) (mb := mb) (sK := sK) (hint := jet) (fa := fa.code) (fb := fb.code) (ord := o.code) (ms := msCode ms)
  | .mmaz acc ma mb sK jet fa fb o => X.asm 0x5 0x03 (acc := acc) (ma := ma) (mb := mb) (sK := sK) (hint := jet) (fa := fa.code) (fb := fb.code) (ord := o.code) (ms := 15)
  | .mxsa ma sa sb src => K.asm 0x5 0x08 (sd := ma) (sa := sa) (sb := sb) (sub := src.code)
  | .mxsb mb sa sb src => K.asm 0x5 0x09 (sd := mb) (sa := sa) (sb := sb) (sub := src.code)
  | .mxsm ms sa mode => K.asm 0x5 0x0A (sd := ms) (sa := sa) (sub := mode.code)
  | .mxrd sd item index => K.asm 0x5 0x0B (sd := sd) (sub := item.code * 16 + index)
  | .bget mem sa sb sc sF o dest => T.asm 0x6 0x00 (cN := mem.reg) (sub := mem.code * 8 + dest.code) (sa := sa) (sb := sb) (sc := sc) (sF := sF) (ord := o.code)
  | .bput mem sa sb sc sF o => T.asm 0x6 0x01 (cN := mem.reg) (sub := mem.code * 8) (sa := sa) (sb := sb) (sc := sc) (sF := sF) (ord := o.code)
  | .bcpy sp sa sb sc sF o => T.asm 0x6 0x02 (cN := sp.reg) (sub := sp.code) (sa := sa) (sb := sb) (sc := sc) (sF := sF) (ord := o.code)
  | .bfill sp sloc sc sF o byte => T.asm 0x6 0x03 (cN := sp.reg) (sub := sp.code) (sa := (if sp.code = 1 then sloc else 0)) (sb := (if sp.code = 1 then 0 else sloc)) (sc := sc) (sF := sF) (ord := o.code) (imm8 := byte)
  | .xflag sF o => T.asm 0x6 0x04 (sF := sF) (ord := o.code)
  | .bcan sF o => T.asm 0x6 0x05 (sF := sF) (ord := o.code)
  | .rlpub c sa sb sc sF o k => T.asm 0x6 0x10 (cN := c) (sa := sa) (sb := sb) (sc := sc) (sF := sF) (ord := o.code) (imm8 := k)
  | .rlstp sa sF o => T.asm 0x6 0x11 (sa := sa) (sF := sF) (ord := o.code)
  | .rlqry sb sF o => T.asm 0x6 0x12 (sb := sb) (sF := sF) (ord := o.code)
  | .cbind sb sF o kind index => T.asm 0x6 0x20 (sb := sb) (sF := sF) (ord := o.code) (sub := kind.code) (imm8 := index)
  | .crel sF o kind index => T.asm 0x6 0x21 (sF := sF) (ord := o.code) (sub := kind.code) (imm8 := index)
  | .ccoll c sa sb sc sF o => T.asm 0x6 0x22 (cN := c) (sa := sa) (sb := sb) (sc := sc) (sF := sF) (ord := o.code)
  | .ccmp c sa sb sc sF o put => T.asm 0x6 0x23 (cN := c) (sa := sa) (sb := sb) (sc := sc) (sF := sF) (ord := o.code) (sub := put.toNat)
  | .cdcp c sa sb sc sF o put => T.asm 0x6 0x24 (cN := c) (sa := sa) (sb := sb) (sc := sc) (sF := sF) (ord := o.code) (sub := put.toNat)
  | .cstat sb sF o => T.asm 0x6 0x25 (sb := sb) (sF := sF) (ord := o.code)
  | .tspawn sd c sa sb dep => K.asm 0x7 0x00 (sd := sd) (spec := c) (sa := sa) (sb := sb) (sub := dep.toNat)
  | .tdep sd sa sb grp => K.asm 0x7 0x01 (sd := sd) (sa := sa) (sb := sb) (sub := grp.toNat)
  | .tend => K.asm 0x7 0x02
  | .ttrig => K.asm 0x7 0x03
  | .tyld => K.asm 0x7 0x04
  | .tself sd item => K.asm 0x7 0x05 (sd := sd) (sub := item.code)
  | .tprio sd sa sb => K.asm 0x7 0x06 (sd := sd) (sa := sa) (sb := sb)
  | .gjoin sd sa imm => K.asm 0x7 0x10 (sd := sd) (sa := sa) (imm16 := imm)
  | .gleave sd sa imm => K.asm 0x7 0x11 (sd := sd) (sa := sa) (imm16 := imm)
  | .gbar sd sa imm => K.asm 0x7 0x12 (sd := sd) (sa := sa) (imm16 := imm)
  | .gmem sd sa imm => K.asm 0x7 0x13 (sd := sd) (sa := sa) (imm16 := imm)
  | .tlinc sd c sa sb scope => K.asm 0x7 0x20 (sd := sd) (spec := c) (sa := sa) (sb := sb) (sub := scope)
  | .tlset sd c sa sb scope => K.asm 0x7 0x21 (sd := sd) (spec := c) (sa := sa) (sb := sb) (sub := scope)
  | .tlwait sd c sa sb scope => K.asm 0x7 0x22 (sd := sd) (spec := c) (sa := sa) (sb := sb) (sub := scope)
  | .tlget sd c sa scope => K.asm 0x7 0x23 (sd := sd) (spec := c) (sa := sa) (sub := scope)
  | .resq sd sa sb region => K.asm 0x7 0x30 (sd := sd) (sa := sa) (sb := sb) (spec := region)
  | .reshint sa sb region clear mask => K.asm 0x7 0x31 (sa := sa) (sb := sb) (spec := region) (sub := clear.toNat * 8 + mask)
  | .trap sa imm hv => K.asm 0x8 0x00 (sa := sa) (imm16 := imm) (sub := hv.toNat)
  | .eret sa form => K.asm 0x8 0x01 (sa := sa) (sub := form.code)
  | .mfsp sd sa item => K.asm 0x8 0x02 (sd := sd) (sa := sa) (spec := item)
  | .mtsp sa sb item => K.asm 0x8 0x03 (sa := sa) (sb := sb) (spec := item)
  | .ctxsv sd sa sb c move scope => K.asm 0x8 0x04 (sd := sd) (sa := sa) (sb := sb) (spec := c) (sub := move.toNat + scope * 2)
  | .ctxld sd sb c scope => K.asm 0x8 0x05 (sd := sd) (sb := sb) (spec := c) (sub := scope * 2)
  | .fltinfo sd sa item => K.asm 0x8 0x06 (sd := sd) (sa := sa) (sub := item.code)
  | .tlbiv sd sa sb form => K.asm 0x8 0x10 (sd := sd) (sa := sa) (sb := sb) (sub := form.code)
  | .unmap sd sa shoot => K.asm 0x8 0x11 (sd := sd) (sa := sa) (sub := shoot.toNat)
  | .mapsync => K.asm 0x8 0x12
  | .cstwin sd close => K.asm 0x8 0x13 (sd := sd) (sub := close.toNat)
  | .rgnasn sd sa sb => K.asm 0x8 0x40 (sd := sd) (sa := sa) (sb := sb)
  | .rgnwin sd sa => K.asm 0x8 0x41 (sd := sd) (sa := sa)
  | .rgnrst sd sa => K.asm 0x8 0x42 (sd := sd) (sa := sa)
  | .scrub sd sa frame => K.asm 0x8 0x43 (sd := sd) (sa := sa) (sub := frame.toNat)
  | .scrst sd sa alloc => K.asm 0x8 0x44 (sd := sd) (sa := sa) (sub := alloc.toNat)
  | .tokchk sd sa sb c get => K.asm 0x8 0x45 (sd := sd) (sa := sa) (sb := sb) (spec := c) (sub := get.toNat)
  | .keyz sd sa => K.asm 0x8 0x46 (sd := sd) (sa := sa)
  | .msgf sd sa c imm => K.asm 0x8 0x47 (sd := sd) (sa := sa) (spec := c) (imm16 := imm)
  | .xenq sd sa c imm => K.asm 0x8 0x48 (sd := sd) (sa := sa) (spec := c) (imm16 := imm)
  | .lkst sd sa port => K.asm 0x8 0x80 (sd := sd) (sa := sa) (sub := port.toNat)
  | .lkdrn sd sa => K.asm 0x8 0x81 (sd := sd) (sa := sa)
  | .lktop sd sa c => K.asm 0x8 0x82 (sd := sd) (sa := sa) (spec := c)
  | .lkrsm sd sa => K.asm 0x8 0x83 (sd := sd) (sa := sa)
  | .lsacq sd sa sb wait => K.asm 0x8 0x84 (sd := sd) (sa := sa) (sb := sb) (sub := wait.toNat)
  | .lsrnw sd sb => K.asm 0x8 0x85 (sd := sd) (sb := sb)
  | .lsrel sd => K.asm 0x8 0x86 (sd := sd)
  | .lstok sd item => K.asm 0x8 0x87 (sd := sd) (sub := item.code)
  | .feat sd item => K.asm 0x8 0x90 (sd := sd) (sub := item.code)
  | .errlog sd sa c pop => K.asm 0x8 0x91 (sd := sd) (sa := sa) (spec := c) (sub := pop.toNat)
  | _ => 0

/-- The instruction of class 0x0 that opcode `opc` names, its fields read from `w` (R63); none where a field holds a
reserved value, or the opcode is not listed. -/
def buildCtl (opc w : Nat) : Option Instr :=
  match opc with
  | 0x01 => some (.nop)
  | 0x02 => some (.mov (S.sd w) (S.sa w))
  | 0x03 => some (.sel (S.sd w) (S.sa w) (S.sb w) (S.k w))
  | 0x04 => some (.lea (S.sd w) (S.sa w) (S.sb w) (S.sub w))
  | 0x05 => some (.mfs (K.sd w) (K.spec w))
  | 0x06 => some (.mts (K.sa w) (K.spec w))
  | 0x10 => do let mode ← Sat.ofCode (S.sub w); some (.add (S.sd w) (S.sa w) (S.sb w) mode)
  | 0x11 => do let mode ← Sat.ofCode (S.sub w); some (.sub (S.sd w) (S.sa w) (S.sb w) mode)
  | 0x12 => do let mode ← Sat.ofCode (S.sub w); some (.mul (S.sd w) (S.sa w) (S.sb w) mode)
  | 0x13 => some (.mulh (S.sd w) (S.sa w) (S.sb w))
  | 0x14 => some (.mulhu (S.sd w) (S.sa w) (S.sb w))
  | 0x15 => some (.div (S.sd w) (S.sa w) (S.sb w))
  | 0x16 => some (.divu (S.sd w) (S.sa w) (S.sb w))
  | 0x17 => some (.rem (S.sd w) (S.sa w) (S.sb w))
  | 0x18 => some (.remu (S.sd w) (S.sa w) (S.sb w))
  | 0x19 => some (.min (S.sd w) (S.sa w) (S.sb w))
  | 0x1A => some (.max (S.sd w) (S.sa w) (S.sb w))
  | 0x1B => some (.minu (S.sd w) (S.sa w) (S.sb w))
  | 0x1C => some (.maxu (S.sd w) (S.sa w) (S.sb w))
  | 0x20 => some (.and (S.sd w) (S.sa w) (S.sb w))
  | 0x21 => some (.or (S.sd w) (S.sa w) (S.sb w))
  | 0x22 => some (.xor (S.sd w) (S.sa w) (S.sb w))
  | 0x23 => some (.andn (S.sd w) (S.sa w) (S.sb w))
  | 0x24 => some (.shl (S.sd w) (S.sa w) (S.sb w))
  | 0x25 => some (.shr (S.sd w) (S.sa w) (S.sb w))
  | 0x26 => some (.sra (S.sd w) (S.sa w) (S.sb w))
  | 0x27 => some (.rol (S.sd w) (S.sa w) (S.sb w))
  | 0x28 => some (.clz (S.sd w) (S.sa w))
  | 0x29 => some (.ctz (S.sd w) (S.sa w))
  | 0x2A => some (.popc (S.sd w) (S.sa w))
  | 0x2B => some (.brev (S.sd w) (S.sa w))
  | 0x2C => do let size ← ExtSize.ofCode (S.sub w); some (.sext (S.sd w) (S.sa w) size)
  | 0x2D => do let size ← ExtSize.ofCode (S.sub w); some (.zext (S.sd w) (S.sa w) size)
  | 0x30 => do let mode ← Sat.ofCode (I.sub w); some (.addi (I.sd w) (I.sa w) mode (sgn 32 (I.imm32 w)))
  | 0x31 => do let mode ← Sat.ofCode (I.sub w); some (.muli (I.sd w) (I.sa w) mode (sgn 32 (I.imm32 w)))
  | 0x32 => some (.andi (I.sd w) (I.sa w) (I.imm32 w))
  | 0x33 => some (.ori (I.sd w) (I.sa w) (I.imm32 w))
  | 0x34 => some (.xori (I.sd w) (I.sa w) (I.imm32 w))
  | 0x35 => some (.shli (I.sd w) (I.sa w) (I.imm32 w))
  | 0x36 => some (.shri (I.sd w) (I.sa w) (I.imm32 w))
  | 0x37 => some (.srai (I.sd w) (I.sa w) (I.imm32 w))
  | 0x38 => some (.ldi (I.sd w) (sgn 32 (I.imm32 w)))
  | 0x39 => some (.ldih (I.sd w) (I.imm32 w))
  | 0x40 => do let cond ← Cond.ofCode (S.sub w); some (.cmp (S.k w) (S.sa w) (S.sb w) cond)
  | 0x41 => do let cond ← Cond.ofCode (I.sub w); some (.cmpi (I.sd w) (I.sa w) cond (sgn 32 (I.imm32 w)))
  | 0x42 => some (.kand (S.sd w) (S.sa w) (S.sb w))
  | 0x43 => some (.kor (S.sd w) (S.sa w) (S.sb w))
  | 0x44 => some (.kxor (S.sd w) (S.sa w) (S.sb w))
  | 0x45 => some (.knot (S.sd w) (S.sa w))
  | 0x46 => some (.vany (S.k w) (S.sa w))
  | 0x47 => some (.vall (S.k w) (S.sa w))
  | 0x50 => some (.prep (B.bd w) (sgn 32 (B.imm32 w)))
  | 0x51 => some (.prepr (B.bd w) (B.sa w))
  | 0x52 => some (.br (B.bd w) (B.k w))
  | 0x53 => some (.bra (B.bd w) (B.k w))
  | 0x54 => some (.call (B.bd w) (B.k w))
  | 0x55 => some (.ret (B.k w))
  | 0x58 => some (.loop (B.lc w) (B.sa w) (B.imm32 w / 4096 % 1024) (B.imm32 w % 4096))
  | 0x59 => some (.loopp (B.lc w) (B.k w) (B.sa w) (B.imm32 w / 4194304) (B.imm32 w / 4096 % 1024) (B.imm32 w % 4096) (B.low w + B.sub w * 16 + B.bd w * 128))
  | 0x5A => some (.brk (B.lc w) (B.k w))
  | _ => none

/-- The instruction of class 0x1 that opcode `opc` names, its fields read from `w` (R64); none where a field holds a
reserved value, or the opcode is not listed. -/
def buildMem (opc w : Nat) : Option Instr :=
  match opc with
  | 0x00 => do let o ← AccOrd.ofCode (M.ord w); let size ← Size.ofCode (M.size w); some (.lds (M.sd w) (M.cN w) (M.sa w) o size (sgn 20 (M.imm20 w)))
  | 0x01 => do let o ← AccOrd.ofCode (M.ord w); let size ← Size.ofCode (M.size w); some (.sts (M.sd w) (M.cN w) (M.sa w) o size (sgn 20 (M.imm20 w)))
  | 0x02 => do let o ← AccOrd.ofCode (M.ord w); some (.ldp (M.sd w) (M.sa w) o (sgn 20 (M.imm20 w)))
  | 0x03 => do let o ← AccOrd.ofCode (M.ord w); some (.stp (M.sd w) (M.sa w) o (sgn 20 (M.imm20 w)))
  | 0x04 => do let o ← AccOrd.ofCode (M.ord w); let size ← Size.ofCode (M.size w); some (.lde (M.sd w) (M.cN w) (M.sa w) o size (sgn 20 (M.imm20 w)))
  | 0x05 => do let o ← AccOrd.ofCode (M.ord w); let size ← Size.ofCode (M.size w); some (.ste (M.sd w) (M.cN w) (M.sa w) o size (sgn 20 (M.imm20 w)))
  | 0x10 => do let o ← AccOrd.ofCode (A.ord w); let op ← Aop.ofCode (A.aop w); let size ← Size.ofCode (A.size w); let space ← ASpace.ofCode (A.space w); some (.atom (A.cN w) (A.sa w) o op size space (A.sb w))
  | 0x11 => do let o ← AccOrd.ofCode (A.ord w); let op ← Aop.ofCode (A.aop w); let size ← Size.ofCode (A.size w); let space ← ASpace.ofCode (A.space w); some (.atomf (A.sd w) (A.cN w) (A.sa w) o op size space (A.sb w))
  | 0x12 => do let o ← AccOrd.ofCode (A.ord w); let size ← Size.ofCode (A.size w); let space ← ASpace.ofCode (A.space w); some (.acas (A.sd w) (A.cN w) (A.sa w) o size space (A.sb w) (A.sc w))
  | 0x20 => some (.capsel (K.sd w) (K.sa w) (K.imm16 w))
  | 0x21 => do let form ← NarForm.ofCode (K.sub w); some (.capnar (K.sd w) (K.sa w) (K.sb w) form)
  | 0x22 => do let item ← CapItem.ofCode (K.sub w); some (.capinf (K.sd w) (K.sa w) item)
  | 0x23 => some (.capclr (K.sd w))
  | 0x28 => do let f ← TdField.ofCode (K.sub w); some (.tdset (K.sd w) (K.sa w) f)
  | 0x29 => do let f ← TdField.ofCode (K.sub w); some (.tdget (K.sd w) (K.sa w) f)
  | 0x2A => some (.tdcap (K.sd w) (K.sa w))
  | 0x30 => some (.pref (WM.dN w) (WM.sa w) (WM.sb w) (WM.ord w / 256) (WM.ord w / 8 % 8) (WM.ord w % 8) (WM.rep w))
  | 0x31 => do let cls ← Retain.ofCode (WM.mod w); some (.hint (WM.dN w) (WM.sa w) (WM.sb w) (WM.rep w) cls)
  | _ => none

/-- The instruction of class 0x2 that opcode `opc` names, its fields read from `w` (R65); none where a field holds a
reserved value, or the opcode is not listed. -/
def buildOrd (opc w : Nat) : Option Instr :=
  match opc with
  | 0x00 => some (.fence (K.spec w % 64) (K.sub w % 8) (K.imm16 w))
  | 0x01 => some (.fencem (K.spec w % 32))
  | 0x02 => some (.joinm)
  | 0x03 => some (.waitc (K.imm16 w / 4096) (K.imm16 w / 256 % 16) (K.imm16 w / 16 % 16) (K.imm16 w % 16))
  | 0x04 => do let o ← AccOrd.ofCode (M.ord w); let size ← Size.ofCode (M.size w); let space ← ASpace.ofCode (M.space w); some (.waita (M.sd w) (M.cN w) (M.sa w) o size space (sgn 20 (M.imm20 w)))
  | 0x08 => some (.tokp (K.spec w) (K.sa w))
  | 0x09 => some (.tokg (K.sd w) (K.spec w))
  | 0x0A => some (.tokn (K.sd w) (K.spec w))
  | _ => none

/-- The instruction of class 0x3 that opcode `opc` names, its fields read from `w` (R66); none where a field holds a
reserved value, or the opcode is not listed. -/
def buildVec (opc w : Nat) : Option Instr :=
  match opc with
  | 0x00 => do let row ← WOp.ofCode (WM.row w); let sp ← VSpace.ofCode (WM.space w) (WM.dN w); let o ← AccOrd.ofCode (WM.ord w); some (.vld row sp (WM.sa w) (WM.sb w) o (WM.rep w) (WM.pN w))
  | 0x01 => do let row ← WOp.ofCode (WM.row w); let sp ← VSpace.ofCode (WM.space w) (WM.dN w); let o ← AccOrd.ofCode (WM.ord w); some (.vlds row sp (WM.sa w) (WM.sb w) o (WM.rep w) (WM.pN w) (WM.mod w))
  | 0x02 => do let row ← WOp.ofCode (WM.row w); let sp ← VSpace.ofCode (WM.space w) (WM.dN w); let o ← AccOrd.ofCode (WM.ord w); some (.vldt row sp (WM.sa w) (WM.sb w) o (WM.rep w) (WM.pN w))
  | 0x03 => do let row ← WOp.ofCode (WM.row w); let sp ← VSpace.ofCode (WM.space w) (WM.dN w); let o ← AccOrd.ofCode (WM.ord w); some (.vldg row sp (WM.sa w) (WM.sb w) o (WM.rep w) (WM.pN w))
  | 0x04 => do let row ← WOp.ofCode (WM.row w); some (.vldc row (WM.dN w) (WM.sa w) (WM.sb w) (WM.ord w / 256) (WM.rep w) (WM.pN w))
  | 0x10 => do let row ← WOp.ofCode (WM.row w); let sp ← VSpace.ofCode (WM.space w) (WM.dN w); let o ← AccOrd.ofCode (WM.ord w); some (.vst row sp (WM.sa w) (WM.sb w) o (WM.rep w) (WM.pN w))
  | 0x11 => do let row ← WOp.ofCode (WM.row w); let sp ← VSpace.ofCode (WM.space w) (WM.dN w); let o ← AccOrd.ofCode (WM.ord w); some (.vsts row sp (WM.sa w) (WM.sb w) o (WM.rep w) (WM.pN w) (WM.mod w))
  | 0x12 => do let row ← WOp.ofCode (WM.row w); let sp ← VSpace.ofCode (WM.space w) (WM.dN w); let o ← AccOrd.ofCode (WM.ord w); some (.vstt row sp (WM.sa w) (WM.sb w) o (WM.rep w) (WM.pN w))
  | 0x13 => do let row ← WOp.ofCode (WM.row w); let sp ← VSpace.ofCode (WM.space w) (WM.dN w); let o ← AccOrd.ofCode (WM.ord w); some (.vsct row sp (WM.sa w) (WM.sb w) o (WM.rep w) (WM.pN w))
  | 0x14 => do let row ← WOp.ofCode (WM.row w); some (.vstc row (WM.dN w) (WM.sa w) (WM.sb w) (WM.ord w / 256) (WM.rep w) (WM.pN w))
  | 0x20 => do let dst ← WOp.ofCode (W.dst w); let a ← WOp.ofCode (W.srcA w); let b ← WOp.ofCode (W.srcB w); some (.vadd dst a b (W.sN w) (W.pN w) (W.rep w))
  | 0x21 => do let dst ← WOp.ofCode (W.dst w); let a ← WOp.ofCode (W.srcA w); let b ← WOp.ofCode (W.srcB w); some (.vsub dst a b (W.sN w) (W.pN w) (W.rep w))
  | 0x22 => do let dst ← WOp.ofCode (W.dst w); let a ← WOp.ofCode (W.srcA w); let b ← WOp.ofCode (W.srcB w); some (.vmul dst a b (W.sN w) (W.pN w) (W.rep w))
  | 0x23 => do let dst ← WOp.ofCode (W.dst w); let a ← WOp.ofCode (W.srcA w); let b ← WOp.ofCode (W.srcB w); some (.vfma dst a b (W.sN w) (W.pN w) (W.rep w))
  | 0x24 => do let dst ← WOp.ofCode (W.dst w); let a ← WOp.ofCode (W.srcA w); let b ← WOp.ofCode (W.srcB w); some (.vfms dst a b (W.sN w) (W.pN w) (W.rep w))
  | 0x25 => do let dst ← WOp.ofCode (W.dst w); let a ← WOp.ofCode (W.srcA w); some (.vneg dst a (W.sN w) (W.pN w) (W.rep w))
  | 0x26 => do let dst ← WOp.ofCode (W.dst w); let a ← WOp.ofCode (W.srcA w); some (.vabs dst a (W.sN w) (W.pN w) (W.rep w))
  | 0x27 => do let dst ← WOp.ofCode (W.dst w); let a ← WOp.ofCode (W.srcA w); let b ← WOp.ofCode (W.srcB w); some (.vmin dst a b (W.sN w) (W.pN w) (W.rep w))
  | 0x28 => do let dst ← WOp.ofCode (W.dst w); let a ← WOp.ofCode (W.srcA w); let b ← WOp.ofCode (W.srcB w); some (.vmax dst a b (W.sN w) (W.pN w) (W.rep w))
  | 0x29 => do let dst ← WOp.ofCode (W.dst w); let a ← WOp.ofCode (W.srcA w); some (.vrcp dst a (W.sN w) (W.pN w) (W.rep w))
  | 0x2A => do let dst ← WOp.ofCode (W.dst w); let a ← WOp.ofCode (W.srcA w); some (.vrsq dst a (W.sN w) (W.pN w) (W.rep w))
  | 0x2B => do let dst ← WOp.ofCode (W.dst w); let a ← WOp.ofCode (W.srcA w); some (.vexp2 dst a (W.sN w) (W.pN w) (W.rep w))
  | 0x2C => do let dst ← WOp.ofCode (W.dst w); let a ← WOp.ofCode (W.srcA w); some (.vlog2 dst a (W.sN w) (W.pN w) (W.rep w))
  | 0x30 => do let dst ← WOp.ofCode (W.dst w); let a ← WOp.ofCode (W.srcA w); let b ← WOp.ofCode (W.srcB w); let mode ← Sat.ofCode (W.mod w); some (.viadd dst a b (W.sN w) (W.pN w) (W.rep w) mode)
  | 0x31 => do let dst ← WOp.ofCode (W.dst w); let a ← WOp.ofCode (W.srcA w); let b ← WOp.ofCode (W.srcB w); let mode ← Sat.ofCode (W.mod w); some (.visub dst a b (W.sN w) (W.pN w) (W.rep w) mode)
  | 0x32 => do let dst ← WOp.ofCode (W.dst w); let a ← WOp.ofCode (W.srcA w); let b ← WOp.ofCode (W.srcB w); let mode ← Sat.ofCode (W.mod w); some (.vimul dst a b (W.sN w) (W.pN w) (W.rep w) mode)
  | 0x33 => do let dst ← WOp.ofCode (W.dst w); let a ← WOp.ofCode (W.srcA w); let b ← WOp.ofCode (W.srcB w); some (.vand dst a b (W.sN w) (W.pN w) (W.rep w))
  | 0x34 => do let dst ← WOp.ofCode (W.dst w); let a ← WOp.ofCode (W.srcA w); let b ← WOp.ofCode (W.srcB w); some (.vor dst a b (W.sN w) (W.pN w) (W.rep w))
  | 0x35 => do let dst ← WOp.ofCode (W.dst w); let a ← WOp.ofCode (W.srcA w); let b ← WOp.ofCode (W.srcB w); some (.vxor dst a b (W.sN w) (W.pN w) (W.rep w))
  | 0x36 => do let dst ← WOp.ofCode (W.dst w); let a ← WOp.ofCode (W.srcA w); let b ← WOp.ofCode (W.srcB w); some (.vshl dst a b (W.sN w) (W.pN w) (W.rep w))
  | 0x37 => do let dst ← WOp.ofCode (W.dst w); let a ← WOp.ofCode (W.srcA w); let b ← WOp.ofCode (W.srcB w); some (.vshr dst a b (W.sN w) (W.pN w) (W.rep w))
  | 0x38 => do let dst ← WOp.ofCode (W.dst w); let a ← WOp.ofCode (W.srcA w); let b ← WOp.ofCode (W.srcB w); some (.vsra dst a b (W.sN w) (W.pN w) (W.rep w))
  | 0x39 => do let dst ← WOp.ofCode (W.dst w); let a ← WOp.ofCode (W.srcA w); let b ← WOp.ofCode (W.srcB w); some (.vimin dst a b (W.sN w) (W.pN w) (W.rep w) ((W.mod w) % 2 == 1))
  | 0x3A => do let dst ← WOp.ofCode (W.dst w); let a ← WOp.ofCode (W.srcA w); let b ← WOp.ofCode (W.srcB w); some (.vimax dst a b (W.sN w) (W.pN w) (W.rep w) ((W.mod w) % 2 == 1))
  | 0x40 => do let cond ← FCond.ofCode (W.dst w / 256); let a ← WOp.ofCode (W.srcA w); let b ← WOp.ofCode (W.srcB w); some (.vcmp (W.dst w % 8) cond a b (W.sN w) (W.pN w))
  | 0x41 => do let cond ← Cond.ofCode (W.dst w / 256); let a ← WOp.ofCode (W.srcA w); let b ← WOp.ofCode (W.srcB w); some (.vicmp (W.dst w % 8) cond a b (W.sN w) (W.pN w))
  | 0x42 => some (.pand (W.dst w) (W.srcA w) (W.srcB w))
  | 0x43 => some (.por (W.dst w) (W.srcA w) (W.srcB w))
  | 0x44 => some (.pxor (W.dst w) (W.srcA w) (W.srcB w))
  | 0x45 => some (.pnot (W.dst w) (W.srcA w))
  | 0x46 => some (.pmov (W.dst w) (W.srcA w))
  | 0x50 => do let dst ← WOp.ofCode (W.dst w); let a ← WOp.ofCode (W.srcA w); some (.vmov dst a (W.sN w) (W.pN w) (W.rep w))
  | 0x51 => do let dst ← WOp.ofCode (W.dst w); let a ← WOp.ofCode (W.srcA w); let b ← WOp.ofCode (W.srcB w); some (.vsel dst a b (W.sN w) (W.pN w) (W.rep w))
  | 0x52 => do let dst ← WOp.ofCode (W.dst w); let a ← WOp.ofCode (W.srcA w); some (.vbcst dst a (W.sN w) (W.pN w) (W.rep w))
  | 0x53 => do let dst ← WOp.ofCode (W.dst w); let a ← WOp.ofCode (W.srcA w); let b ← WOp.ofCode (W.srcB w); some (.vperm dst a b (W.pN w) (W.rep w))
  | 0x54 => do let dst ← WOp.ofCode (W.dst w); let a ← WOp.ofCode (W.srcA w); let b ← WOp.ofCode (W.srcB w); some (.vrmg dst a b (W.sN w) (W.pN w) (W.rep w))
  | 0x55 => do let dst ← WOp.ofCode (W.dst w); some (.vidx dst (W.sN w) (W.pN w) (W.rep w))
  | 0x60 => do let dst ← WOp.ofCode (W.dst w); let a ← WOp.ofCode (W.srcA w); let op ← RedOp.ofCode (W.mod w); some (.vred dst a (W.pN w) (W.rep w) op)
  | 0x61 => do let dst ← WOp.ofCode (W.dst w); let a ← WOp.ofCode (W.srcA w); let op ← RedOp.ofCode (W.mod w); some (.vreds dst a (W.pN w) (W.rep w) op)
  | 0x62 => do let dst ← WOp.ofCode (W.dst w); let a ← WOp.ofCode (W.srcA w); let op ← RedOp.ofCode (W.mod w); some (.vscan dst a (W.pN w) (W.rep w) op)
  | _ => none

/-- The instruction of class 0x4 that opcode `opc` names, its fields read from `w` (R67, R104 to R106); none where a field holds a
reserved value, or the opcode is not listed. -/
def buildCnv (opc w : Nat) : Option Instr :=
  match opc with
  | 0x00 => do let dst ← WOp.ofCode (W.dst w); let a ← WOp.ofCode (W.srcA w); let cw ← CvtWord.ofCode (W.srcB w); some (.vcvt dst a cw (W.sN w) (W.pN w) (W.rep w))
  | 0x01 => do let dst ← WOp.ofCode (W.dst w); let a ← WOp.ofCode (W.srcA w); let cw ← CvtWord.ofCode (W.srcB w); some (.vcvts dst a cw (W.sN w) (W.pN w) (W.rep w))
  | 0x02 => do let dst ← WOp.ofCode (W.dst w); let a ← WOp.ofCode (W.srcA w); let b ← WOp.ofCode (W.srcB w); some (.vscl dst a b (W.pN w) (W.rep w) (W.mod w))
  | 0x03 => do let dst ← WOp.ofCode (W.dst w); let a ← WOp.ofCode (W.srcA w); let mode ← PackMode.ofCode (W.mod w); some (.vpack dst a (W.pN w) (W.rep w) mode)
  | 0x04 => do let dst ← WOp.ofCode (W.dst w); let a ← WOp.ofCode (W.srcA w); let cw ← CvtWord.ofCode (W.srcB w); some (.vunpk dst a cw (W.pN w) (W.rep w))
  | 0x05 => do let dst ← WOp.ofCode (W.dst w); let a ← WOp.ofCode (W.srcA w); let cw ← CvtWord.ofCode (W.srcB w); some (.vqln dst a cw (W.pN w) (W.rep w))
  | 0x08 => do let fmt ← Fmt.ofCode (K.imm16 w % 32); some (.ttag (K.spec w) fmt ((K.imm16 w / 32 % 2) % 2 == 1))
  | 0x09 => some (.ttget (K.sd w) (K.spec w))
  | 0x0A => some (.fmtm (K.sa w) (K.imm16 w))
  | _ => none

/-- The instruction of class 0x5 that opcode `opc` names, its fields read from `w` (R68); none where a field holds a
reserved value, or the opcode is not listed. -/
def buildMtx (opc w : Nat) : Option Instr :=
  match opc with
  | 0x00 => do let fa ← MxFmt.ofCode (X.fa w); let fb ← MxFmt.ofCode (X.fb w); let o ← AccOrd.ofCode (X.ord w); some (.mma (X.acc w) (X.ma w) (X.mb w) (X.sK w) (X.hint w) fa fb o)
  | 0x01 => do let fa ← MxFmt.ofCode (X.fa w); let fb ← MxFmt.ofCode (X.fb w); let o ← AccOrd.ofCode (X.ord w); some (.mmas (X.acc w) (X.ma w) (X.mb w) (X.sK w) (X.hint w) fa fb o (X.ms w))
  | 0x02 => do let fa ← MxFmt.ofCode (X.fa w); let fb ← MxFmt.ofCode (X.fb w); let o ← AccOrd.ofCode (X.ord w); some (.mmal (X.acc w) (X.ma w) (X.mb w) (X.sK w) (X.hint w) fa fb o (msOf (X.ms w)))
  | 0x03 => do let fa ← MxFmt.ofCode (X.fa w); let fb ← MxFmt.ofCode (X.fb w); let o ← AccOrd.ofCode (X.ord w); some (.mmaz (X.acc w) (X.ma w) (X.mb w) (X.sK w) (X.hint w) fa fb o)
  | 0x08 => do let src ← MxSrc.ofCode (K.sub w); some (.mxsa (K.sd w) (K.sa w) (K.sb w) src)
  | 0x09 => do let src ← MxSrc.ofCode (K.sub w); some (.mxsb (K.sd w) (K.sa w) (K.sb w) src)
  | 0x0A => do let mode ← MsMode.ofCode (K.sub w); some (.mxsm (K.sd w) (K.sa w) mode)
  | 0x0B => do let item ← MxItem.ofCode (K.sub w / 16); some (.mxrd (K.sd w) item (K.sub w % 16))
  | _ => none

/-- The instruction of class 0x6 that opcode `opc` names, its fields read from `w` (R69, R245); none where a field holds a
reserved value, or the opcode is not listed. -/
def buildXfr (opc w : Nat) : Option Instr :=
  match opc with
  | 0x00 => do let mem ← some (XMem.ofCode (T.sub w / 8 % 2) (T.cN w)); let o ← AccOrd.ofCode (T.ord w); let dest ← GetDest.ofCode (T.sub w % 4); some (.bget mem (T.sa w) (T.sb w) (T.sc w) (T.sF w) o dest)
  | 0x01 => do let mem ← some (XMem.ofCode (T.sub w / 8 % 2) (T.cN w)); let o ← AccOrd.ofCode (T.ord w); some (.bput mem (T.sa w) (T.sb w) (T.sc w) (T.sF w) o)
  | 0x02 => do let sp ← some (XSpace.ofCode (T.sub w % 2) (T.cN w)); let o ← AccOrd.ofCode (T.ord w); some (.bcpy sp (T.sa w) (T.sb w) (T.sc w) (T.sF w) o)
  | 0x03 => do let sp ← some (XSpace.ofCode (T.sub w % 2) (T.cN w)); let o ← AccOrd.ofCode (T.ord w); some (.bfill sp (if T.sub w % 2 = 1 then T.sa w else T.sb w) (T.sc w) (T.sF w) o (T.imm8 w))
  | 0x04 => do let o ← AccOrd.ofCode (T.ord w); some (.xflag (T.sF w) o)
  | 0x05 => do let o ← AccOrd.ofCode (T.ord w); some (.bcan (T.sF w) o)
  | 0x10 => do let o ← AccOrd.ofCode (T.ord w); some (.rlpub (T.cN w) (T.sa w) (T.sb w) (T.sc w) (T.sF w) o (T.imm8 w))
  | 0x11 => do let o ← AccOrd.ofCode (T.ord w); some (.rlstp (T.sa w) (T.sF w) o)
  | 0x12 => do let o ← AccOrd.ofCode (T.ord w); some (.rlqry (T.sb w) (T.sF w) o)
  | 0x20 => do let o ← AccOrd.ofCode (T.ord w); let kind ← EngKind.ofCode (T.sub w % 4); some (.cbind (T.sb w) (T.sF w) o kind (T.imm8 w))
  | 0x21 => do let o ← AccOrd.ofCode (T.ord w); let kind ← EngKind.ofCode (T.sub w % 4); some (.crel (T.sF w) o kind (T.imm8 w))
  | 0x22 => do let o ← AccOrd.ofCode (T.ord w); some (.ccoll (T.cN w) (T.sa w) (T.sb w) (T.sc w) (T.sF w) o)
  | 0x23 => do let o ← AccOrd.ofCode (T.ord w); some (.ccmp (T.cN w) (T.sa w) (T.sb w) (T.sc w) (T.sF w) o ((T.sub w % 2) % 2 == 1))
  | 0x24 => do let o ← AccOrd.ofCode (T.ord w); some (.cdcp (T.cN w) (T.sa w) (T.sb w) (T.sc w) (T.sF w) o ((T.sub w % 2) % 2 == 1))
  | 0x25 => do let o ← AccOrd.ofCode (T.ord w); some (.cstat (T.sb w) (T.sF w) o)
  | _ => none

/-- The instruction of class 0x7 that opcode `opc` names, its fields read from `w` (R69, R284); none where a field holds a
reserved value, or the opcode is not listed. -/
def buildTsk (opc w : Nat) : Option Instr :=
  match opc with
  | 0x00 => some (.tspawn (K.sd w) (K.spec w) (K.sa w) (K.sb w) ((K.sub w) % 2 == 1))
  | 0x01 => some (.tdep (K.sd w) (K.sa w) (K.sb w) ((K.sub w) % 2 == 1))
  | 0x02 => some (.tend)
  | 0x03 => some (.ttrig)
  | 0x04 => some (.tyld)
  | 0x05 => do let item ← SelfItem.ofCode (K.sub w); some (.tself (K.sd w) item)
  | 0x06 => some (.tprio (K.sd w) (K.sa w) (K.sb w))
  | 0x10 => some (.gjoin (K.sd w) (K.sa w) (K.imm16 w))
  | 0x11 => some (.gleave (K.sd w) (K.sa w) (K.imm16 w))
  | 0x12 => some (.gbar (K.sd w) (K.sa w) (K.imm16 w))
  | 0x13 => some (.gmem (K.sd w) (K.sa w) (K.imm16 w))
  | 0x20 => some (.tlinc (K.sd w) (K.spec w) (K.sa w) (K.sb w) (K.sub w))
  | 0x21 => some (.tlset (K.sd w) (K.spec w) (K.sa w) (K.sb w) (K.sub w))
  | 0x22 => some (.tlwait (K.sd w) (K.spec w) (K.sa w) (K.sb w) (K.sub w))
  | 0x23 => some (.tlget (K.sd w) (K.spec w) (K.sa w) (K.sub w))
  | 0x30 => some (.resq (K.sd w) (K.sa w) (K.sb w) (K.spec w))
  | 0x31 => some (.reshint (K.sa w) (K.sb w) (K.spec w) ((K.sub w / 8 % 2) % 2 == 1) (K.sub w % 8))
  | _ => none

/-- The instruction of class 0x8 that opcode `opc` names, its fields read from `w` (R70, R314, R346, R375, R387, R388); none where a field holds a
reserved value, or the opcode is not listed. -/
def buildSys (opc w : Nat) : Option Instr :=
  match opc with
  | 0x00 => some (.trap (K.sa w) (K.imm16 w) ((K.sub w) % 2 == 1))
  | 0x01 => do let form ← EretForm.ofCode (K.sub w); some (.eret (K.sa w) form)
  | 0x02 => some (.mfsp (K.sd w) (K.sa w) (K.spec w))
  | 0x03 => some (.mtsp (K.sa w) (K.sb w) (K.spec w))
  | 0x04 => some (.ctxsv (K.sd w) (K.sa w) (K.sb w) (K.spec w) ((K.sub w % 2) % 2 == 1) (K.sub w / 2 % 8))
  | 0x05 => some (.ctxld (K.sd w) (K.sb w) (K.spec w) (K.sub w / 2 % 8))
  | 0x06 => do let item ← FltItem.ofCode (K.sub w); some (.fltinfo (K.sd w) (K.sa w) item)
  | 0x10 => do let form ← TlbForm.ofCode (K.sub w); some (.tlbiv (K.sd w) (K.sa w) (K.sb w) form)
  | 0x11 => some (.unmap (K.sd w) (K.sa w) ((K.sub w) % 2 == 1))
  | 0x12 => some (.mapsync)
  | 0x13 => some (.cstwin (K.sd w) ((K.sub w) % 2 == 1))
  | 0x40 => some (.rgnasn (K.sd w) (K.sa w) (K.sb w))
  | 0x41 => some (.rgnwin (K.sd w) (K.sa w))
  | 0x42 => some (.rgnrst (K.sd w) (K.sa w))
  | 0x43 => some (.scrub (K.sd w) (K.sa w) ((K.sub w) % 2 == 1))
  | 0x44 => some (.scrst (K.sd w) (K.sa w) ((K.sub w) % 2 == 1))
  | 0x45 => some (.tokchk (K.sd w) (K.sa w) (K.sb w) (K.spec w) ((K.sub w) % 2 == 1))
  | 0x46 => some (.keyz (K.sd w) (K.sa w))
  | 0x47 => some (.msgf (K.sd w) (K.sa w) (K.spec w) (K.imm16 w))
  | 0x48 => some (.xenq (K.sd w) (K.sa w) (K.spec w) (K.imm16 w))
  | 0x80 => some (.lkst (K.sd w) (K.sa w) ((K.sub w) % 2 == 1))
  | 0x81 => some (.lkdrn (K.sd w) (K.sa w))
  | 0x82 => some (.lktop (K.sd w) (K.sa w) (K.spec w))
  | 0x83 => some (.lkrsm (K.sd w) (K.sa w))
  | 0x84 => some (.lsacq (K.sd w) (K.sa w) (K.sb w) ((K.sub w) % 2 == 1))
  | 0x85 => some (.lsrnw (K.sd w) (K.sb w))
  | 0x86 => some (.lsrel (K.sd w))
  | 0x87 => do let item ← TokItem.ofCode (K.sub w); some (.lstok (K.sd w) item)
  | 0x90 => do let item ← FeatItem.ofCode (K.sub w); some (.feat (K.sd w) item)
  | 0x91 => some (.errlog (K.sd w) (K.sa w) (K.spec w) ((K.sub w) % 2 == 1))
  | _ => none

/-- The opcode map lists this opcode for this class (R62 to R70). -/
def listed (cls opc : Nat) : Bool :=
  match cls with
  | 0 => (decide (0x01 ≤ opc) && decide (opc ≤ 0x06)) || (decide (0x10 ≤ opc) && decide (opc ≤ 0x1C)) || (decide (0x20 ≤ opc) && decide (opc ≤ 0x2D)) || (decide (0x30 ≤ opc) && decide (opc ≤ 0x39)) || (decide (0x40 ≤ opc) && decide (opc ≤ 0x47)) || (decide (0x50 ≤ opc) && decide (opc ≤ 0x55)) || (decide (0x58 ≤ opc) && decide (opc ≤ 0x5A))
  | 1 => (decide (0x00 ≤ opc) && decide (opc ≤ 0x05)) || (decide (0x10 ≤ opc) && decide (opc ≤ 0x12)) || (decide (0x20 ≤ opc) && decide (opc ≤ 0x23)) || (decide (0x28 ≤ opc) && decide (opc ≤ 0x2A)) || (decide (0x30 ≤ opc) && decide (opc ≤ 0x31))
  | 2 => (decide (0x00 ≤ opc) && decide (opc ≤ 0x04)) || (decide (0x08 ≤ opc) && decide (opc ≤ 0x0A))
  | 3 => (decide (0x00 ≤ opc) && decide (opc ≤ 0x04)) || (decide (0x10 ≤ opc) && decide (opc ≤ 0x14)) || (decide (0x20 ≤ opc) && decide (opc ≤ 0x2C)) || (decide (0x30 ≤ opc) && decide (opc ≤ 0x3A)) || (decide (0x40 ≤ opc) && decide (opc ≤ 0x46)) || (decide (0x50 ≤ opc) && decide (opc ≤ 0x55)) || (decide (0x60 ≤ opc) && decide (opc ≤ 0x62))
  | 4 => (decide (0x00 ≤ opc) && decide (opc ≤ 0x05)) || (decide (0x08 ≤ opc) && decide (opc ≤ 0x0A))
  | 5 => (decide (0x00 ≤ opc) && decide (opc ≤ 0x03)) || (decide (0x08 ≤ opc) && decide (opc ≤ 0x0B))
  | 6 => (decide (0x00 ≤ opc) && decide (opc ≤ 0x05)) || (decide (0x10 ≤ opc) && decide (opc ≤ 0x12)) || (decide (0x20 ≤ opc) && decide (opc ≤ 0x25))
  | 7 => (decide (0x00 ≤ opc) && decide (opc ≤ 0x06)) || (decide (0x10 ≤ opc) && decide (opc ≤ 0x13)) || (decide (0x20 ≤ opc) && decide (opc ≤ 0x23)) || (decide (0x30 ≤ opc) && decide (opc ≤ 0x31))
  | 8 => (decide (0x00 ≤ opc) && decide (opc ≤ 0x06)) || (decide (0x10 ≤ opc) && decide (opc ≤ 0x13)) || (decide (0x40 ≤ opc) && decide (opc ≤ 0x48)) || (decide (0x80 ≤ opc) && decide (opc ≤ 0x87)) || (decide (0x90 ≤ opc) && decide (opc ≤ 0x91))
  | _ => false

/-- The instruction that a listed word's used fields name. -/
def build (w : Nat) : Option Instr :=
  match fld w 60 4 with
  | 0 => buildCtl (fld w 52 8) w
  | 1 => buildMem (fld w 52 8) w
  | 2 => buildOrd (fld w 52 8) w
  | 3 => buildVec (fld w 52 8) w
  | 4 => buildCnv (fld w 52 8) w
  | 5 => buildMtx (fld w 52 8) w
  | 6 => buildXfr (fld w 52 8) w
  | 7 => buildTsk (fld w 52 8) w
  | 8 => buildSys (fld w 52 8) w
  | _ => none

/-- The levels of R4. -/
inductive Level where
  | u | s | h
  deriving DecidableEq, Repr

/-- The rank of a level: U < S < H (R4). -/
def Level.rank : Level → Nat
  | .u => 0
  | .s => 1
  | .h => 2

/-- The level an instruction word needs: by opcode (R63 to R70), and for five instructions by a form or item in sub
(TRAP.hv R315, ERET.refl R316, FLTINFO.leaf R318, CAPINF.ttp R165, TDGET.ttp R167). -/
def wordLevel (w : Nat) : Level :=
  match fld w 60 4, fld w 52 8 with
  | 1, 0x22 => if K.sub w = 4 then .s else .u
  | 1, 0x29 => if K.sub w = 12 then .s else .u
  | 7, 0x21 => .s
  | 8, 0x00 => if K.sub w % 2 = 1 then .s else .u
  | 8, 0x01 => if K.sub w % 4 = 2 then .h else .s
  | 8, 0x06 => if K.sub w = 6 then .h else .s
  | 8, 0x11 => .h
  | 8, 0x40 => .h
  | 8, 0x42 => .h
  | 8, 0x43 => .h
  | 8, 0x44 => .h
  | 8, 0x46 => .h
  | 8, 0x47 => .h
  | 8, 0x48 => .u
  | 8, 0x80 => .u
  | 8, 0x81 => .h
  | 8, 0x82 => .h
  | 8, 0x83 => .h
  | 8, 0x87 => .u
  | 8, 0x90 => .u
  | 8, 0x91 => .h
  | 8, _ => .s
  | _, _ => .u

/-- BR, BRA, CALL, RET, LOOP, LOOPP, BRK and ERET, which raise 0x03 in a delay slot (R43, R126, R314). -/
def wordTransfer (w : Nat) : Bool :=
  match fld w 60 4, fld w 52 8 with
  | 0, 0x52 => true
  | 0, 0x53 => true
  | 0, 0x54 => true
  | 0, 0x55 => true
  | 0, 0x58 => true
  | 0, 0x59 => true
  | 0, 0x5A => true
  | 8, 0x01 => true
  | _, _ => false

/-- BR, BRA, CALL and RET, which may not stand near the end of an active loop (R130). -/
def wordBranch (w : Nat) : Bool :=
  match fld w 60 4, fld w 52 8 with
  | 0, 0x52 => true
  | 0, 0x53 => true
  | 0, 0x54 => true
  | 0, 0x55 => true
  | _, _ => false

/-- The feature bit without which the opcode raises 0x01 (R385). -/
def wordFeature (w : Nat) : Option Nat :=
  match fld w 60 4, fld w 52 8 with
  | 4, 0x05 => some 0
  | 5, 0x01 => some 1
  | 5, 0x02 => some 0
  | 5, 0x0A => some 1
  | 6, 0x10 => some 7
  | 6, 0x11 => some 7
  | 6, 0x12 => some 7
  | 6, 0x22 => some 5
  | 6, 0x23 => some 4
  | 6, 0x24 => some 4
  | _, _ => none

/-- The level of an instruction (R63 to R70); an event has none to check. -/
def Instr.level : Instr → Level
  | .capinf _ _ .ttp => .s
  | .tdget _ _ .ttp => .s
  | .tlset .. => .s
  | .trap _ _ true => .s
  | .eret _ .refl => .h
  | .eret _ _ => .s
  | .mfsp .. => .s
  | .mtsp .. => .s
  | .ctxsv .. => .s
  | .ctxld .. => .s
  | .fltinfo _ _ .leaf => .h
  | .fltinfo .. => .s
  | .tlbiv .. => .s
  | .unmap .. => .h
  | .mapsync => .s
  | .cstwin .. => .s
  | .rgnasn .. => .h
  | .rgnwin .. => .s
  | .rgnrst .. => .h
  | .scrub .. => .h
  | .scrst .. => .h
  | .tokchk .. => .s
  | .keyz .. => .h
  | .msgf .. => .h
  | .lkdrn .. => .h
  | .lktop .. => .h
  | .lkrsm .. => .h
  | .lsacq .. => .s
  | .lsrnw .. => .s
  | .lsrel .. => .s
  | .errlog .. => .h
  | _ => .u

/-- The transfers of control of R43. -/
def Instr.transfer : Instr → Bool
  | .br .. => true
  | .bra .. => true
  | .call .. => true
  | .ret .. => true
  | .loop .. => true
  | .loopp .. => true
  | .brk .. => true
  | .eret .. => true
  | _ => false

/-- The branches of R130. -/
def Instr.branch : Instr → Bool
  | .br .. => true
  | .bra .. => true
  | .call .. => true
  | .ret .. => true
  | _ => false

/-- The feature bit without which the instruction raises 0x01 (R385). -/
def Instr.feature : Instr → Option Nat
  | .vqln .. => some 0
  | .mmal .. => some 0
  | .mmas .. => some 1
  | .mxsm .. => some 1
  | .ccmp .. => some 4
  | .cdcp .. => some 4
  | .ccoll .. => some 5
  | .rlpub .. => some 7
  | .rlstp .. => some 7
  | .rlqry .. => some 7
  | _ => none

/-- The engine into whose queue an instruction is pushed; none for the control core's own and for events (R71). -/
def Instr.engine : Instr → Option Eng
  | .pref .. => some .vl
  | .hint .. => some .vl
  | .vld .. => some .vl
  | .vlds .. => some .vl
  | .vldt .. => some .vl
  | .vldg .. => some .vl
  | .vldc .. => some .vl
  | .vst .. => some .vs
  | .vsts .. => some .vs
  | .vstt .. => some .vs
  | .vsct .. => some .vs
  | .vstc .. => some .vs
  | .ttag .. => some .va
  | .fmtm .. => some .va
  | .mma .. => some .mx
  | .mmas .. => some .mx
  | .mmal .. => some .mx
  | .mmaz .. => some .mx
  | i =>
    match fld (encode i) 60 4, fld (encode i) 52 8 with
    | 3, _ => some .va
    | 4, 9 => none
    | 4, _ => some .va
    | 6, _ => some .xf
    | _, _ => none

/-- A row operand that a wide memory instruction or VA may name, read as 12 bits for the span rule (R58). -/
def WOp.span (o : WOp) (n : Nat) : Bool :=
  match o with
  | .h t i => decide (t * 32 + i + n ≤ 1024)
  | .v t i => decide (t * 32 + i + n ≤ 1024)
  | .d t i => decide (t * 32 + i + n ≤ 1024)
  | .q _ => true
  | .bcast => true

/-- A destination of VL (R59). -/
def WOp.vlDst : WOp → Bool
  | .h .. => true
  | .v .. => true
  | .q n => decide (n < 4)
  | _ => false

/-- A source of VS (R59). -/
def WOp.vsSrc : WOp → Bool
  | .h .. => true
  | .v .. => true
  | .q n => decide (4 ≤ n)
  | _ => false

/-- A destination of VA (R59). -/
def WOp.vaDst : WOp → Bool
  | .q n => decide (4 ≤ n)
  | .bcast => false
  | _ => true

/-- A source of VA (R59). -/
def WOp.vaSrc : WOp → Bool
  | .q n => decide (n < 4)
  | _ => true

/-- A queue-mapped operand. -/
def WOp.isQ : WOp → Bool
  | .q _ => true
  | _ => false

/-- The scalar broadcast. -/
def WOp.isBcast : WOp → Bool
  | .bcast => true
  | _ => false

/-- A row operand of direction h. -/
def WOp.isH : WOp → Bool
  | .h .. => true
  | _ => false

/-- The operand's first (tile :: index). -/
def WOp.pos : WOp → Nat
  | .h t i => t * 32 + i
  | .v t i => t * 32 + i
  | .d t i => t * 32 + i
  | .q _ => 0
  | .bcast => 0

/-- Scalar broadcast in a VA instruction whose sN only carries a broadcast (R60). -/
def bcastOk (srcs : List WOp) (sN : Nat) : Bool :=
  if srcs.any WOp.isBcast then decide (sN ≠ 0) else decide (sN = 0)

/-- Scalar broadcast where sN has a role of its own (R60, R66, R67). -/
def bcastRole (srcs : List WOp) (sN : Nat) : Bool := !srcs.any WOp.isBcast || decide (sN ≠ 0)

/-- The operands of a VA instruction: directions, queues and spans (R58, R59). -/
def vaOps (dst : WOp) (srcs : List WOp) (n : Nat) : Bool :=
  dst.vaDst && dst.span n && srcs.all (fun o => o.vaSrc && o.span n)

/-- A three-operand VA instruction: a queue destination may not be the third operand (R60, R214). -/
def fmaOk (dst a b : WOp) (sN : Nat) : Bool :=
  if a.isBcast || b.isBcast then decide (sN ≠ 0) && !dst.isQ else decide (sN ≠ 0) || !dst.isQ

/-- Formats with a scaled variant (R87). -/
def Fmt.scalable : Fmt → Bool
  | .fp8l => true
  | .fp8w => true
  | .ln6 => true
  | .int8 => true
  | _ => false

/-- The format code is one of the scaled ones (R225). -/
def MxFmt.scaled : MxFmt → Bool
  | .fp8ls => true
  | .fp8ws => true
  | .ln6s => true
  | _ => false

/-- An LN6 format code (R225). -/
def MxFmt.isLn6 : MxFmt → Bool
  | .ln6 => true
  | .ln6s => true
  | _ => false

/-- A 16-bit format code (R225). -/
def MxFmt.wide : MxFmt → Bool
  | .bf16 => true
  | .fp16 => true
  | _ => false

/-- A loads' ORD: plain or acquire (R153, R207, R236). -/
def Ord2.isLoad : Ord2 → Bool
  | .plain => true
  | .acq => true
  | _ => false

/-- A stores' ORD: plain or release (R153, R207). -/
def Ord2.isStore : Ord2 → Bool
  | .plain => true
  | .rel => true
  | _ => false

/-- Both formats 8-bit floating point, or both 16-bit (R236). -/
def mmaFmts (fa fb : MxFmt) : Bool := !fa.isLn6 && !fb.isLn6 && (fa.wide == fb.wide)

/-- The engines of a kind (R260). -/
def EngKind.count : EngKind → Nat
  | .bc => 8
  | .cp => 4
  | .cl => 4

/-- Size w or d (R52, R193). -/
def Size.wd : Size → Bool
  | .w => true
  | .d => true
  | _ => false

/-- The floating-point operations of R160. -/
def Aop.fp : Aop → Bool
  | .fadd => true
  | .fmin => true
  | .fmax => true
  | _ => false

/-- An atomic's fields agree: w or d, floating point only on w, the scratchpad named with c0 (R160, R162). -/
def atomOk (c : Nat) (op : Aop) (size : Size) (space : ASpace) : Bool :=
  size.wd && !(op.fp && size == .d) && (space == .object || decide (c = 0))

/-- The fields agree with the rules of the instruction's entry (order 5 of R43, but for captured values and features):
false raises 0x02. -/
def Instr.fieldsOk : Instr → Bool
  | .cmp kd _ _ _ => decide (kd ≠ 0)
  | .cmpi kd _ _ _ => decide (kd ≠ 0)
  | .kand kd _ _ => decide (kd ≠ 0)
  | .kor kd _ _ => decide (kd ≠ 0)
  | .kxor kd _ _ => decide (kd ≠ 0)
  | .knot kd _ => decide (kd ≠ 0)
  | .vany kd _ => decide (kd ≠ 0)
  | .vall kd _ => decide (kd ≠ 0)
  | .loop _ sa body count => decide (body ≠ 0) && (decide (sa = 0) || decide (count = 0))
  | .loopp _ _ sa _ k count _ => decide (k ≠ 0) && (decide (sa = 0) || decide (count = 0))
  | .lds _ _ _ o _ _ => o.ord.isLoad
  | .ldp _ _ o _ => o.ord.isLoad
  | .lde _ _ _ o _ _ => o.ord.isLoad
  | .sts _ _ _ o _ _ => o.ord.isStore
  | .stp _ _ o _ => o.ord.isStore
  | .ste _ _ _ o _ _ => o.ord.isStore
  | .atom c _ _ op size space _ => atomOk c op size space
  | .atomf _ c _ _ op size space _ => atomOk c op size space
  | .acas _ c _ _ size space _ _ => atomOk c .add size space
  | .capsel cd _ _ => decide (cd ≠ 0)
  | .capnar cd _ _ _ => decide (cd ≠ 0)
  | .capclr cd => decide (cd ≠ 0)
  | .tdset _ _ f => f != .ttp
  | .fence paths _ _ => decide (paths ≠ 0)
  | .fencem engines => decide (engines ≠ 0)
  | .waita _ c _ o size space _ => o.ord == .acq && size.wd && (space == .object || decide (c = 0))
  | .vld row _ _ _ o rep _ => row.vlDst && row.span (rep + 1) && o.ord.isLoad
  | .vlds row sp _ _ o rep _ dim => row.vlDst && row.span (rep + 1) && o.ord.isLoad && (sp != .spad || decide (dim = 0))
  | .vldt row _ _ _ o rep _ => row.vlDst && row.span (rep + 1) && o.ord.isLoad
  | .vldg row _ _ _ o rep _ => row.vlDst && row.span (rep + 1) && o.ord.isLoad
  | .vldc row _ _ _ _ rep _ => row.vlDst && row.span (rep + 1)
  | .vst row _ _ _ o rep _ => row.vsSrc && row.span (rep + 1) && o.ord.isStore
  | .vsts row sp _ _ o rep _ dim => row.vsSrc && row.span (rep + 1) && o.ord.isStore && (sp != .spad || decide (dim = 0))
  | .vstt row _ _ _ o rep _ => row.vsSrc && row.span (rep + 1) && o.ord.isStore
  | .vsct row _ _ _ o rep _ => row.vsSrc && row.span (rep + 1) && o.ord.isStore
  | .vstc row _ _ _ _ rep _ => row.vsSrc && row.span (rep + 1)
  | .vadd d a b n _ r => vaOps d [a, b] (r + 1) && bcastOk [a, b] n
  | .vsub d a b n _ r => vaOps d [a, b] (r + 1) && bcastOk [a, b] n
  | .vmul d a b n _ r => vaOps d [a, b] (r + 1) && bcastOk [a, b] n
  | .vfma d a b n _ r => vaOps d [a, b] (r + 1) && fmaOk d a b n
  | .vfms d a b n _ r => vaOps d [a, b] (r + 1) && fmaOk d a b n
  | .vneg d a n _ r => vaOps d [a] (r + 1) && bcastOk [a] n
  | .vabs d a n _ r => vaOps d [a] (r + 1) && bcastOk [a] n
  | .vmin d a b n _ r => vaOps d [a, b] (r + 1) && bcastOk [a, b] n
  | .vmax d a b n _ r => vaOps d [a, b] (r + 1) && bcastOk [a, b] n
  | .vrcp d a n _ r => vaOps d [a] (r + 1) && bcastOk [a] n
  | .vrsq d a n _ r => vaOps d [a] (r + 1) && bcastOk [a] n
  | .vexp2 d a n _ r => vaOps d [a] (r + 1) && bcastOk [a] n
  | .vlog2 d a n _ r => vaOps d [a] (r + 1) && bcastOk [a] n
  | .viadd d a b n _ r _ => vaOps d [a, b] (r + 1) && bcastOk [a, b] n
  | .visub d a b n _ r _ => vaOps d [a, b] (r + 1) && bcastOk [a, b] n
  | .vimul d a b n _ r _ => vaOps d [a, b] (r + 1) && bcastOk [a, b] n
  | .vand d a b n _ r => vaOps d [a, b] (r + 1) && bcastOk [a, b] n
  | .vor d a b n _ r => vaOps d [a, b] (r + 1) && bcastOk [a, b] n
  | .vxor d a b n _ r => vaOps d [a, b] (r + 1) && bcastOk [a, b] n
  | .vshl d a b n _ r => vaOps d [a, b] (r + 1) && bcastOk [a, b] n
  | .vshr d a b n _ r => vaOps d [a, b] (r + 1) && bcastOk [a, b] n
  | .vsra d a b n _ r => vaOps d [a, b] (r + 1) && bcastOk [a, b] n
  | .vimin d a b n _ r _ => vaOps d [a, b] (r + 1) && bcastOk [a, b] n
  | .vimax d a b n _ r _ => vaOps d [a, b] (r + 1) && bcastOk [a, b] n
  | .vcmp pd _ a b n _ => decide (pd ≠ 0) && a.vaSrc && b.vaSrc && bcastOk [a, b] n
  | .vicmp pd _ a b n _ => decide (pd ≠ 0) && a.vaSrc && b.vaSrc && bcastOk [a, b] n
  | .pand pd _ _ => decide (pd ≠ 0)
  | .por pd _ _ => decide (pd ≠ 0)
  | .pxor pd _ _ => decide (pd ≠ 0)
  | .pnot pd _ => decide (pd ≠ 0)
  | .pmov pd _ => decide (pd ≠ 0)
  | .vmov d a n _ r => vaOps d [a] (r + 1) && bcastOk [a] n
  | .vsel d a b n _ r => vaOps d [a, b] (r + 1) && bcastOk [a, b] n
  | .vbcst d a n _ r => vaOps d [a] (r + 1) && bcastRole [a] n
  | .vperm d a b _ r => vaOps d [a, b] (r + 1) && bcastOk [a, b] 0
  | .vrmg d a b n _ r => vaOps d [a, b] (r + 1) && bcastRole [a, b] n
  | .vidx d _ _ r => vaOps d [] (r + 1)
  | .vred d a _ r _ => vaOps d [a] (r + 1) && bcastOk [a] 0
  | .vreds d a _ r _ => d.vaDst && a.vaSrc && a.span (r + 1) && bcastOk [a] 0
  | .vscan d a _ r _ => vaOps d [a] (r + 1) && bcastOk [a] 0
  | .vcvt d a _ _ _ r => vaOps d [a] (r + 1) && !a.isBcast
  | .vcvts d a cw n _ r =>
    d.vaDst && !d.isQ && decide (d.pos % 32 + r + 1 ≤ 32) && a.vaSrc && !a.isBcast && cw.target.scalable && decide (n ≠ 0)
  | .vscl d a b _ r _ => d.vaDst && d.span (r + 1) && a.isH && decide (a.pos % 32 + r + 1 ≤ 32) && !b.isQ && !b.isBcast
  | .vpack d a _ r _ => d.vaDst && d.span (r + 1) && a.vaSrc && !a.isBcast && a.span (2 * (r + 1))
  | .vunpk d a _ _ r => d.vaDst && d.span (2 * (r + 1)) && a.vaSrc && !a.isBcast && a.span (r + 1)
  | .vqln d a cw _ r => vaOps d [a] (r + 1) && !a.isBcast && cw.target == .ln6 && !cw.sat
  | .ttag _ fmt scaled => !scaled || fmt.scalable
  | .mma _ _ _ _ _ fa fb o => mmaFmts fa fb && o.ord.isLoad
  | .mmas _ _ _ _ _ fa fb o _ => mmaFmts fa fb && !fa.scaled && o.ord.isLoad
  | .mmal _ _ _ _ _ fa fb o ms => fa.isLn6 && fb.isLn6 && (!fa.scaled || ms == none) && o.ord.isLoad
  | .mmaz _ _ _ _ _ fa fb o => mmaFmts fa fb && o.ord.isLoad
  | .mxrd _ item index =>
    match item with
    | .rp => decide (index < 3)
    | .stat => decide (index < 3)
    | _ => decide (index < 8)
  | .bget _ _ sb _ _ _ dest => dest != .rsv || decide (sb = 0)
  | .xflag f _ => decide (f ≠ 0)
  | .rlpub _ _ _ _ _ _ k => decide (1 ≤ k) && decide (k ≤ 8)
  | .cbind _ _ _ kind index => decide (index < kind.count) || decide (index = 255)
  | .crel _ _ kind index => decide (index < kind.count) || decide (index = 255)
  | .tspawn _ c _ _ _ => decide (c ≠ 0)
  | .tlinc _ c _ _ scope => decide (c ≠ 0) && decide (3 ≤ scope)
  | .tlset _ c _ _ scope => decide (c ≠ 0) && decide (3 ≤ scope)
  | .tlwait _ c _ _ scope => decide (c ≠ 0) && decide (3 ≤ scope)
  | .tlget _ c _ scope => decide (c ≠ 0) && decide (3 ≤ scope)
  | .reshint _ _ _ _ mask => decide (mask ≠ 0)
  | .mfsp _ _ item => decide (item ≤ 0x44) || (decide (0x48 ≤ item) && decide (item ≤ 0x4B)) || (decide (0x50 ≤ item) && decide (item ≤ 0x57))
  | .mtsp _ _ item => decide (item ≤ 0x44) || (decide (0x48 ≤ item) && decide (item ≤ 0x4B)) || (decide (0x50 ≤ item) && decide (item ≤ 0x57))
  | .ctxsv _ _ _ c _ scope => decide (c ≠ 0) && decide (3 ≤ scope)
  | .ctxld _ _ c scope => decide (c ≠ 0) && decide (3 ≤ scope)
  | .tlbiv _ sa sb form => form != .all || (decide (sa = 0) && decide (sb = 0))
  | .scrst _ sa alloc => !alloc || decide (sa = 0)
  | .tokchk _ _ _ c get => get || decide (c = 0)
  | .lkst _ sa port => port || decide (sa = 0)
  | .lktop _ _ c => decide (c ≠ 0)
  | .errlog _ sa c pop => pop || (decide (sa = 0) && decide (c = 0))
  | _ => true

/-- The SCOPE field of an instruction that has one (R55). -/
def Instr.scope : Instr → Option Nat
  | .lds _ _ _ o _ _ => some o.scope
  | .sts _ _ _ o _ _ => some o.scope
  | .ldp _ _ o _ => some o.scope
  | .stp _ _ o _ => some o.scope
  | .lde _ _ _ o _ _ => some o.scope
  | .ste _ _ _ o _ _ => some o.scope
  | .atom _ _ o _ _ _ _ => some o.scope
  | .atomf _ _ _ o _ _ _ _ => some o.scope
  | .acas _ _ _ o _ _ _ _ => some o.scope
  | .pref _ _ _ _ scope _ _ => some scope
  | .fence _ scope _ => some scope
  | .waita _ _ _ o _ _ _ => some o.scope
  | .vld _ _ _ _ o _ _ => some o.scope
  | .vlds _ _ _ _ o _ _ _ => some o.scope
  | .vldt _ _ _ _ o _ _ => some o.scope
  | .vldg _ _ _ _ o _ _ => some o.scope
  | .vst _ _ _ _ o _ _ => some o.scope
  | .vsts _ _ _ _ o _ _ _ => some o.scope
  | .vstt _ _ _ _ o _ _ => some o.scope
  | .vsct _ _ _ _ o _ _ => some o.scope
  | .mma _ _ _ _ _ _ _ o => some o.scope
  | .mmas _ _ _ _ _ _ _ o _ => some o.scope
  | .mmal _ _ _ _ _ _ _ o _ => some o.scope
  | .mmaz _ _ _ _ _ _ _ o => some o.scope
  | .bget _ _ _ _ _ o _ => some o.scope
  | .bput _ _ _ _ _ o => some o.scope
  | .bcpy _ _ _ _ _ o => some o.scope
  | .bfill _ _ _ _ o _ => some o.scope
  | .xflag _ o => some o.scope
  | .bcan _ o => some o.scope
  | .rlpub _ _ _ _ _ o _ => some o.scope
  | .rlstp _ _ o => some o.scope
  | .rlqry _ _ o => some o.scope
  | .cbind _ _ o _ _ => some o.scope
  | .crel _ o _ _ => some o.scope
  | .ccoll _ _ _ _ _ o => some o.scope
  | .ccmp _ _ _ _ _ o _ => some o.scope
  | .cdcp _ _ _ _ _ o _ => some o.scope
  | .cstat _ _ o => some o.scope
  | .tlinc _ _ _ _ scope => some scope
  | .tlset _ _ _ _ scope => some scope
  | .tlwait _ _ _ _ scope => some scope
  | .tlget _ _ _ scope => some scope
  | .ctxsv _ _ _ _ _ scope => some scope
  | .ctxld _ _ _ scope => some scope
  | _ => none

/-- Every row of the encoding refuses SCOPE 6 and 7 with 0x11 (R55). -/
def Instr.scopeOk (i : Instr) : Bool :=
  match i.scope with
  | some n => decide (n < 6)
  | none => true

/-- The fault that the word itself raises at checks 5 and 6 of R43: 0x02, then 0x11. -/
def Instr.staticFault (i : Instr) : Option Nat :=
  if !i.fieldsOk then some 0x02 else if !i.scopeOk then some 0x11 else none

/-- What a 64-bit word is (R42). -/
inductive Decoded where
  /-- 0x01: an illegal word. -/
  | illegal
  /-- 0x02: a listed instruction with a non-zero unused field or a reserved value. -/
  | reserved
  /-- 0x02 or 0x11: an instruction whose fields its entry refuses. -/
  | refused (code : Nat)
  /-- An instruction. -/
  | ok (i : Instr)
  deriving DecidableEq, Repr

/-- Decoding is total: an instruction is what its used fields name, provided that assembling it gives the same word, so
that every unused bit is zero (R42, R44), and that its fields are legal (R45 to R47). -/
def decode (w : Nat) : Decoded :=
  if w = 0 then .illegal
  else if !listed (fld w 60 4) (fld w 52 8) then .illegal
  else
    match build w with
    | none => .reserved
    | some i =>
      if i.wf && i.isWbas && encode i == w then
        match i.staticFault with
        | none => .ok i
        | some c => .refused c
      else .reserved

/-- The instruction that the decoder reads from a word; none for every word that is not an instruction. -/
def decodeWord (w : Nat) : Option Instr :=
  match decode w with
  | .ok i => some i
  | _ => none

/-- The instruction the decoder reads from a word of `nbits` bits, numbered as the opcode table numbers them. An
instruction is one 64-bit little-endian word (R39), so bit n of the table is bit n of the word. -/
def decodeTableWord (nbits w : Nat) : Option Instr := decodeWord (w % 2 ^ nbits % 2 ^ 64)

end Sys2Proof
end

