-- ==== Sys2Proof/Machine/Map.lean ====
section
/-! DEFINITION. Finite maps held as sorted lists of pairs in one canonical form: keys strictly rising, and no entry equal
to what an unlisted key reads as. -/

namespace Sys2Proof.Machine

/-- What key `k` reads as, `d` where it is not listed. -/
def mget {α : Type} (d : α) : Map α → Nat → α
  | [], _ => d
  | (j, v) :: m, k => if k = j then v else mget d m k

/-- The map with key `k` unlisted. -/
def merase {α : Type} : Map α → Nat → Map α
  | [], _ => []
  | (j, v) :: m, k => if k = j then merase m k else (j, v) :: merase m k

/-- The map with `v` listed at key `k`. -/
def mset {α : Type} : Map α → Nat → α → Map α
  | [], k, v => [(k, v)]
  | (j, u) :: m, k, v =>
    if k = j then (k, v) :: m else if k < j then (k, v) :: (j, u) :: m else (j, u) :: mset m k v

/-- The map whose key `k` reads `v`, in canonical form for the default `d`. -/
def mput {α : Type} [DecidableEq α] (d : α) (m : Map α) (k : Nat) (v : α) : Map α :=
  if v = d then merase m k else mset m k v

/-- Key `k` if it is listed. -/
def mfind {α : Type} : Map α → Nat → Option α
  | [], _ => none
  | (j, v) :: m, k => if k = j then some v else mfind m k

/-- The keys rise strictly. -/
def msorted {α : Type} : Map α → Bool
  | [] => true
  | [_] => true
  | (i, _) :: (j, w) :: m => decide (i < j) && msorted ((j, w) :: m)

/-- The canonical form: keys strictly rising, and no entry equal to the default. -/
def mwf {α : Type} [DecidableEq α] (d : α) (m : Map α) : Bool := msorted m && m.all (fun p => p.2 ≠ d)

end Sys2Proof.Machine
end

