-- ==== Sys2Proof/Machine/State.lean ====
section
/-! DEFINITION. The state of the whole package as plain data: every piece of state that the spec gives the machine, the
reasons for which a step stops, and the state right after package reset. A map lists only what differs from its default. -/

namespace Sys2Proof.Machine

/-- Reasons for which the model stops. Neither arises on a state that a run of well-formed steps reaches. -/
inductive Fault where
  /-- An instruction was executed for a slot that no task occupies; the control core issues nothing there (R30). Raised
  by the shared issue operation. Safe: the hardware has no such step. -/
  | noTask
  /-- An event names a unit that the package does not have (R17 to R20). Raised by events. Safe: no such event occurs. -/
  | noUnit
  deriving DecidableEq, Repr

/-- Refusals. -/
inductive Refusal where
  /-- An instruction without a meaning. No arm of `exec` answers it. Safe. -/
  | notModelled (mnemonic : String)
  deriving DecidableEq, Repr

/-- A capability register, or an entry of the capability table: four 64-bit words (R139). -/
structure Cap where
  w0 : Word := 0
  w1 : Word := 0
  w2 : Word := 0
  w3 : Word := 0
  deriving DecidableEq, Repr

/-- A tensor descriptor register: five 64-bit words (R147). -/
structure Desc where
  w0 : Word := 0
  w1 : Word := 0
  w2 : Word := 0
  w3 : Word := 0
  w4 : Word := 0
  deriving DecidableEq, Repr

/-- A format tag and its scaled bit (R81, R88); code 0x1F is EMPTY. -/
structure Tag where
  code   : Nat := 0x1F
  scaled : Bool := false
  deriving DecidableEq, Repr

/-- An image ma or mb: SRC, WA, WB, and for SRC 10 the copies of the descriptor and its capability (R228). -/
structure MaImage where
  src  : MxSrc := .tile
  wa   : Word := 0
  wb   : Word := 0
  desc : Desc := {}
  cap  : Cap := {}
  deriving DecidableEq, Repr

/-- An entry of a queue-mapped register (R202). -/
structure QEntry where
  row : Row
  tag : Tag
  deriving DecidableEq, Repr

/-- An active loop: its counter, the first word of its body, its end word, and its place in the order of starts (R128,
R131). -/
structure LoopRec where
  lc    : Nat
  start : Nat
  stop  : Nat
  pipe  : Bool
  ord   : Nat := 0
  deriving DecidableEq, Repr

/-- The segment of a LOOPP (R131). -/
inductive Seg where
  | prologue | kernel | epilogue
  deriving DecidableEq, Repr

/-- An active LOOPP (R113, R131, R132): its counter, slip depth, offset, lengths, segment and tag, and the engine
commands pushed in the current segment, by engine in the order VL, VA, VS, MX, XF. -/
structure Pipe where
  lc     : Nat
  depth  : Nat
  off    : Nat
  p      : Nat
  k      : Nat
  e      : Nat
  seg    : Seg
  iter   : Nat
  pushes : List Nat
  /-- The forced loop epilogue of R134 has clamped the count. -/
  forced : Bool := false
  /-- Its place in the order of starts (R128). -/
  ord    : Nat := 0
  deriving DecidableEq, Repr

/-- A pending transfer (R126): its target and the delay-slot words still to issue. A transfer that was not taken has the
word after the delay slots as its target. -/
structure Delay where
  target : Nat
  left   : Nat
  deriving DecidableEq, Repr

/-- The control and register state of a task slot, which is saved with the context (R31, R108, R303). Scalar, branch and
condition registers that are not listed hold zero. -/
structure Ctx where
  regs      : Map Word := []
  bt        : Map Nat := []
  kreg      : Nat := 0
  lc        : Map Word := []
  loops     : List LoopRec := []
  pipe      : Option Pipe := none
  delay     : Option Delay := none
  pc        : Nat := 0
  preds     : Map Pred := []
  caps      : Map Cap := []
  descs     : Map Desc := []
  ma        : Map MaImage := []
  mb        : Map MaImage := []
  ms        : Map Word := []
  queues    : Map (List QEntry) := []
  bal       : Map Int := []
  /-- The known tags of queue entries that no issued instruction has claimed, oldest first (R392). -/
  unclaimed : Map (List Tag) := []
  fmtmode   : Nat := 0
  sptag     : Nat := 0
  tags      : Map Tag := []
  /-- REM of R134, the passes that a forced loop epilogue removed; applied when the LOOPP issues again. -/
  rem       : Nat := 0
  /-- The tag from which a LOOPP that issues again counts its passes (R134). -/
  remIter   : Nat := 0
  deriving DecidableEq, Repr

/-- Why a request cannot go out yet: MAPST is not ACTIVE, Join is not accepted, a request for its line is outstanding on
another conduit, or a gate admits nothing yet (R24, R363, R364, R374); or a conduit of its destination is training, which it
waits for at most 1 ms (R364). -/
inductive Hold where
  | conduit | training
  deriving DecidableEq, Repr

/-- The record of a fault (R295, R297, R318). `hold` marks an access that meets no fault but waits for a route (R364); the
operation that raises faults takes no such record. -/
structure FaultRec where
  hold : Option Hold := none
  code : Nat
  addr : Nat
  gpa  : Nat := 0
  walk : Bool := false
  wr   : Bool := false
  eng  : Nat := 0
  hv   : Bool := false
  tnum : Nat := 0
  oid  : Nat := 0
  x0   : Nat := 0
  xhi  : Nat := 0
  leaf : Nat := 0
  mpc  : Nat := 0
  word : Nat := 0
  pc   : Nat := 0
  tick : Nat := 0
  deriving DecidableEq, Repr

/-- What a P0 access does (R157, R161). -/
inductive P0Op where
  | load (sd : Nat)
  | store (data : Nat)
  | rmw (op : Aop) (b : Nat) (sd : Option Nat)
  | cas (b cmp : Nat) (sd : Option Nat)
  deriving DecidableEq, Repr

/-- Apertures of a stage-2 leaf (R309), and the two targets that have no leaf: the scratchpad, and system memory as the
fontanier reaches it (R293). -/
inductive Aper where
  | pool | localPage | peer | cistern | spad | system
  deriving DecidableEq, Repr

/-- Where a request to the pool or a peer stands (R364, R366). -/
inductive Req where
  /-- It needs no conduit, or has not been sent. -/
  | fresh
  /-- Outstanding on a conduit. -/
  | sent (conduit : Nat)
  /-- Held until MAPST is ACTIVE, or for at most 1 ms. -/
  | held
  deriving DecidableEq, Repr

/-- An outstanding P0 access of a slot: a load, an atomic that returns a value, or a posted access in the store buffer
(R156, R158). -/
structure P0Acc where
  seq    : Nat
  op     : P0Op
  addr   : Nat
  aper   : Aper
  size   : Nat
  cls    : Nat
  ord    : Ord2
  scope  : Nat
  off    : Nat
  oid    : Nat := 0
  key    : Nat := 0
  /-- The token and the name of the step lease of a lease-bound write (R144, R373). -/
  token  : Option Word := none
  lname  : Word := 0
  peer   : Nat := 0
  lcls   : Nat := 0
  req    : Req := .fresh
  reqSeq : Nat := 0
  /-- The tick of its issue, or at which its request was held, and that of the first send of its request (R364, R366). -/
  first  : Nat := 0
  sentAt : Option Nat := none
  /-- Its request came back with retry status: the pool has not applied it (R364). -/
  retry  : Bool := false
  /-- The tick from which it is held only because a conduit of its destination trains (R364). -/
  timed  : Option Nat := none
  gpa    : Nat := 0
  leaf   : Nat := 0
  word   : Nat := 0
  pc     : Nat := 0
  evict  : Nat := 0
  /-- The coordinates of a descriptor access (R318). -/
  x0     : Nat := 0
  xhi    : Nat := 0
  /-- Its capability, and the tick at which the translation leases of its walk end: from then on, and after a TLBIV or UNMAP,
  it is translated again before it reaches its target (R312, R313). -/
  cap    : Cap := {}
  till   : Nat := 0
  /-- The tensor tile of a descriptor access (R154, R170). -/
  tile   : Option (Nat × Nat) := none
  deriving DecidableEq, Repr

/-- A deferred fault (R156, R158, R162, R297): its record, and the access that the hardware repeats on resume. -/
structure Deferred where
  seq   : Nat
  fault : FaultRec
  sd    : Option Nat
  redo  : Option P0Acc
  /-- The path as its bit in a FENCE mask, CLASS and ORD of a posted access that the pool rejected: no access that it is locally
  ordered before performs until the fault is delivered (R187). -/
  blocks : Option (Nat × Nat × Ord2) := none
  /-- It is raised at its own instruction, before any other of the slot issues (R353). -/
  own : Bool := false
  deriving DecidableEq, Repr

/-- An unsatisfied FENCE (R188, R189). -/
structure FenceRec where
  seq     : Nat
  paths   : Nat
  scope   : Nat
  classes : Nat
  word    : Nat := 0
  deriving DecidableEq, Repr

/-- A TOKP whose token has not entered (R195). -/
structure TokpRec where
  seq      : Nat
  sluice   : Nat
  value    : Nat
  reserved : Bool
  word     : Nat := 0
  /-- The place of the moment at which its conditions held, in the order of such moments on the core. -/
  met      : Option Nat := none
  deriving DecidableEq, Repr

/-- A command in an engine queue (R28, R32, R199), with all that it captured at issue. -/
structure Cmd where
  eng      : Eng
  slot     : Nat
  seq      : Nat
  instr    : Instr
  word     : Nat := 0
  pc       : Nat := 0
  marker   : Bool := false
  /-- A pre-emption marker, which takes no queue entry (R306). -/
  preMark  : Bool := false
  va       : Word := 0
  vb       : Word := 0
  vc       : Word := 0
  vf       : Word := 0
  bval     : Word := 0
  mpc      : Nat := 0
  seg      : Nat := 0
  inPipe   : Bool := false
  tagA     : Tag := {}
  tagB     : Tag := {}
  tagC     : Tag := {}
  /-- The issue-time tags of every tile that a source names (R88). -/
  srcTags  : Map Tag := []
  fmtmode  : Nat := 0
  sptag    : Nat := 0
  desc     : Desc := {}
  cap      : Cap := {}
  desc2    : Desc := {}
  cap2     : Cap := {}
  capF     : Cap := {}
  ma       : MaImage := {}
  mb       : MaImage := {}
  ms       : Word := 0
  level    : Level := .u
  started  : Bool := false
  jet      : Nat := 0
  /-- Only the flag step remains (R243). -/
  paid     : Bool := false
  /-- CCOLL's list as read at step 0 (R263). -/
  list     : List Word := []
  listCaps : List Cap := []
  /-- The tick at which its step began to wait for a route (R364). -/
  heldAt   : Option Nat := none
  /-- The source rows that a VREDS has read (R221). -/
  rows     : List Row := []
  deriving DecidableEq, Repr

/-- The step that a slot is in. -/
inductive Phase where
  /-- It issues under R30. -/
  | run
  /-- TEND has issued and waits for the commands before it (R200). -/
  | ending
  /-- A pre-emption request waits for a pending transfer, a prologue or a forced epilogue (R127, R134, R306). -/
  | preWait
  /-- Pre-emption markers are placed; the drain limit stands (R306). -/
  | drain (limit : Nat)
  /-- The forced loop epilogue has issued; the context is saved once its commands have completed (R134). -/
  | finish
  deriving DecidableEq, Repr

/-- What becomes of a task whose context is saved (R270, R298). -/
inductive Fate where
  | parkedFault | failed | parkedWait | requeue
  deriving DecidableEq, Repr

/-- The four registers a handler reads its fault in (R295). -/
structure FltRegs where
  code : Word := 0
  addr : Word := 0
  gpa  : Word := 0
  task : Word := 0
  deriving DecidableEq, Repr

/-- A task slot that a task occupies. -/
structure Slot where
  part     : Nat
  task     : Nat
  /-- SUP and BANKS of the record, fixed for the life of the task (R112, R293). -/
  sup      : Bool := false
  banks    : Nat := 0
  ctx      : Ctx := {}
  codeCap  : Cap := {}
  /-- The fault of a table entry that could not be read at dispatch or restore (R137). -/
  first    : Option FaultRec := none
  phase    : Phase := .run
  /-- A save that waits for a free frame slot (R300), and what it is for. -/
  saving   : Option Fate := none
  stalled  : Bool := false
  winBase  : Nat := 0
  winSize  : Nat := 0
  seq      : Nat := 1
  p0       : List P0Acc := []
  deferred : List Deferred := []
  fences   : List FenceRec := []
  tokps    : List TokpRec := []
  /-- The latest effect point of the slot's TLBIVs and UNMAPs (R322). -/
  effect   : Nat := 0
  /-- The leaves that its UNMAP.clrs cleared on POOL and PEER pages, each with its tick: their effect points wait for writes
  made through them (R321). -/
  unmaps   : List (Nat × Nat) := []
  flt      : FltRegs := {}
  hsel     : Nat := 0x40
  rsel     : Nat := 0
  /-- SLICE.LEFT at core cycle `sliceAt` of the region (R307). -/
  slice    : Nat := 0
  sliceAt  : Nat := 0
  /-- Accesses whose deferred fault has been delivered, which are repeated on resume (R158, R162). -/
  redo     : List P0Acc := []
  /-- The issue numbers of BRKs whose broken segments are not yet cleared away, oldest first (R133). -/
  breaks   : List Nat := []
  /-- Entry 0 or 1 of the capability table could not be read at dispatch; both are read again (R137). -/
  rebind   : Bool := false
  /-- The issue number of a TTRIG whose trigger waits for the accesses before it (R185, R282). -/
  trigAt   : Option Nat := none
  /-- The tick at which the slot began to wait for a route (R364). -/
  heldAt   : Option Nat := none
  deriving DecidableEq, Repr

/-- A token demand of a slot on a full sluice (R195). -/
structure SluiceReq where
  sluice : Nat
  slot   : Nat
  seq    : Nat
  deriving DecidableEq, Repr

/-- A line of an instruction cache: the system line that it copies, and its bytes (R28, R40, R156). -/
structure ILine where
  aper : Aper
  line : Nat
  data : Row
  deriving DecidableEq, Repr

/-- A core: its slots, engine queues, tile file, scratchpad, sluices and instruction cache (R28). -/
structure Core where
  slots    : Map Slot := []
  /-- The slot that last issued (R30). -/
  last     : Nat := 3
  cmds     : List Cmd := []
  /-- Tile cells by tile · 1024 + row · 32 + column. -/
  cells    : Map (BitVec 32) := []
  spad     : List Host.Cell := []
  /-- Uncorrectable 8-byte granules of the tile file and of the scratchpad (R391). -/
  tileErr  : List Nat := []
  spadErr  : List Nat := []
  sluices  : Map (List Nat) := []
  sluiceRq : List SluiceReq := []
  /-- Lines of the instruction cache, the least recently filled first. -/
  icache   : List ILine := []
  deriving DecidableEq, Repr

/-- Region states (R326). -/
inductive RState where
  | dirty | clean | owned | held | quiesce | scrub | sign | reset
  deriving DecidableEq, Repr

/-- A residency table entry, as the word of R277, and when it was last set or hinted. -/
structure ResEntry where
  word : Word
  used : Nat
  /-- The task whose window holds the bytes while SP is set, or 0. -/
  own  : Nat := 0
  deriving DecidableEq, Repr

/-- A cached translation: its key, its value and the tick at which its lease ends (R312). -/
structure TlbEntry where
  k0   : Nat
  k1   : Nat
  val  : Nat
  aux  : Nat := 0
  till : Nat
  /-- The guest page from which a tile-TLB entry was derived (R321). -/
  page : Nat := 0
  deriving DecidableEq, Repr

/-- A completion token (R338, R339): its body, and whether a signature follows it, made with which leaf. -/
structure Token where
  body   : List Byte
  signed : Bool
  leaf   : Nat
  epoch  : Nat
  deriving DecidableEq, Repr

/-- A line of an L2 slice: the partition and the system line, its bytes, its EVICT value, and the tensor tile through which a
descriptor filled it (R27, R152, R154, R277). -/
structure L2Line where
  part  : Nat
  line  : Nat
  data  : Row
  evict : Nat := 0
  tile  : Option (Nat × Nat) := none
  deriving DecidableEq, Repr

/-- A compute region (R20, R326 to R337). -/
structure Region where
  state    : RState := .dirty
  /-- The state to which RESET returns, and whether a SCRUB was recorded meanwhile (R327). -/
  ret      : RState := .dirty
  recorded : Bool := false
  resetAt  : Nat := 0
  part     : Nat := 0xFF
  phase    : Nat := 0
  done     : Nat := 0
  restarts : Nat := 0
  /-- COUNT of the last scrub started since package reset, and EPOCH :: COUNT of the current or last scrub (R337). -/
  scount   : Nat := 0
  sseq     : Nat := 0
  token    : Option Token := none
  /-- Phase 6 has a unit here (R336). -/
  keyPhase : Bool := false
  doneTick : Nat := 0
  /-- The window group: the lowest region joined with it, itself when alone (R22). -/
  group    : Nat := 64
  /-- While it is in RESET: the regions of its window group when the reset was asserted (R24). -/
  peers    : List Nat := []
  /-- The L2 slice, least recently used first, and its uncorrectable granules (R31, R154, R391). -/
  l2       : List L2Line := []
  l2Err    : List Nat := []
  resid    : List ResEntry := []
  tileTlb  : List TlbEntry := []
  nestTlb  : List TlbEntry := []
  nodes    : List TlbEntry := []
  /-- PWST fields (R281). -/
  base     : Nat := 16
  cur      : Nat := 16
  recv     : Nat := 0
  donor    : Bool := false
  /-- Tenths of core cycles counted until tick `cycAt` (R112). -/
  cyc10    : Nat := 0
  cycAt    : Nat := 0
  deriving DecidableEq, Repr

/-- A read-tile entry (R267). -/
structure ReadTile where
  handle : Nat
  tile   : Nat
  weight : Nat
  deriving DecidableEq, Repr

/-- The states of a task that is not Ended (R270). -/
inductive TState where
  | pending | ready | running | parkedFault | parkedWait | failed
  deriving DecidableEq, Repr

/-- What a parked task waits for: a barrier phase of a group, or a timeline word (R280, R283). -/
inductive Wait where
  | barrier (group : Nat)
  | timeline (sd off scope : Nat) (target : Word) (cap : Cap)
  deriving DecidableEq, Repr

/-- The captured operand values of a saved command that its image has no place for (R304); log entry 12. -/
structure Priv where
  seq  : Nat
  va   : Word
  vb   : Word
  vc   : Word
  vf   : Word
  list : List Word := []
  listCaps : List Cap := []
  capF : Cap := {}
  cap2 : Cap := {}
  desc2 : Desc := {}
  level : Level := .u
  srcTags : Map Tag := []
  rows : List Row := []
  /-- Whether it was pushed inside the active LOOPP (R131). -/
  inPipe : Bool := false
  paid : Bool := false
  deriving DecidableEq, Repr

/-- A task that is not Ended: its record (R267), its place in the cascade queues (R271, R272), and its saved context. -/
structure Task where
  id       : Nat
  part     : Nat
  code     : Nat
  frame    : Word
  join     : Nat
  prio     : Nat
  banks    : Nat
  fmttrap  : Bool
  sup      : Bool
  spkib    : Nat
  group    : Nat
  pin      : Nat
  reads    : List ReadTile := []
  state    : TState := .ready
  parent   : Nat := 0
  launch   : Nat := 0
  age      : Nat := 0
  /-- Its place in the queue of its level (R272). -/
  order    : Nat := 0
  /-- The order in which tasks became Ready (R275). -/
  readyAt  : Nat := 0
  edges    : List Nat := []
  trig     : Bool := false
  groups   : List Nat := []
  fresh    : Bool := true
  /-- The join of GROUP at first dispatch passed a limit of R279. -/
  joinFail : Bool := false
  frameAt  : Option Nat := none
  /-- Core and scratchpad range of the window it keeps. -/
  window   : Option (Nat × Nat × Nat) := none
  /-- The contents of its window were lost (R331), or arrived with an import (R319). -/
  winLost  : Bool := false
  winImage : List Host.Cell := []
  /-- Its context was lost with its region (R332). -/
  lost     : Bool := false
  /-- The core that retains its tile banks (R201). -/
  retained : Option Nat := none
  core     : Nat := 0
  priv     : List Priv := []
  p0       : List P0Acc := []
  deferred : List Deferred := []
  /-- Entered from HNDL or HVHNDL, with the fault that its slot's FLT registers will hold (R299). -/
  handler  : Bool := false
  flt      : FltRegs := {}
  fault    : Option FaultRec := none
  wait     : Option Wait := none
  /-- Its TLWAIT was satisfied while parked: its sd and the value (R290). -/
  passed   : Option (Nat × Word) := none
  mailbox  : Option (Nat × Nat) := none
  effect   : Nat := 0
  unmaps   : List (Nat × Nat) := []
  /-- HSEL, RSEL and the issue counters of the slot it left; log entry 12. -/
  hsel     : Nat := 0x40
  rsel     : Nat := 0
  seq      : Nat := 1
  /-- The descriptor copies of ma and mb images, which the frame has no place for (R228, R301); log entry 12. -/
  ma       : Map MaImage := []
  mb       : Map MaImage := []
  breaks   : List Nat := []
  rebind   : Bool := false
  trigAt   : Option Nat := none
  /-- The pushes counted in the segment of its LOOPP (R132). -/
  pushes   : List Nat := [0, 0, 0, 0, 0]
  /-- Its frame holds a command that writes through a lease-bound capability (R378). -/
  bound    : Bool := false
  /-- The tick at which its dispatch, or the retest of its TLWAIT, began to wait for a route (R364). -/
  heldAt   : Option Nat := none
  deriving DecidableEq, Repr

/-- A group (R278): members, arrivals in the current phase, and the phase. -/
structure Group where
  members : List Nat := []
  arrived : List Nat := []
  phase   : Nat := 0
  deriving DecidableEq, Repr

/-- The Rill of a partition with its published schedule (R256, R257). -/
structure Rill where
  pub   : Bool := false
  cap   : Cap := {}
  off   : Nat := 0
  count : Nat := 0
  cur   : Nat := 0
  k     : Nat := 0
  level : Level := .u
  /-- Tiles counted as skipped since the last RLPUB: (entry, tile). -/
  lost  : List (Nat × Nat) := []
  deriving DecidableEq, Repr

/-- The step lease of a partition (R370). -/
inductive LeaseSt where
  | none | live | lost
  deriving DecidableEq, Repr

/-- Name, token and local expiry of a step lease (R370). -/
structure Lease where
  st    : LeaseSt := .none
  name  : Word := 0
  token : Word := 0
  till  : Nat := 0
  deriving DecidableEq, Repr

/-- An LSACQ that waits at the pool (R378). -/
structure Acquire where
  core : Nat
  slot : Nat
  name : Word
  len  : Nat
  /-- The tick at which it was sent, and that of its first send (R371, R378). -/
  sent : Nat
  first : Nat := 0
  /-- The conduit on which it is outstanding; none while it is held (R364). -/
  conduit : Option Nat := none
  /-- The order in which acquires arrived at the pool (R372). -/
  ord  : Nat := 0
  /-- The answer, once it is there: the value of sd. -/
  done : Option Nat := none
  deriving DecidableEq, Repr

/-- A Reservoir line of a partition with its copy of the pool's bytes, the package's expiry and the pool lease end of its read
lease, its EVICT value, the tensor tile through which a descriptor filled it, and the schedule tile under which the Rill holds it
with its class (R27, R154, R170, R256, R368, R369). -/
structure ResLine where
  line  : Nat
  data  : Row
  till  : Nat
  ends  : Nat := 0
  evict : Nat := 0
  tile  : Option (Nat × Nat) := none
  rill  : Option (Nat × Nat × Retain) := none
  deriving DecidableEq, Repr

/-- A key slot (R342): the key, and its message counter. -/
structure Key where
  key : Nat
  cnt : Nat := 0
  deriving DecidableEq, Repr

/-- A partition's registers, tables and tasks (R31, R138, R259, R271, R278, R294, R334, R360). Number 64 is the
fontanier (R293). -/
structure Part where
  captb   : Word := 0
  captn   : Word := 0
  cqbase  : Word := 0
  cqsize  : Word := 0
  decn    : Nat := 0
  hndl    : Word := 0
  frmbase : Word := 0
  frmcnt  : Word := 0
  sliceb  : Word := 0
  s2tb    : Word := 0
  xwgt    : Word := 0x01010101
  pcfg    : Word := 0
  lscfg   : Word := 1000
  keys    : Map (Option Key) := []
  lease   : Lease := {}
  acq     : Option Acquire := none
  cstOpen : Bool := false
  nextId  : Nat := 1
  tasks   : List Task := []
  groups  : Map Group := []
  rill    : Rill := {}
  lines   : List ResLine := []
  /-- Pinned LOCAL pages, by system page number (R310). -/
  pinned  : List Nat := []
  /-- Retention classes of hinted tiles: (handle, tile) (R170). -/
  hints   : List (Nat × Nat × Retain) := []
  deriving DecidableEq, Repr

/-- Conduit states (R358, R361). -/
inductive CState where
  | down | training | up | draining | drained | retuning
  deriving DecidableEq, Repr

/-- A conduit (R357, R358). -/
structure Conduit where
  state  : CState := .down
  retune : Bool := false
  tries  : Nat := 0
  deriving DecidableEq, Repr

/-- The installed topology map (R362). -/
structure Topo where
  seq   : Nat
  nsm1  : Nat
  masks : Map Nat
  deriving DecidableEq, Repr

/-- A message filter entry: three words of R344, and the mailbox slots in use. -/
structure MsgEntry where
  w0   : Word := 0
  w1   : Word := 0
  w2   : Word := 0
  used : List Nat := []
  deriving DecidableEq, Repr

/-- An error-log entry (R388). -/
structure LogEntry where
  tick    : Nat
  cls     : Nat
  region  : Nat
  block   : Nat
  part    : Nat
  dropped : Nat
  addr    : Nat
  detail  : Nat
  deriving DecidableEq, Repr

/-- A unit of work of a shared resource (R258): its partition, its cost, and for a unit of a command or a request the slot and
issue number with its place among the units of the command. -/
structure WorkUnit where
  part : Nat
  cost : Nat
  core : Nat := 0
  slot : Nat := 0
  seq  : Nat := 0
  ix   : Nat := 0
  deriving DecidableEq, Repr

/-- A binding of a commons engine, with the units queued for the engine (R260); the first is in service. -/
structure Binding where
  kind  : EngKind
  index : Nat
  part  : Nat
  till  : Nat
  queue : List WorkUnit := []
  deriving DecidableEq, Repr

/-- An arbiter's deficits, its pending units in the order of arrival, and the units it has granted that are not yet served, in the
order granted (R258). -/
structure Arbiter where
  deficit : Map Nat := []
  pending : List WorkUnit := []
  granted : List WorkUnit := []
  deriving DecidableEq, Repr

/-- A handler record that waits to be entered (R299): the partition, 64 for the fontanier; the fault. -/
structure PendHandler where
  part  : Nat
  hv    : Bool
  fault : FaultRec
  fpart : Nat
  ftask : Nat
  deriving DecidableEq, Repr

/-- A completion that the host receives (R381). -/
structure HostDone where
  fn     : HostFn
  code   : Nat
  status : Nat
  tag    : Nat := 0
  value  : Nat := 0
  index  : Nat := 0
  data   : List Byte := []
  deriving DecidableEq, Repr

/-- The commands of the host, with what their entries hold (R381). -/
inductive HostWork where
  | launch (nrec part addr tag : Nat)
  | tokchk (region seq : Nat)
  | tokget (region addr : Nat)
  | repair (image : List Nat)
  | accept (mask : Nat)
  | keyset (part slot key : Nat)
  | pubkey
  | readlog
  | unlisted (code : Nat)
  deriving DecidableEq, Repr

/-- A host command that waits: a LAUNCH for a Cistern write window to close, a command for a route, or one behind another of its
function (R381, R382, R364). -/
structure HostCmd where
  fn     : HostFn
  work   : HostWork
  /-- The tick at which it began to wait for a route (R364). -/
  heldAt : Option Nat := none
  deriving DecidableEq, Repr

/-- The holder of a lease name at the pool, by package id and incarnation (R372): this package, whose id is PKGID, in its
incarnation after `boots` package resets, or another package. -/
inductive Holder where
  | own (boots : Nat)
  | other (pkg inc : Nat)
  deriving DecidableEq, Repr

/-- A row of the pool's lease table (R372): the holder, the current token and E_p. -/
structure PoolLease where
  name   : Word
  holder : Option Holder := none
  token  : Word := 0
  till   : Nat := 0
  deriving DecidableEq, Repr

/-- What moves next. `issue` runs the control core's next instruction of a slot, `event` an operation or event of the
table, and the others stand for what other packages, the pool and physics do to memory; log entry 4. -/
inductive Act where
  | issue (core slot : Nat)
  | event (i : Instr)
  /-- A write by another package reaches the pool: bytes from a system address upwards. -/
  | poolWrite (addr : Nat) (bytes : List Byte)
  /-- A granule becomes uncorrectable: of the pool (store 0), the Cistern (1), a core's scratchpad (2), its tile file (3),
  the copy of a POOL or LOCAL line in the Reservoir (4), or in a region's L2 slice (5). -/
  | poison (store core granule : Nat)
  /-- A read of a granule of such a store on the package meets a single-bit error, which is corrected (R391). -/
  | corrected (store core granule : Nat)
  /-- A region's scrub engine completes a unit of its phase (R336). -/
  | scrubUnit (region : Nat)
  /-- Another package, of an id and incarnation, is granted a lease name at the pool, or gives it up. -/
  | otherLease (pkg inc : Nat) (name : Word) (hold : Bool) (len : Nat)
  deriving DecidableEq, Repr

/-- A turn: ticks of the reference clock that pass first, and what then happens. -/
structure Turn where
  wait : Nat := 0
  act  : Act
  deriving DecidableEq, Repr

/-- Region, Cistern and key state of the root of the scrub engines and the Grotto (R19, R327, R339, R343). -/
structure Grotto where
  /-- Regions waiting for the signer, in order (R338). -/
  signQ    : List Nat := []
  /-- CLEANFR.CLEAN when signing of the first of them began (R338). -/
  signClean : Nat := 0
  /-- Bottom-tree leaves used since package reset (R339). -/
  sigUsed  : Nat := 0
  scrubQ   : List Nat := []
  scrubbing : List Nat := []
  clean    : List Nat := []
  filter   : Map MsgEntry := []
  bindings : List Binding := []
  bulk     : Arbiter := {}
  compress : Arbiter := {}
  collect  : Arbiter := {}
  conduitA : Arbiter := {}
  lemconA  : Arbiter := {}
  rillA    : Arbiter := {}
  hvhndl   : Word := 0
  pend     : List PendHandler := []
  deriving DecidableEq, Repr

/-- Conduits, topology and the package's standing with the pool (R357 to R374). -/
structure Links where
  conduits : Map Conduit := []
  firstRsm : Bool := false
  topo     : Option Topo := none
  /-- Slices to which Join was sent, and by which it was accepted (R374). -/
  joinSent : List Nat := []
  joined   : List Nat := []
  fenced   : Bool := false
  /-- The last sequence number used with each token field (R366). -/
  reqSeq   : Map Nat := []
  leases   : List PoolLease := []
  /-- Writes of other packages that reached the pool slice and wait for this package's read leases (R369). -/
  waits    : List (Nat × List Byte) := []
  /-- Read leases that the pool still counts, of lines that have left the Reservoir or of earlier incarnations: the line, and its pool
  lease end (R369). -/
  past     : List (Nat × Nat) := []
  /-- Recalls that this package acknowledged: base and log2 of the size (R368). -/
  acks     : List (Nat × Nat) := []
  /-- Answers to inbound peer requests (R155). -/
  replies  : List (Nat × Nat) := []
  deriving DecidableEq, Repr

/-- The host link, bring-up, the error log and the sideband (R381 to R389). -/
structure HostLink where
  accepted : Nat := 0
  lock     : Bool := false
  repaired : Bool := false
  /-- The applied repair image (R384). -/
  image    : List Nat := []
  done     : List HostDone := []
  /-- Commands that wait, in the order in which they reached the fontanier (R381). -/
  queue    : List HostCmd := []
  nLaunch  : Nat := 0
  log      : List LogEntry := []
  dropped  : Nat := 0
  /-- What the sideband answered: the command, and the values of a block read or none for a NACK (R389). -/
  side     : List (Nat × Option (List Nat)) := []
  deriving DecidableEq, Repr

/-- The state of the package. -/
structure State where
  /-- TICK (R112). -/
  tick    : Nat := 0
  /-- Package resets since the model's first (R337). -/
  boots   : Nat := 0
  /-- The slot whose instruction executes: core 0 to 63 of a compute region, or 64 the fontanier. -/
  curCore : Nat := 64
  curSlot : Nat := 0
  agenda  : List Turn := []
  /-- How many free values the model has taken (log entry 3); the model's own field. -/
  free    : Nat := 0
  /-- The order in which tasks become Ready and units are set; the model's own counter. -/
  clock   : Nat := 0
  /-- System memory by system address: pool, Reservoir and peers' pages. -/
  mem     : List Host.Cell := []
  memErr  : List Nat := []
  /-- Uncorrectable granules of copies of POOL and LOCAL lines in the Reservoir (R391). -/
  resErr  : List Nat := []
  /-- The Cistern, by (128 · region + page) · 2 MiB + offset (R309). -/
  cist    : List Host.Cell := []
  cistErr : List Nat := []
  cores   : Map Core := []
  regions : Map Region := []
  parts   : Map Part := []
  grotto  : Grotto := {}
  links   : Links := {}
  host    : HostLink := {}
  /-- Rails are off (R390). -/
  off     : Bool := false
  deriving DecidableEq, Repr

/-- EPOCH of R337 after `boots` further package resets. -/
def epochOf (boots : Nat) : Nat := (Config.epoch.toNat + boots) % 2 ^ 32

/-- SIGST.EXH: this boot has no bottom tree (R335, R339). -/
def State.exh (s : State) : Bool := decide (2 ^ 20 ≤ epochOf s.boots)

/-- SIGST.LEFT: signatures left in this boot's bottom tree (R335, R339). -/
def State.sigLeft (s : State) : Nat := if s.exh then 0 else 0x100000 - s.grotto.sigUsed

/-- The state right after package reset: every region DIRTY, every conduit DOWN, no task, no key, no lease, the feature
set not yet accepted, the log empty (R326, R337, R339, R358, R374, R383, R388). -/
def State.reset : State := {}

end Sys2Proof.Machine
end

