-- ==== Sys2Proof/Machine/Mem.lean ====
section
/-! DEFINITION. Bytes and bits: byte stores in canonical form, little-endian values (R7), rows as cells, and the bit
fields of words. -/

namespace Sys2Proof.Machine

/-- Bits [hi:lo] of a word as a number. -/
def bits (w : Word) (hi lo : Nat) : Nat := w.toNat / 2 ^ lo % 2 ^ (hi + 1 - lo)

/-- Bits [hi:lo] of a number. -/
def nbits (w hi lo : Nat) : Nat := w / 2 ^ lo % 2 ^ (hi + 1 - lo)

/-- The word of a number, modulo 2^64. -/
def toW (n : Nat) : Word := BitVec.ofNat 64 n

/-- A word with field [hi:lo] replaced. -/
def setBits (w : Word) (hi lo v : Nat) : Word :=
  toW (w.toNat - nbits w.toNat hi lo * 2 ^ lo + v % 2 ^ (hi + 1 - lo) * 2 ^ lo)

/-- A value put into a sorted list before the first that is not below it. -/
def insertBy {α : Type} (le : α → α → Bool) (x : α) : List α → List α
  | [] => [x]
  | y :: ys => if le x y then x :: y :: ys else y :: insertBy le x ys

/-- A list sorted, equals kept in their order. -/
def sortBy {α : Type} (le : α → α → Bool) : List α → List α
  | [] => []
  | x :: xs => insertBy le x (sortBy le xs)

/-- A store of bytes in which an unlisted address reads zero. -/
abbrev Bytes := List Host.Cell

/-- What an unlisted byte of any store reads as. Log entry 1: DESIGN CHOICE, the spec gives no power-on contents. -/
def blank : Byte := 0

/-- The canonical form of a byte store: addresses strictly rising, no entry equal to what an unlisted address reads. -/
abbrev Bytes.wf (m : Bytes) : Bool := mwf blank m

/-- One byte. -/
def rd8 (m : Bytes) (a : Nat) : Byte := mget blank m a

/-- The store with one byte written. -/
def wr8 (m : Bytes) (a : Nat) (v : Byte) : Bytes := mput blank m a v

/-- `n` bytes from `a` upwards. -/
def rdBytes (m : Bytes) (a : Nat) : Nat → List Byte
  | 0 => []
  | n + 1 => rd8 m a :: rdBytes m (a + 1) n

/-- The store with bytes written from `a` upwards. -/
def wrBytes (m : Bytes) (a : Nat) : List Byte → Bytes
  | [] => m
  | b :: bs => wrBytes (wr8 m a b) (a + 1) bs

/-- A little-endian number (R7). -/
def leNat : List Byte → Nat
  | [] => 0
  | b :: bs => b.toNat + 256 * leNat bs

/-- `n` little-endian bytes of a number (R7). -/
def leBytes : Nat → Nat → List Byte
  | 0, _ => []
  | n + 1, v => BitVec.ofNat 8 v :: leBytes n (v / 256)

/-- A value of `n` bytes at `a`. -/
def rdN (m : Bytes) (a n : Nat) : Nat := leNat (rdBytes m a n)

/-- The store with a value of `n` bytes written at `a`. -/
def wrN (m : Bytes) (a n v : Nat) : Bytes := wrBytes m a (leBytes n v)

/-- Some byte of [a, a+n) lies in an uncorrectable 8-byte granule (R391). -/
def poisoned (err : List Nat) (a n : Nat) : Bool := err.any (fun g => decide (8 * g < a + n) && decide (a < 8 * g + 8))

/-- The uncorrectable granules that stay so after a single write of [a, a+n): those not covered whole (R391). -/
def healed (err : List Nat) (a n : Nat) : List Nat :=
  err.filter (fun g => !(decide (a ≤ 8 * g) && decide (8 * g + 8 ≤ a + n)))

/-- A row as 32 cells, cell 0 in bits [31:0] (R57). -/
def rowCells (r : Row) : List (BitVec 32) := (List.range 32).map (fun j => r.extractLsb' (32 * j) 32)

/-- A number from 32-bit cells, the first lowest. -/
def cellsNat : List (BitVec 32) → Nat
  | [] => 0
  | c :: cs => c.toNat + 2 ^ 32 * cellsNat cs

/-- The row of 32 cells. -/
def cellsRow (cs : List (BitVec 32)) : Row := BitVec.ofNat 1024 (cellsNat cs)

/-- The 128 bytes of a row, byte 0 in bits [7:0]. -/
def rowBytes (r : Row) : List Byte := leBytes 128 r.toNat

/-- The row of 128 bytes. -/
def bytesRow (bs : List Byte) : Row := BitVec.ofNat 1024 (leNat bs)

/-- Element `i` of width `w` bits. -/
def elemOf (r : Row) (w i : Nat) : Nat := r.toNat / 2 ^ (w * i) % 2 ^ w

/-- A number from elements of `w` bits, element 0 lowest. -/
def packElems (w : Nat) : List Nat → Nat
  | [] => 0
  | e :: es => e % 2 ^ w + 2 ^ w * packElems w es

/-- The row of elements of width `w`, element 0 lowest. -/
def elemsRow (w : Nat) (es : List Nat) : Row := BitVec.ofNat 1024 (packElems w es)

/-- The elements of a row at width `w`. -/
def rowElems (r : Row) (w : Nat) : List Nat := (List.range (1024 / w)).map (elemOf r w)

/-- Row `old` with the bytes that `p` selects taken from `new`: bit i of `p` governs byte i (R205). -/
def mergeBytes (p : Pred) (new old : Row) : Row :=
  bytesRow ((List.range 128).map (fun i =>
    if p.getLsbD i then new.extractLsb' (8 * i) 8 else old.extractLsb' (8 * i) 8))

/-- Row `old` with its active elements taken from `new`: element j of width `w` is active when the bit of its lowest byte
is 1 (R205). -/
def mergeElems (p : Pred) (w : Nat) (new old : Row) : Row :=
  elemsRow w ((List.range (1024 / w)).map (fun j =>
    if p.getLsbD (w * j / 8) then elemOf new w j else elemOf old w j))

/-- fold(line) of R152, for a line number (the system address >> 7). -/
def foldLine (line : Nat) : Nat := (line ^^^ (line / 2 ^ 16) ^^^ (line / 2 ^ 32)) % 2 ^ 16

end Sys2Proof.Machine
end

