-- ==== Sys2Proof/Machine/Signature.lean ====
section
/-! DEFINITION. The signature of a completion token (R339): SHA-256, and the HSS signature of RFC 8554 with two levels of
LMS_SHA256_M32_H20 over LMOTS_SHA256_N32_W8. The algorithms are those of the two standards that the rule names (log entry
87). -/

namespace Sys2Proof.Machine

/-! ### SHA-256 -/

/-- A word of SHA-256. -/
abbrev Half := BitVec 32

/-- `n` big-endian bytes of a number. -/
def beBytes (n v : Nat) : List Byte := (leBytes n v).reverse

/-- A big-endian number. -/
def beNat (l : List Byte) : Nat := leNat l.reverse

/-- Round constants 0 to 15 of SHA-256. -/
def shaK0 : List Half :=
  [0x428a2f98, 0x71374491, 0xb5c0fbcf, 0xe9b5dba5, 0x3956c25b, 0x59f111f1, 0x923f82a4, 0xab1c5ed5,
   0xd807aa98, 0x12835b01, 0x243185be, 0x550c7dc3, 0x72be5d74, 0x80deb1fe, 0x9bdc06a7, 0xc19bf174]

/-- Round constants 16 to 31 of SHA-256. -/
def shaK1 : List Half :=
  [0xe49b69c1, 0xefbe4786, 0x0fc19dc6, 0x240ca1cc, 0x2de92c6f, 0x4a7484aa, 0x5cb0a9dc, 0x76f988da,
   0x983e5152, 0xa831c66d, 0xb00327c8, 0xbf597fc7, 0xc6e00bf3, 0xd5a79147, 0x06ca6351, 0x14292967]

/-- Round constants 32 to 47 of SHA-256. -/
def shaK2 : List Half :=
  [0x27b70a85, 0x2e1b2138, 0x4d2c6dfc, 0x53380d13, 0x650a7354, 0x766a0abb, 0x81c2c92e, 0x92722c85,
   0xa2bfe8a1, 0xa81a664b, 0xc24b8b70, 0xc76c51a3, 0xd192e819, 0xd6990624, 0xf40e3585, 0x106aa070]

/-- Round constants 48 to 63 of SHA-256. -/
def shaK3 : List Half :=
  [0x19a4c116, 0x1e376c08, 0x2748774c, 0x34b0bcb5, 0x391c0cb3, 0x4ed8aa4a, 0x5b9cca4f, 0x682e6ff3,
   0x748f82ee, 0x78a5636f, 0x84c87814, 0x8cc70208, 0x90befffa, 0xa4506ceb, 0xbef9a3f7, 0xc67178f2]

/-- The round constants of SHA-256. -/
def shaK : List Half := shaK0 ++ shaK1 ++ shaK2 ++ shaK3

/-- The initial hash value of SHA-256. -/
def shaInit : List Half :=
  [0x6a09e667, 0xbb67ae85, 0x3c6ef372, 0xa54ff53a, 0x510e527f, 0x9b05688c, 0x1f83d9ab, 0x5be0cd19]

/-- The message schedule, its latest word first: `n` more words. -/
def shaWords : Nat → List Half → List Half
  | 0, w => w
  | n + 1, w =>
    let a := w.getD 1 0
    let b := w.getD 14 0
    let s1 := a.rotateRight 17 ^^^ a.rotateRight 19 ^^^ (a >>> 10)
    let s0 := b.rotateRight 7 ^^^ b.rotateRight 18 ^^^ (b >>> 3)
    shaWords n ((s1 + w.getD 6 0 + s0 + w.getD 15 0) :: w)

/-- One round, with its constant and its word. -/
def shaRound (v : List Half) (kw : Half × Half) : List Half :=
  match v with
  | [a, b, c, d, e, f, g, h] =>
    let t1 := h + (e.rotateRight 6 ^^^ e.rotateRight 11 ^^^ e.rotateRight 25) + ((e &&& f) ^^^ (~~~e &&& g)) + kw.1 + kw.2
    let t2 := (a.rotateRight 2 ^^^ a.rotateRight 13 ^^^ a.rotateRight 22) + ((a &&& b) ^^^ (a &&& c) ^^^ (b &&& c))
    [t1 + t2, a, b, c, d + t1, e, f, g]
  | v => v

/-- The hash value after a block of 64 bytes. -/
def shaBlock (v : List Half) (b : List Byte) : List Half :=
  let w := (List.range 16).map (fun i => (BitVec.ofNat 32 (beNat ((b.drop (4 * i)).take 4)) : Half))
  List.zipWith (fun x y => x + y) v ((shaK.zip (shaWords 48 w.reverse).reverse).foldl shaRound v)

/-- `n` blocks of a padded message. -/
def shaBlocks : Nat → List Half → List Byte → List Half
  | 0, v, _ => v
  | n + 1, v, b => shaBlocks n (shaBlock v (b.take 64)) (b.drop 64)

/-- SHA-256 of a message. -/
def sha256 (m : List Byte) : List Byte :=
  let n := (m.length + 72) / 64
  let b := m ++ [(0x80 : Byte)] ++ List.replicate (64 * n - m.length - 9) 0 ++ beBytes 8 (8 * m.length)
  (shaBlocks n shaInit b).flatMap (fun w => beBytes 4 w.toNat)

/-! ### LM-OTS and LMS (RFC 8554). Tree 0 is the top tree of the device, and tree e + 1 the bottom tree of the boot with EPOCH e. -/

/-- The identifier of a tree. -/
def treeId (tree : Nat) : List Byte := leBytes 16 (Config.hssId tree).toNat

/-- `n` steps of chain `i` of leaf `q`, from step `j` on. -/
def otsChain (tree q i : Nat) : Nat → Nat → List Byte → List Byte
  | 0, _, x => x
  | n + 1, j, x => otsChain tree q i n (j + 1) (sha256 (treeId tree ++ beBytes 4 q ++ beBytes 2 i ++ beBytes 1 j ++ x))

/-- The secret start of chain `i` of leaf `q`. -/
def otsStart (tree q i : Nat) : List Byte := leBytes 32 (Config.hssSecret tree q i).toNat

/-- The one-time public key of leaf `q`. -/
def otsKey (tree q : Nat) : List Byte :=
  sha256 (treeId tree ++ beBytes 4 q ++ beBytes 2 0x8080 ++ (List.range 34).flatMap (fun i => otsChain tree q i 255 0 (otsStart tree q i)))

/-- The 34 coefficients of a digest: its bytes and its checksum. -/
def otsCoef (d : List Byte) : List Nat :=
  d.map (fun b => b.toNat) ++ (beBytes 2 ((d.map (fun b => 255 - b.toNat)).sum)).map (fun b => b.toNat)

/-- The one-time signature of a message with leaf `q`. -/
def otsSign (tree q : Nat) (m : List Byte) : List Byte :=
  let c := leBytes 32 (Config.hssRandom tree q).toNat
  let d := sha256 (treeId tree ++ beBytes 4 q ++ beBytes 2 0x8181 ++ c ++ m)
  beBytes 4 4 ++ c ++ (otsCoef d).zipIdx.flatMap (fun x => otsChain tree q x.2 x.1 0 (otsStart tree q x.2))

/-- Node `r` of a tree, `h` levels above its leaves. -/
def lmsNode (tree : Nat) : Nat → Nat → List Byte
  | 0, r => sha256 (treeId tree ++ beBytes 4 r ++ beBytes 2 0x8282 ++ otsKey tree (r - 2 ^ 20))
  | h + 1, r => sha256 (treeId tree ++ beBytes 4 r ++ beBytes 2 0x8383 ++ lmsNode tree h (2 * r) ++ lmsNode tree h (2 * r + 1))

/-- The 56-byte LMS public key of a tree. -/
def lmsPublic (tree : Nat) : List Byte := beBytes 4 8 ++ beBytes 4 4 ++ treeId tree ++ lmsNode tree 20 1

/-- The 1,772-byte LMS signature of a message with leaf `q` of a tree. -/
def lmsSign (tree q : Nat) (m : List Byte) : List Byte :=
  beBytes 4 q ++ otsSign tree q m ++ beBytes 4 8 ++ (List.range 20).flatMap (fun i => lmsNode tree i ((2 ^ 20 + q) / 2 ^ i ^^^ 1))

/-! ### The device's keys and tokens (R338, R339) -/

/-- The 60-byte HSS public key of the device (R381, R389). -/
def hssPublic : List Byte := beBytes 4 2 ++ lmsPublic 0

/-- KEYID: SHA-256 of the public key (R338). -/
def keyId : List Byte := sha256 hssPublic

/-- The 3,604-byte HSS signature of a token body in the boot with this EPOCH: Nspk, the public key of the boot's bottom tree
signed with the top-tree leaf of the EPOCH, and the body signed with a bottom-tree leaf (R339). -/
def hssSign (epoch leaf : Nat) (m : List Byte) : List Byte :=
  beBytes 4 1 ++ lmsSign 0 epoch (lmsPublic (epoch + 1)) ++ lmsPublic (epoch + 1) ++ lmsSign (epoch + 1) leaf m

end Sys2Proof.Machine
end

