-- ==== Sys2Proof/Machine/Base.lean ====
section
/-! DEFINITION. Named reads and updates of the parts of the state: cores, slots, regions, partitions, tasks, registers,
and the clocks derived from TICK. -/

namespace Sys2Proof.Machine

/-- The fontanier's core and partition number (R19, R293). -/
def fontanier : Nat := 64

/-- Core `c`. -/
def State.core (s : State) (c : Nat) : Core := mget {} s.cores c
/-- The state with core `c` replaced. -/
def State.setCore (s : State) (c : Nat) (v : Core) : State := { s with cores := mput {} s.cores c v }
/-- Slot `k` of core `c`, if a task occupies it. -/
def State.slot? (s : State) (c k : Nat) : Option Slot := mfind (s.core c).slots k
/-- The state with slot `k` of core `c` replaced. -/
def State.setSlot (s : State) (c k : Nat) (v : Slot) : State :=
  s.setCore c { s.core c with slots := mset (s.core c).slots k v }
/-- The state with slot `k` of core `c` free. -/
def State.clrSlot (s : State) (c k : Nat) : State :=
  s.setCore c { s.core c with slots := merase (s.core c).slots k }
/-- Region `r`. -/
def State.region (s : State) (r : Nat) : Region := mget {} s.regions r
/-- The state with region `r` replaced. -/
def State.setRegion (s : State) (r : Nat) (v : Region) : State := { s with regions := mput {} s.regions r v }
/-- Partition `p`; 64 is the fontanier. -/
def State.part (s : State) (p : Nat) : Part := mget {} s.parts p
/-- The state with partition `p` replaced. -/
def State.setPart (s : State) (p : Nat) (v : Part) : State := { s with parts := mput {} s.parts p v }
/-- The task of partition `p` with id `id`, unless it is Ended. -/
def State.task? (s : State) (p id : Nat) : Option Task := (s.part p).tasks.find? (fun t => t.id == id)
/-- The state with the task of the same id of partition `p` replaced. -/
def State.putTask (s : State) (p : Nat) (t : Task) : State :=
  s.setPart p { s.part p with tasks := (s.part p).tasks.map (fun u => if u.id = t.id then t else u) }
/-- The state with the task of the same partition and id replaced. -/
def State.setTask (s : State) (t : Task) : State := s.putTask t.part t
/-- The state in which task `id` of partition `p` is Ended. -/
def State.dropTask (s : State) (p id : Nat) : State :=
  s.setPart p { s.part p with tasks := (s.part p).tasks.filter (fun u => u.id != id) }
/-- The state with the slot's context changed. -/
def State.modSlot (s : State) (c k : Nat) (f : Slot → Slot) : State :=
  match s.slot? c k with
  | some sl => s.setSlot c k (f sl)
  | none => s
/-- The state with the task changed, if it is not Ended. -/
def State.modTask (s : State) (p id : Nat) (f : Task → Task) : State :=
  match s.task? p id with
  | some t => s.putTask p (f t)
  | none => s

/-- The state with the Grotto changed. -/
def State.modGrotto (s : State) (f : Grotto → Grotto) : State := { s with grotto := f s.grotto }
/-- The state with the links changed. -/
def State.modLinks (s : State) (f : Links → Links) : State := { s with links := f s.links }
/-- The state with the host link changed. -/
def State.modHost (s : State) (f : HostLink → HostLink) : State := { s with host := f s.host }

/-- A free value, and the state that has taken it (log entry 3). -/
def State.takeFree (s : State) : Word × State := (Config.free s.free, { s with free := s.free + 1 })

/-- The next value of the model's own order counter. -/
def State.bump (s : State) : State := { s with clock := s.clock + 1 }

/-- A scalar register; s0 reads zero (R46, R108). -/
def Ctx.reg (x : Ctx) (n : Nat) : Word := if n = 0 then 0 else mget 0 x.regs n
/-- A scalar register written; a write to s0 is discarded (R46). -/
def Ctx.setReg (x : Ctx) (n : Nat) (v : Word) : Ctx := if n = 0 then x else { x with regs := mput 0 x.regs n v }
/-- Condition register kn; k0 reads 1 (R108). -/
def Ctx.k (x : Ctx) (n : Nat) : Bool := n == 0 || x.kreg.testBit n
/-- A condition register written; k0 never is (R46). -/
def Ctx.setK (x : Ctx) (n : Nat) (v : Bool) : Ctx :=
  if n = 0 then x
  else { x with kreg := if x.kreg.testBit n then (if v then x.kreg else x.kreg - 2 ^ n)
                        else (if v then x.kreg + 2 ^ n else x.kreg) }
/-- Predicate pn; p0 reads all ones (R205). -/
def Ctx.pred (x : Ctx) (n : Nat) : Pred := if n = 0 then BitVec.allOnes 128 else mget 0 x.preds n
/-- A predicate written; p0 never is (R205). -/
def Ctx.setPred (x : Ctx) (n : Nat) (v : Pred) : Ctx := if n = 0 then x else { x with preds := mput 0 x.preds n v }
/-- Capability register cn; c0 is null (R137). -/
def Ctx.cap (x : Ctx) (n : Nat) : Cap := if n = 0 then {} else mget {} x.caps n
/-- A capability register written; c0 never is (R46). -/
def Ctx.setCap (x : Ctx) (n : Nat) (v : Cap) : Ctx := if n = 0 then x else { x with caps := mput {} x.caps n v }
/-- Descriptor register dn. -/
def Ctx.desc (x : Ctx) (n : Nat) : Desc := mget {} x.descs n
/-- A descriptor register written. -/
def Ctx.setDesc (x : Ctx) (n : Nat) (v : Desc) : Ctx := { x with descs := mput {} x.descs n v }
/-- The issue-time tag of a tile (R88). -/
def Ctx.tag (x : Ctx) (t : Nat) : Tag := mget {} x.tags t
/-- A tile's issue-time tag set (R88). -/
def Ctx.setTag (x : Ctx) (t : Nat) (v : Tag) : Ctx := { x with tags := mput {} x.tags t v }
/-- Loop counter lcn. -/
def Ctx.lcv (x : Ctx) (n : Nat) : Word := mget 0 x.lc n
/-- A loop counter written. -/
def Ctx.setLc (x : Ctx) (n : Nat) (v : Word) : Ctx := { x with lc := mput 0 x.lc n v }
/-- Branch-target register bn. -/
def Ctx.btv (x : Ctx) (n : Nat) : Nat := mget 0 x.bt n
/-- A branch-target register written. -/
def Ctx.setBt (x : Ctx) (n : Nat) (v : Nat) : Ctx := { x with bt := mput 0 x.bt n (v % 2 ^ 48) }
/-- The entries of queue-mapped register qn, oldest first (R202). -/
def Ctx.queue (x : Ctx) (n : Nat) : List QEntry := mget [] x.queues n
/-- The queue with its entries replaced. -/
def Ctx.setQueue (x : Ctx) (n : Nat) (l : List QEntry) : Ctx := { x with queues := mput [] x.queues n l }
/-- The balance of queue n (R203). -/
def Ctx.balance (x : Ctx) (n : Nat) : Int := mget 0 x.bal n
/-- KREG as read: bit 0 is k0 (R113). -/
def Ctx.kregWord (x : Ctx) : Word := toW (x.kreg % 256 / 2 * 2 + 1)

/-- The state with the context of a slot changed. -/
def State.modCtx (s : State) (c k : Nat) (f : Ctx → Ctx) : State :=
  s.modSlot c k (fun sl => { sl with ctx := f sl.ctx })

/-- Core cycles of region `r`'s clock since its last reset (R112). -/
def State.cycles (s : State) (r : Nat) : Nat :=
  ((s.region r).cyc10 + (s.tick - (s.region r).cycAt) * (s.region r).cur) / 10

/-- The region's clock set to `cur`, in units of 100 MHz, cycles counted so far kept (R25, R281). -/
def State.setClock (s : State) (r cur : Nat) : State :=
  let g := s.region r
  s.setRegion r { g with cyc10 := g.cyc10 + (s.tick - g.cycAt) * g.cur, cycAt := s.tick, cur := cur }

/-- SLICE.LEFT of a slot on core `c` (R307). -/
def State.sliceLeft (s : State) (c : Nat) (sl : Slot) : Nat := sl.slice - (s.cycles c - sl.sliceAt)

/-- The level at which a slot's task runs (R293). -/
def slotLevel (c : Nat) (sl : Slot) : Level := if c = fontanier then .h else if sl.sup then .s else .u

/-- The partition that level-H instructions and partition registers reach (R293, R295). -/
def selPart (c : Nat) (sl : Slot) : Nat := if c = fontanier then sl.hsel else sl.part

/-- The compute regions that partition `p` holds, OWNED or HELD, or leaving it (R326, R335). -/
def State.regionsOf (s : State) (p : Nat) (ok : Region → Bool) : List Nat :=
  (List.range 64).filter (fun r => (s.region r).part == p && ok (s.region r))

/-- The region is OWNED or HELD, or in RESET returning to one of them. -/
def Region.assigned (g : Region) : Bool :=
  match g.state with
  | .owned => true
  | .held => true
  | .reset => g.ret == .owned || g.ret == .held
  | _ => false

/-- RGNMAP of a partition: its OWNED and HELD regions (R335). -/
def State.rgnMap (s : State) (p : Nat) : List Nat :=
  s.regionsOf p (fun g => g.state == .owned || g.state == .held)

/-- The regions that hold the partition's lines: those assigned to it or still leaving it (R152, R329). -/
def State.placement (s : State) (p : Nat) : List Nat :=
  s.regionsOf p (fun g => g.assigned || g.state == .quiesce)

/-- The regions of the window group of region `r` (R22). -/
def State.windowGroup (s : State) (r : Nat) : List Nat :=
  let g := (s.region r).group
  if g = 64 then [r] else (List.range 64).filter (fun q => (s.region q).group == g)

/-- A mask word of region or conduit numbers. -/
def maskOf (l : List Nat) : Word := toW (l.foldl (fun m r => if m.testBit r then m else m + 2 ^ r) 0)

/-- The numbers below `n` whose bits are set. -/
def bitsOf (n : Nat) (w : Word) : List Nat := (List.range n).filter (fun i => w.getLsbD i)

/-- The feature set accepted holds bit `b` (R385). -/
def State.feature (s : State) (b : Nat) : Bool := s.host.accepted.testBit b

/-- An entry appended to the error log, or counted as dropped when it is full (R388). -/
def State.logError (s : State) (cls region block part addr detail : Nat) : State :=
  if s.host.log.length < 1024 then
    s.modHost (fun h => { h with log := h.log ++ [⟨s.tick, cls, region, block, part, h.dropped, addr, detail⟩] })
  else s.modHost (fun h => { h with dropped := h.dropped + 1 })

/-- The regions of partition `p` that have not left it: assigned to it, or in QUIESCE (R309, R327, R329). -/
def State.keeps (s : State) (p r : Nat) : Bool :=
  decide (r < 64) && (s.region r).part == p && ((s.region r).assigned || (s.region r).state == .quiesce)

/-- One message under a key slot: its counter rises by one (R342). -/
def State.sealMsg (s : State) (p key : Nat) : State :=
  match mget none (s.part p).keys key with
  | some x => s.setPart p { s.part p with keys := mput none (s.part p).keys key (some { x with cnt := min (2 ^ 64 - 1) (x.cnt + 1) }) }
  | none => s

/-! ### Residency tables (R277) -/

/-- Flags of a residency entry, as bits 5 to 0: SP, L2, RSV, HSP, HL2, HRSV. -/
def resFlags (w : Word) : Nat := bits w 62 57
/-- An entry of a tile with flags. -/
def resWord (h t flags : Nat) : Word := toW (2 ^ 63 + flags % 64 * 2 ^ 57 + t % 2 ^ 40 * 2 ^ 16 + h % 2 ^ 16)
/-- The set of a tile. -/
def resSet (h t : Nat) : Nat := (h ^^^ t ^^^ (t / 2 ^ 8) ^^^ (t / 2 ^ 16) ^^^ (t / 2 ^ 24) ^^^ (t / 2 ^ 32)) % 256
/-- The entry is that of tile (h, t). -/
def ResEntry.is (e : ResEntry) (h t : Nat) : Bool := bits e.word 15 0 == h && bits e.word 55 16 == t
/-- The entry of a tile. -/
def Region.entry? (g : Region) (h t : Nat) : Option ResEntry := g.resid.find? (fun e => e.is h t)
/-- The entries with one more in its set: the least recently set or hinted leaves a full set. -/
def residRoom (l : List ResEntry) (set : Nat) : List ResEntry :=
  let mine := l.filter (fun e => resSet (bits e.word 15 0) (bits e.word 55 16) == set)
  if mine.length < 16 then l
  else
    match sortBy (fun (a b : ResEntry) => decide (a.used ≤ b.used)) mine with
    | o :: _ => l.filter (fun e => e != o)
    | [] => l
/-- Flags set in a tile's entry of a compute region's table, which is allocated if there is none; `own` is the task whose window holds the bytes. -/
def State.residSet (s : State) (r h t flags own : Nat) : State :=
  if 63 < r then s else
  let g := s.region r
  let l := match g.entry? h t with
    | some e => g.resid.map (fun x =>
        if x = e then { word := resWord h t (Nat.lor (resFlags e.word) flags), used := s.clock, own := if own = 0 then e.own else own } else x)
    | none => residRoom g.resid (resSet h t) ++ [{ word := resWord h t flags, used := s.clock, own := own }]
  (s.setRegion r { g with resid := l }).bump
/-- Flags cleared where `sel` holds; an entry with no flag left becomes invalid. -/
def clearFlags (flags : Nat) (sel : ResEntry → Bool) (l : List ResEntry) : List ResEntry :=
  (l.map (fun e =>
    if sel e then { e with word := resWord (bits e.word 15 0) (bits e.word 55 16) (resFlags e.word - Nat.land (resFlags e.word) flags) }
    else e)).filter (fun e => resFlags e.word != 0)
/-- Flags cleared in a region's table. -/
def State.residClear (s : State) (r flags : Nat) (sel : ResEntry → Bool) : State :=
  s.setRegion r { s.region r with resid := clearFlags flags sel (s.region r).resid }
/-- L2, as a flag. -/
def resL2 : Nat := 16
/-- SP, as a flag. -/
def resSP : Nat := 32
/-- RSV, as a flag. -/
def resRSV : Nat := 8

/-- The lists of tensor tiles whose lines have left a level. -/
def tilesOf (l : List (Option (Nat × Nat))) : List (Nat × Nat) := (l.filterMap (fun x => x)).eraseDups

/-- A level's flag cleared, for some tiles, in the tables of some regions (R277). -/
def State.residGone (s : State) (flag : Nat) (ts : List (Nat × Nat)) (rs : List Nat) : State :=
  if ts = [] then s
  else rs.foldl (fun s r => s.residClear r flag (fun e => ts.any (fun t => e.is t.1 t.2))) s

/-- Lines leave the L2 slice of region `r`, with their uncorrectable granules; the L2 flags of their tiles clear in the tables
of its window group (R277). -/
def State.dropL2 (s : State) (r : Nat) (sel : L2Line → Bool) : State :=
  let g := s.region r
  let gone := g.l2.filter sel
  if gone = [] then s
  else
    (s.setRegion r { g with l2 := g.l2.filter (fun l => !sel l), l2Err := g.l2Err.filter (fun x => gone.all (fun l => l.line != x / 16)) }).residGone
      resL2 (tilesOf (gone.map (fun l => l.tile))) (s.windowGroup r)

/-- The retention hints that stay when lines leave the Reservoir: those of a tile whose last line left go (R170). -/
def keepHints (hints : List (Nat × Nat × Retain)) (gone kept : List ResLine) : List (Nat × Nat × Retain) :=
  hints.filter (fun h => !gone.any (fun l => l.tile == some (h.1, h.2.1)) || kept.any (fun l => l.tile == some (h.1, h.2.1)))

/-- Lines of the Reservoir leave it, and their read leases stand at the pool until their pool lease ends (R369). -/
def State.keepPast (s : State) (gone : List ResLine) : State :=
  s.modLinks (fun l => { l with
    past := l.past.filter (fun x => decide (s.tick < x.2)) ++
      (gone.filter (fun g => decide (s.tick < g.ends))).map (fun g => (g.line, g.ends)) })

/-- POOL lines leave the Reservoir of partition `p`, with their uncorrectable granules, their copies in its L2 slices (R27),
the RSV flags of their tiles in its tables (R277) and the classes of tiles that have no line left (R170); the pool still counts their
read leases (R369). -/
def State.dropRes (s : State) (p : Nat) (sel : Nat → Bool) : State :=
  let q := s.part p
  let gone := q.lines.filter (fun l => sel l.line)
  if gone = [] then s
  else
    let kept := q.lines.filter (fun l => !sel l.line)
    let s := { s with resErr := s.resErr.filter (fun x => gone.all (fun l => l.line != x / 16)) }.keepPast gone
    let s := s.setPart p { q with lines := kept, hints := keepHints q.hints gone kept }
    let rs := (List.range 64).filter (fun r => (s.region r).part == p)
    (rs.foldl (fun s r => s.dropL2 r (fun l => l.part == p && sel l.line)) s).residGone resRSV
      (tilesOf (gone.map (fun l => l.tile))) rs

/-- Reservoir lines of every partition leave. -/
def State.dropResAll (s : State) (sel : Nat → Bool) : State := (s.parts.map (fun kp => kp.1)).foldl (fun s p => s.dropRes p sel) s

end Sys2Proof.Machine
end

