-- ==== Sys2Proof/Machine/Access.lean ====
section
/-! DEFINITION. Memory accesses: capability fields, routing to the pool and to peers (R363, R364), the L2 slices and the
Reservoir (R27, R152, R154, R368), reads and writes of bytes at their targets (R174, R391), the nested walk with its
translation caches (R308 to R312), and the object checks of R141 in their order. -/

namespace Sys2Proof.Machine

/-! ### Capabilities (R139) -/

/-- V. -/
def Cap.valid (c : Cap) : Bool := c.w0.getLsbD 63
/-- S: only a task at level S or H may bind the entry. -/
def Cap.sbit (c : Cap) : Bool := c.w0.getLsbD 62
/-- Execute right. -/
def Cap.x (c : Cap) : Bool := c.w0.getLsbD 61
/-- Atomic right. -/
def Cap.a (c : Cap) : Bool := c.w0.getLsbD 60
/-- Write right. -/
def Cap.wr (c : Cap) : Bool := c.w0.getLsbD 59
/-- Read right. -/
def Cap.rd (c : Cap) : Bool := c.w0.getLsbD 58
/-- KEY. -/
def Cap.key (c : Cap) : Nat := bits c.w0 57 54
/-- LB. -/
def Cap.lb (c : Cap) : Nat := bits c.w0 53 52
/-- OID. -/
def Cap.oid (c : Cap) : Nat := bits c.w0 47 0
/-- LO. -/
def Cap.lo (c : Cap) : Nat := bits c.w1 47 0
/-- HI. -/
def Cap.hi (c : Cap) : Nat := bits c.w2 47 0
/-- TTP as a byte address. -/
def Cap.ttp (c : Cap) : Nat := bits c.w3 47 6 * 64
/-- No must-be-zero bit is set, and LB is not reserved (R139). -/
def Cap.legal (c : Cap) : Bool :=
  bits c.w0 51 48 == 0 && bits c.w1 63 48 == 0 && bits c.w2 63 48 == 0 && bits c.w3 63 48 == 0 && bits c.w3 5 0 == 0 &&
    decide (c.lb < 2)
/-- The entry is one that a capability register may be bound to: legal, with HI not below LO (R137, R163). -/
def Cap.formed (c : Cap) : Bool := c.legal && decide (c.lo ≤ c.hi)
/-- The capability of 32 little-endian bytes (R139). -/
def Cap.ofBytes (b : List Byte) : Cap :=
  ⟨toW (leNat (b.take 8)), toW (leNat ((b.drop 8).take 8)), toW (leNat ((b.drop 16).take 8)), toW (leNat ((b.drop 24).take 8))⟩

/-! ### Rights, notes and targets -/

/-- Rights that an access needs of a stage-2 leaf (R309). -/
structure Need where
  x : Bool := false
  r : Bool := false
  w : Bool := false
  deriving DecidableEq, Repr

/-- A fetch. -/
def needX : Need := { x := true }
/-- A read. -/
def needR : Need := { r := true }
/-- A write. -/
def needW : Need := { w := true }
/-- An atomic. -/
def needRW : Need := { r := true, w := true }

/-- What a successful walk leaves in the caches of R312 and in the pinned reserve (R310), and the messages of its table reads
under a key slot (R342). -/
inductive Note where
  | tile (e : TlbEntry)
  | nest (e : TlbEntry)
  | node (e : TlbEntry)
  | pin (page : Nat)
  | msg (key : Nat)
  deriving DecidableEq, Repr

/-- Where an access goes: aperture and address, the stage-2 leaf with its own system address, the guest-physical
address, the notes of its walk, and the tick at which the earliest translation lease that the walk used runs out (R312). -/
structure Target where
  aper   : Aper
  addr   : Nat
  leaf   : Nat := 0
  leafAt : Nat := 0
  gpa    : Nat := 0
  notes  : List Note := []
  till   : Nat := 0
  deriving DecidableEq, Repr

/-! ### Stage 2 (R309, R311) -/

/-- RAP of a leaf. -/
def leafRap (l : Nat) : Bool := l.testBit 60
/-- KEY of a leaf. -/
def leafKey (l : Nat) : Nat := nbits l 56 53
/-- PEER of a leaf. -/
def leafPeer (l : Nat) : Nat := nbits l 52 45
/-- LCLS of a leaf. -/
def leafLcls (l : Nat) : Nat := nbits l 44 43
/-- SPN of a leaf. -/
def leafSpn (l : Nat) : Nat := nbits l 39 0
/-- APER of a leaf. -/
def leafAper (l : Nat) : Aper :=
  match nbits l 62 61 with
  | 0 => .pool
  | 1 => .localPage
  | 2 => .peer
  | _ => .cistern

/-- Region `r` is assigned to partition `p` (R21). -/
def State.holds (s : State) (p r : Nat) : Bool := decide (r < 64) && (s.region r).part == p && (s.region r).assigned

/-- The leaf is valid for partition `p` and gives the rights needed (R309, R311). A PEER leaf is valid once the peer aperture
was accepted (R385), and a CISTERN leaf while its region belongs to the partition. -/
def leafOk (s : State) (p l : Nat) (need : Need) : Bool :=
  l.testBit 63 && nbits l 42 40 == 0 && nbits l 44 43 != 3 && (!need.x || l.testBit 59) && (!need.w || l.testBit 58) &&
    (!need.r || l.testBit 57) && (leafAper l != .cistern || s.keeps p (leafSpn l / 128)) &&
    (leafAper l != .peer || s.feature 3)

/-- A fault of a walk; the caller adds the access. -/
def walkFault (code : Nat) (walk : Bool) (gpa : Nat) (leaf : Nat := 0) : FaultRec :=
  { code := code, addr := 0, gpa := gpa, walk := walk, leaf := leaf }

/-! ### Conduits and routes (R359, R362 to R364) -/

/-- Conduit `n`. -/
def State.conduit (s : State) (n : Nat) : Conduit := mget {} s.links.conduits n

/-- The conduits in a state. -/
def State.conduitsIn (s : State) (st : CState) : List Nat := (List.range 48).filter (fun n => (s.conduit n).state == st)

/-- MAPST: 0 ACTIVE, 1 DRAINING, 2 DRAINED (R359). -/
def State.mapst (s : State) : Nat :=
  if s.conduitsIn .draining ≠ [] then 1
  else if s.conduitsIn .drained ≠ [] ∨ s.links.firstRsm = false then 2
  else 0

/-- fold16 of R363, of a number of 64 bits. -/
def fold16 (n : Nat) : Nat := (n ^^^ (n / 2 ^ 16) ^^^ (n / 2 ^ 32)) % 2 ^ 16

/-- The number of pool slices of the installed map. -/
def State.slices (s : State) : Nat :=
  match s.links.topo with
  | some t => t.nsm1 + 1
  | none => 1

/-- The pool slice of a system page. -/
def State.sliceOf (s : State) (page : Nat) : Nat := fold16 page % s.slices

/-- The pool slice of a lease name. -/
def State.sliceOfName (s : State) (name : Nat) : Nat :=
  (name ^^^ (name / 2 ^ 16) ^^^ (name / 2 ^ 32) ^^^ (name / 2 ^ 48)) % 2 ^ 16 % s.slices

/-- The conduits of a destination's MASK. -/
def State.maskOfDest (s : State) (dest : Nat) : List Nat :=
  match s.links.topo with
  | some t => bitsOf 48 (toW (mget 0 t.masks dest))
  | none => []

/-- How a new request meets the conduit states (R364). -/
inductive Route where
  | sent (conduit : Nat)
  /-- Held until MAPST is ACTIVE, or until Join is accepted (R374). -/
  | held
  /-- Held for at most 1 ms. -/
  | timed
  /-- No route: 0x12. -/
  | down
  /-- The package is fenced: 0x0D (R374). -/
  | fenced
  deriving DecidableEq, Repr

/-- The UP conduits that serve a destination. -/
def State.upFor (s : State) (dest : Nat) : List Nat := (s.maskOfDest dest).filter (fun n => (s.conduit n).state == .up)

/-- The route of a request to `dest` for the line with number `line`: after a FENCED answer pool requests are refused, and
until Join is accepted they are held (R363, R364, R374). -/
def State.route (s : State) (dest line : Nat) : Route :=
  if dest < 256 ∧ s.links.fenced = true then .fenced
  else if dest < 256 ∧ !s.links.joined.contains dest then .held
  else
    match s.upFor dest with
    | u :: us => .sent ((u :: us).getD (foldLine line % (us.length + 1)) u)
    | [] =>
      if s.mapst ≠ 0 then .held
      else if (s.maskOfDest dest).any (fun n => (s.conduit n).state == .training || (s.conduit n).state == .retuning) then
        .timed
      else .down

/-- The destination of an access: a pool slice, or 256 and the peer package (R363). -/
def State.destOf (s : State) (t : Target) : Nat :=
  if t.aper = .peer then 256 + leafPeer t.leaf else s.sliceOf (t.addr / 2 ^ 21)

/-- The answer of a request that does not go out: its fault, or the reason for which it waits (R364, R374). -/
def Route.stop (r : Route) (gpa leaf : Nat) : Option FaultRec :=
  match r with
  | .sent _ => none
  | .held => some { code := 0x12, addr := 0, gpa := gpa, leaf := leaf, hold := some .conduit }
  | .timed => some { code := 0x12, addr := 0, gpa := gpa, leaf := leaf, hold := some .training }
  | .down => some (walkFault 0x12 false gpa leaf)
  | .fenced => some (walkFault 0x0D false gpa leaf)

/-! ### Gates (R23, R24, R328) -/

/-- How the gate of a region meets an inbound request: it passes, it waits at the gate, or it is dropped and completes at its
sender with 0x14. -/
inductive GateAns where
  | pass | wait | closed
  deriving DecidableEq, Repr

/-- The gate of region `q` for a request that acts for its partition and comes from region `r`. In RESET it admits nothing: a
request of a region of its window group completes with 0x14, and any other waits. In HELD it admits fills and responses from
region 65 (`fill`) and nothing else of the partition (log entry 77). -/
def State.gate (s : State) (r q : Nat) (fill : Bool) : GateAns :=
  match (s.region q).state with
  | .reset => if (s.region q).peers.contains r then .closed else .wait
  | .held => if fill then .pass else .closed
  | _ => .pass

/-- The region whose L2 slice is the home slice of a line of a partition (R152). -/
def State.homeRegion (s : State) (p line : Nat) : Nat :=
  let l := s.placement p
  l.getD (foldLine line % (4 * l.length) / 4) 64

/-- The gate that an access of region `r` passes: that of the home slice of a POOL or LOCAL line at SCOPE 3 or more, which it
reaches through region 65 (R152), or that of the region whose Cistern share it reaches. -/
def State.gateAt (s : State) (r p : Nat) (aper : Aper) (addr scope : Nat) : GateAns :=
  match aper with
  | .cistern => if addr / 2 ^ 28 = r then .pass else s.gate r (addr / 2 ^ 28) false
  | .localPage => if 3 ≤ scope then s.gate r (s.homeRegion p (addr / 128)) true else .pass
  | .pool => if 3 ≤ scope ∧ scope ≠ 5 then s.gate r (s.homeRegion p (addr / 128)) true else .pass
  | _ => .pass

/-- The access completes with 0x14 at a gate. -/
def State.homeReset (s : State) (r p : Nat) (t : Target) (scope : Nat) : Bool := s.gateAt r p t.aper t.addr scope == .closed

/-- What an access meets at a gate: 0x14, or the reason for which it waits (R24, R328). -/
def State.gateStop (s : State) (r p : Nat) (t : Target) (scope : Nat) : Option FaultRec :=
  match s.gateAt r p t.aper t.addr scope with
  | .pass => none
  | .closed => some (walkFault 0x14 false t.gpa t.leafAt)
  | .wait => some { code := 0x14, addr := 0, gpa := t.gpa, leaf := t.leafAt, hold := some .conduit }

/-! ### L2 slices and the Reservoir (R27, R152, R154, R368) -/

/-- A live Reservoir copy of a line. -/
def State.line? (s : State) (p line : Nat) : Option ResLine :=
  (s.part p).lines.find? (fun l => l.line == line && decide (s.tick < l.till))

/-- The length of a pool read lease by LCLS (R309). -/
def leaseLen (lcls : Nat) : Nat :=
  match lcls with
  | 0 => 20000
  | 1 => 5000
  | _ => 100000

/-- The region whose L2 slice caches a line that region `r` touches (R152). -/
def State.sliceRegion (s : State) (r line : Nat) : Nat :=
  let g := s.windowGroup r
  g.getD (foldLine line % g.length) r

/-- The copy of a line of partition `p` in an L2 slice. -/
def Region.l2? (g : Region) (p line : Nat) : Option L2Line := g.l2.find? (fun l => l.part == p && l.line == line)

/-- The copy of a line that an access of region `r` at this SCOPE meets in its L2 slice: at SCOPE 0 to 2, on a region that
belongs to the partition (R152, R174, R293). A POOL line is there only with a live copy in the Reservoir (R27). -/
def State.l2Hit (s : State) (r p : Nat) (aper : Aper) (scope line : Nat) : Option L2Line :=
  if 2 < scope ∨ 63 < r ∨ p = fontanier then none
  else if aper = .pool ∧ s.line? p line = none then none
  else (s.region (s.sliceRegion r line)).l2? p line

/-- The lines that [a, a+n) touches. -/
def linesOf (a n : Nat) : List Nat := (List.range ((a + n - 1) / 128 + 1 - a / 128)).map (fun i => a / 128 + i)

/-- What a read leaves in the caches: its EVICT value, the tensor tile of a descriptor, the schedule tile and class of a Rill
fetch, the tick at which its request went out, and whether its lines stay out of L2 (R154, R169, R170, R256, R368). -/
structure Fill where
  evict : Nat := 0
  tile  : Option (Nat × Nat) := none
  rill  : Option (Nat × Nat × Retain) := none
  sent  : Option Nat := none
  noL2  : Bool := false
  deriving DecidableEq, Repr

/-- The retention class of a tensor tile (R170). -/
def Part.retain (q : Part) (t : Option (Nat × Nat)) : Retain :=
  match t with
  | none => .warm
  | some (h, k) => match q.hints.find? (fun x => x.1 == h && x.2.1 == k) with | some x => x.2.2 | none => .warm

/-- The class of a line that a tensor tile and a schedule tile name: that of the schedule while its entry is in the window (R170,
R256). -/
def Part.classOf (q : Part) (t : Option (Nat × Nat)) (w : Option (Nat × Nat × Retain)) : Retain :=
  match w with
  | some x => x.2.2
  | none => q.retain t

/-- The EVICT value at which the Reservoir keeps a line of a class: 7 for a cold or a stream one (R170). -/
def Retain.evictOf (c : Retain) (evict : Nat) : Nat :=
  match c with
  | .cold => 7
  | .stream => 7
  | _ => evict

/-- Lines of a Reservoir share beside the pinned reserve (R20, R310). -/
def State.resRoom (s : State) (p : Nat) : Nat := (s.placement p).length * 50331648 - (s.part p).pinned.length * 16384

/-- Lines of an L2 slice (R20). -/
def l2Room : Nat := 131072

/-- The victim of R154 among lines with their EVICT values, the least recently used first: the first of the highest value. -/
def victim {α : Type} (ev : α → Nat) : List α → Option α
  | [] => none
  | x :: xs => match victim ev xs with | some y => if ev x < ev y then some y else some x | none => some x

/-- The victim of a full Reservoir share: lines of hot tiles only when there is no other (R154, R170). -/
def Part.victim (q : Part) : Option ResLine :=
  match Machine.victim (fun l => l.evict) (q.lines.filter (fun l => q.classOf l.tile l.rill != .hot)) with
  | some l => some l
  | none => Machine.victim (fun l => l.evict) q.lines

/-- A line leaves a full Reservoir share (R154; log entry 6). -/
def State.resMake (s : State) (p : Nat) : State :=
  if (s.part p).lines.length < s.resRoom p then s
  else
    match (s.part p).victim with
    | some v => s.dropRes p (fun l => l == v.line)
    | none => s

/-- Uncorrectable granules with those of a line replaced. -/
def errLine (err : List Nat) (line : Nat) (new : List Nat) : List Nat := err.filter (fun g => g / 16 != line) ++ new

/-- Those of a list of granules that lie in a line. -/
def errOf (err : List Nat) (line : Nat) : List Nat := err.filter (fun g => g / 16 == line)

/-- A line as the pool's data gives it, under a read lease counted from the send of its request; the pool counts from the answer
(R368, R369). -/
def State.freshLine (s : State) (q : Part) (line lcls sent : Nat) (f : Fill) : ResLine :=
  { line := line, data := bytesRow (rdBytes s.mem (line * 128) 128), till := sent + leaseLen lcls, ends := s.tick + leaseLen lcls + 2000,
    evict := Retain.evictOf (q.classOf f.tile f.rill) f.evict, tile := f.tile, rill := f.rill }

/-- Line `line` of a POOL page in the Reservoir of partition `p`: a live copy is touched, and otherwise the line is fetched under
a read lease counted from the send of its request, with what the pool marked uncorrectable (R368, R391). A lease that has
run out on the data's return leaves no line, though the pool counts it. -/
def State.fillLine (s : State) (p line lcls : Nat) (f : Fill) : State :=
  let q := s.part p
  match s.line? p line with
  | some x =>
    let tile := if f.tile = none then x.tile else f.tile
    let rill := if f.rill = none then x.rill else f.rill
    s.setPart p { q with lines := q.lines.filter (fun l => l.line != line) ++
      [({ x with evict := Retain.evictOf (q.classOf tile rill) f.evict, tile := tile, rill := rill } : ResLine)] }
  | none =>
    let s := (s.dropRes p (fun l => l == line)).resMake p
    let sent := f.sent.getD s.tick
    if sent + leaseLen lcls ≤ s.tick then s.keepPast [s.freshLine q line lcls sent f]
    else
      ({ s with resErr := errLine s.resErr line (errOf s.memErr line) }).setPart p { s.part p with
        lines := (s.part p).lines ++ [s.freshLine q line lcls sent f] }

/-- A line put into an L2 slice as its most recently used, with its uncorrectable granules; a full slice loses its victim
(R154). -/
def State.putL2 (s : State) (r : Nat) (x : L2Line) (err : List Nat) : State :=
  let s := if ((s.region r).l2? x.part x.line).isSome ∨ (s.region r).l2.length < l2Room then s
    else match victim (fun l => l.evict) (s.region r).l2 with
      | some v => s.dropL2 r (fun l => l == v)
      | none => s
  let g := s.region r
  s.setRegion r { g with l2 := g.l2.filter (fun l => !(l.part == x.part && l.line == x.line)) ++ [x], l2Err := errLine g.l2Err x.line err }

/-- A line that an access of region `r` at SCOPE 0 to 2 touched or fetched, in its L2 slice (R152, R154). -/
def State.fillL2 (s : State) (r p : Nat) (aper : Aper) (line : Nat) (f : Fill) : State :=
  let k := s.sliceRegion r line
  match (s.region k).l2? p line with
  | some x =>
    s.putL2 k { x with evict := f.evict, tile := if f.tile = none then x.tile else f.tile } (errOf (s.region k).l2Err line)
  | none =>
    if f.noL2 then s
    else
      match aper, s.line? p line with
      | .pool, some x => s.putL2 k { part := p, line := line, data := x.data, evict := f.evict, tile := f.tile } (errOf s.resErr line)
      | .localPage, _ =>
        s.putL2 k { part := p, line := line, data := bytesRow (rdBytes s.mem (line * 128) 128), evict := f.evict, tile := f.tile }
          (errOf s.resErr line ++ errOf s.memErr line)
      | _, _ => s

/-- An access needs a request to the pool or to a peer: PEER and the fontanier always; a POOL line that has no live copy,
or at SCOPE 5; a write of a POOL or LOCAL line; the first access to a LOCAL page (R27, R182, R310, R368). Until the first LKRSM
after package reset the fontanier's need none, since its driver installs the first map then (R377, R383; log entry 8). -/
def State.needsRoute (s : State) (p : Nat) (t : Target) (n scope : Nat) (write : Bool) : Bool :=
  match t.aper with
  | .peer => true
  | .system => s.links.firstRsm
  | .localPage => write || t.notes.contains (.pin (t.addr / 2 ^ 21))
  | .pool => write || decide (scope = 5) || (linesOf t.addr n).any (fun l => s.line? p l == none)
  | _ => false

/-- The route of an access, or none when it needs no request. -/
def State.accRoute (s : State) (p : Nat) (t : Target) (n scope : Nat) (write : Bool) : Option Route :=
  if s.needsRoute p t n scope write then some (s.route (s.destOf t) (t.addr / 128)) else none

/-! ### Bytes at their targets -/

/-- Where bytes lie: an aperture with its address, the core of the access, whose scratchpad an address in the scratchpad names
and whose L2 slice caches its lines, and its partition. -/
structure Loc where
  aper : Aper
  addr : Nat
  core : Nat
  part : Nat
  lcls : Nat := 0
  deriving DecidableEq, Repr

/-- The location of a target. -/
def Target.loc (t : Target) (core part : Nat) : Loc :=
  { aper := t.aper, addr := t.addr, core := core, part := part, lcls := leafLcls t.leaf }

/-- The part of [a, a+n) in a line is uncorrectable where this reader finds it: its L2 slice, the Reservoir or the pool
(R391). -/
def State.linePoison (s : State) (l : Loc) (n scope line : Nat) : Bool :=
  let a := max l.addr (line * 128)
  let m := min (l.addr + n) (line * 128 + 128) - a
  match s.l2Hit l.core l.part l.aper scope line with
  | some _ => poisoned (s.region (s.sliceRegion l.core line)).l2Err a m
  | none =>
    if l.aper = .localPage then poisoned s.resErr a m || poisoned s.memErr a m
    else if s.line? l.part line = none then poisoned s.memErr a m
    else poisoned s.resErr a m

/-- Some byte of the range is uncorrectable for this reader (R391). -/
def State.locPoison (s : State) (l : Loc) (n scope : Nat) : Bool :=
  match l.aper with
  | .spad => poisoned (s.core l.core).spadErr l.addr n
  | .cistern => poisoned s.cistErr l.addr n
  | .pool => if scope = 5 ∨ l.part = fontanier then poisoned s.memErr l.addr n else (linesOf l.addr n).any (s.linePoison l n scope)
  | .localPage => (linesOf l.addr n).any (s.linePoison l n scope)
  | _ => poisoned s.memErr l.addr n

/-- The copy of a line that was delivered as uncorrectable is invalidated where it was found (R391). -/
def State.dropLine (s : State) (l : Loc) (n scope line : Nat) : State :=
  if !s.linePoison l n scope line then s
  else
    match s.l2Hit l.core l.part l.aper scope line with
    | some _ => s.dropL2 (s.sliceRegion l.core line) (fun x => x.part == l.part && x.line == line)
    | none => ({ s with resErr := errLine s.resErr line [] }).dropRes l.part (fun x => x == line)

/-- The package copies of lines delivered as uncorrectable are invalidated (R391). -/
def State.dropPoisoned (s : State) (l : Loc) (n scope : Nat) : State :=
  if (l.aper = .pool ∧ scope ≠ 5) ∨ l.aper = .localPage then (linesOf l.addr n).foldl (fun t k => t.dropLine l n scope k) s else s

/-- One byte of a POOL or LOCAL page as a load at SCOPE 0 to 4 sees it: the copy in its L2 slice, else the live Reservoir
copy, else the pool. -/
def State.pageByte (s : State) (l : Loc) (scope a : Nat) : Byte :=
  match s.l2Hit l.core l.part l.aper scope (a / 128) with
  | some x => x.data.extractLsb' (8 * (a % 128)) 8
  | none =>
    match (if l.aper = .pool then s.line? l.part (a / 128) else none) with
    | some x => x.data.extractLsb' (8 * (a % 128)) 8
    | none => rd8 s.mem a

/-- The bytes that a read returns. -/
def State.locBytes (s : State) (l : Loc) (n scope : Nat) : List Byte :=
  match l.aper with
  | .spad => rdBytes (s.core l.core).spad l.addr n
  | .cistern => rdBytes s.cist l.addr n
  | .pool =>
    if scope = 5 ∨ l.part = fontanier then rdBytes s.mem l.addr n
    else (List.range n).map (fun i => s.pageByte l scope (l.addr + i))
  | .localPage => (List.range n).map (fun i => s.pageByte l scope (l.addr + i))
  | _ => rdBytes s.mem l.addr n

/-- The caches after one line was read: a line that the L2 slice held is touched there, and any other is filled, a POOL line in
the Reservoir first (R27, R154). -/
def State.lineRead (s : State) (l : Loc) (scope : Nat) (f : Fill) (line : Nat) : State :=
  let cached := decide (scope ≤ 2) && decide (l.core < 64) && decide (l.part ≠ fontanier)
  if (s.l2Hit l.core l.part l.aper scope line).isSome then s.fillL2 l.core l.part l.aper line f
  else
    let s := if l.aper = .pool then s.fillLine l.part line l.lcls f else s
    if cached then s.fillL2 l.core l.part l.aper line f else s

/-- The caches after a read of a POOL page at SCOPE 0 to 4, or of a LOCAL page. -/
def State.afterRead (s : State) (l : Loc) (n scope : Nat) (f : Fill) : State :=
  if (l.aper = .pool ∧ scope ≠ 5) ∨ l.aper = .localPage then (linesOf l.addr n).foldl (fun t k => t.lineRead l scope f k) s else s

/-- The data of a line's copy after a write of the package to system memory. -/
def patchRow (mem : Bytes) (a n line : Nat) (old : Row) : Row :=
  if line * 128 < a + n ∧ a < line * 128 + 128 then
    bytesRow ((List.range 128).map (fun i =>
      if a ≤ line * 128 + i ∧ line * 128 + i < a + n then rd8 mem (line * 128 + i) else old.extractLsb' (8 * i) 8))
  else old

/-- Bytes written to system memory by this package: the pool's copy and every copy in the package (R174, R368). The granules
of the pool are 8 bytes like the package's, healed in the same way, which the spec leaves to the pool module (R391; log
entry 78, DESIGN CHOICE). -/
def State.writeSys (s : State) (a : Nat) (bs : List Byte) : State :=
  let mem := wrBytes s.mem a bs
  let n := bs.length
  { s with
    mem := mem
    memErr := healed s.memErr a n
    resErr := healed s.resErr a n
    parts := s.parts.map (fun kp =>
      (kp.1, { kp.2 with lines := kp.2.lines.map (fun l => { l with data := patchRow mem a n l.line l.data }) }))
    regions := s.regions.map (fun kg =>
      (kg.1, { kg.2 with l2 := kg.2.l2.map (fun l => { l with data := patchRow mem a n l.line l.data }), l2Err := healed kg.2.l2Err a n })) }

/-- The state with bytes written at a location. -/
def State.writeLoc (s : State) (l : Loc) (bs : List Byte) : State :=
  match l.aper with
  | .spad =>
    let c := s.core l.core
    s.setCore l.core { c with spad := wrBytes c.spad l.addr bs, spadErr := healed c.spadErr l.addr bs.length }
  | .cistern => { s with cist := wrBytes s.cist l.addr bs, cistErr := healed s.cistErr l.addr bs.length }
  | _ => s.writeSys l.addr bs

/-- A write or an RMW at SCOPE 3 or more of a POOL or LOCAL line has invalidated the copies in every slice of the partition
but the home slice (R155, R174). -/
def State.homeOnly (s : State) (l : Loc) (n scope : Nat) : State :=
  if 3 ≤ scope ∧ (l.aper = .pool ∨ l.aper = .localPage) ∧ l.part ≠ fontanier then
    let ks := linesOf l.addr n
    (s.placement l.part).foldl (fun s r =>
      s.dropL2 r (fun x => x.part == l.part && ks.contains x.line && s.homeRegion l.part x.line != r)) s
  else s

/-- A store at a location, performed at its SCOPE. -/
def State.storeLoc (s : State) (l : Loc) (scope : Nat) (bs : List Byte) : State := (s.writeLoc l bs).homeOnly l bs.length scope

/-- A line that a write touches takes its EVICT value where it is cached (R154). -/
def State.touchLine (s : State) (l : Loc) (scope : Nat) (f : Fill) (line : Nat) : State :=
  let s := if l.aper = .pool ∧ (s.line? l.part line).isSome then s.fillLine l.part line l.lcls f else s
  if (s.l2Hit l.core l.part l.aper scope line).isSome then s.fillL2 l.core l.part l.aper line f else s

/-- A store of an access of the package: the bytes, and the lines that it touches in the caches (R154, R174). -/
def State.storeAt (s : State) (l : Loc) (scope : Nat) (f : Fill) (bs : List Byte) : State :=
  let s := s.storeLoc l scope bs
  if l.aper = .pool ∨ l.aper = .localPage then (linesOf l.addr bs.length).foldl (fun t k => t.touchLine l scope f k) s else s

/-! ### Translation caches (R312) -/

/-- The translation lease of a cached entry: 64 µs (R312). -/
def transLease : Nat := 64000

/-- A live entry of a translation cache. -/
def tlbFind (s : State) (l : List TlbEntry) (k0 k1 : Nat) : Option TlbEntry :=
  l.find? (fun e => e.k0 == k0 && e.k1 == k1 && decide (s.tick < e.till))

/-- The key under which the node cache keeps stage-2 entries of a partition. -/
def stage2Key (p : Nat) : Nat := 128 + p

/-- The message of a request under a key slot, as a note; the fontanier's have none (R293, R342). -/
def msgNote (p key : Nat) (sent : Bool) : List Note := if sent && p != fontanier then [.msg key] else []

/-! ### Stage 2 (R309, R311) -/

/-- A word of the stage-2 table at a system address, read from the pool: its value, or why not. -/
def s2Word (s : State) (at_ g leaf : Nat) : Except FaultRec Nat :=
  match (s.route (s.sliceOf (at_ / 2 ^ 21)) (at_ / 128)).stop g leaf with
  | some f => .error f
  | none => if poisoned s.memErr at_ 8 then .error (walkFault 0x0E false g leaf) else .ok (rdN s.mem at_ 8)

/-- A stage-2 table entry above the leaf, from the node cache of region `r` or from memory, and the tick at which its lease
ends. -/
def s2Entry (s : State) (r p at_ g : Nat) (ns : List Note) : Except FaultRec (Nat × Nat × List Note) :=
  match tlbFind s (s.region r).nodes (stage2Key p) at_ with
  | some e => .ok (e.val, e.till, ns)
  | none =>
    match s2Word s at_ g 0 with
    | .error f => .error f
    | .ok v => .ok (v, s.tick + transLease, ns ++ [.node { k0 := stage2Key p, k1 := at_, val := v, till := s.tick + transLease }])

/-- A stage-2 entry above the leaf is valid. -/
def s2NodeOk (e : Nat) : Bool := e.testBit 63 && nbits e 62 48 == 0 && nbits e 11 0 == 0

/-- The target that a valid leaf gives guest-physical address `g`. -/
def leafTarget (l at_ g till : Nat) (ns : List Note) : Target :=
  { aper := leafAper l, addr := leafSpn l * 2 ^ 21 + g % 2 ^ 21, leaf := l, leafAt := at_, gpa := g, notes := ns, till := till }

/-- Translation of guest-physical address `g` of partition `p` with the caches of region `r` (R311). For the fontanier
stage 2 is the identity (R293). -/
def s2 (s : State) (r p : Nat) (ns : List Note) (g : Nat) (need : Need) (walk : Bool) : Except FaultRec Target :=
  if 2 ^ 48 ≤ g then .error (walkFault 0x09 walk g)
  else if p = fontanier then .ok { aper := .system, addr := g, gpa := g, notes := ns, till := s.tick + transLease }
  else if (s.part p).s2tb.getLsbD 63 = false then .error (walkFault 0x09 walk g)
  else
    match tlbFind s (s.region r).nestTlb p (g / 2 ^ 21) with
    | some e =>
      if leafOk s p e.val need then .ok (leafTarget e.val e.aux g e.till ns) else .error (walkFault 0x09 walk g e.aux)
    | none =>
      match s2Entry s r p (bits (s.part p).s2tb 47 12 * 4096 + 8 * nbits g 47 39) g ns with
      | .error f => .error f
      | .ok (e2, till2, ns) =>
        if !s2NodeOk e2 then .error (walkFault 0x09 walk g)
        else
          match s2Entry s r p (nbits e2 47 12 * 4096 + 8 * nbits g 38 30) g ns with
          | .error f => .error f
          | .ok (e1, till1, ns) =>
            if !s2NodeOk e1 then .error (walkFault 0x09 walk g)
            else
              let at_ := nbits e1 47 12 * 4096 + 8 * nbits g 29 21
              match s2Word s at_ g at_ with
              | .error f => .error f
              | .ok l =>
                if leafOk s p l need then
                  .ok (leafTarget l at_ g (min till2 till1)
                    (ns ++ [.nest { k0 := p, k1 := g / 2 ^ 21, val := l, aux := at_, till := min till2 till1 }]))
                else .error (walkFault 0x09 walk g at_)

/-- The page of a target goes through a leaf with a key slot (R144). -/
def Target.keyed (t : Target) : Bool :=
  match t.aper with
  | .pool => true
  | .localPage => true
  | .peer => true
  | _ => false

/-- A key slot of a partition holds no key (R144). -/
def State.keyEmpty (s : State) (p k : Nat) : Bool := (mget none (s.part p).keys k).isNone

/-- A key slot whose counter has reached 2^64 − 1 (R342). -/
def State.keySpent (s : State) (p k : Nat) : Bool :=
  match mget none (s.part p).keys k with
  | some x => decide (2 ^ 64 - 1 ≤ x.cnt)
  | none => false

/-- The key slot of a partition that an access may use: one that holds a key whose counter is not spent (R144, R342). -/
def State.keyLive (s : State) (p k : Nat) : Bool := !s.keyEmpty p k && !s.keySpent p k

/-- The pages that the pinned reserve of a partition may hold: 3 GiB for each region it holds (R310). -/
def State.pinLimit (s : State) (p : Nat) : Nat := 1536 * (s.placement p).length

/-- A LOCAL page enters the pinned reserve at its first access, within the limit of R310. -/
def pinned (s : State) (p : Nat) (walk : Bool) (t : Target) : Except FaultRec Target :=
  if t.aper = .localPage then
    let page := t.addr / 2 ^ 21
    if (s.part p).pinned.contains page || t.notes.contains (.pin page) then .ok t
    else if (s.part p).pinned.length + (t.notes.filter (fun n => match n with | .pin _ => true | _ => false)).length <
        s.pinLimit p then
      .ok { t with notes := t.notes ++ [.pin page] }
    else .error (walkFault 0x09 walk t.gpa t.leafAt)
  else .ok t

/-- Translation by stage 2 alone, under the leaf's own key slot (R144, R311, R342). -/
def s2Alone (s : State) (r p : Nat) (ns : List Note) (g : Nat) (need : Need) (walk : Bool) : Except FaultRec Target :=
  match s2 s r p ns g need walk with
  | .error f => .error f
  | .ok t =>
    if t.keyed && s.keyEmpty p (leafKey t.leaf) then .error (walkFault 0x09 walk g t.leafAt)
    else if t.keyed && s.keySpent p (leafKey t.leaf) then .error (walkFault 0x07 false g t.leafAt)
    else pinned s p walk t

/-- `n` bytes at a target that stage 2 alone gave, read with acquire at partition scope, and the notes of the read (R140, R311):
its request goes out where it needs one, and uncorrectable data is 0x0E. -/
def tableRead (s : State) (r p : Nat) (t : Target) (n : Nat) : Except FaultRec (List Byte × List Note) :=
  let q := s.accRoute p t n 3 false
  match (s.gateStop r p t 3).or (q.bind (fun x => x.stop t.gpa t.leafAt)) with
  | some f => .error f
  | none =>
    if s.locPoison (t.loc r p) n 3 then .error (walkFault 0x0E false t.gpa t.leafAt)
    else .ok (s.locBytes (t.loc r p) n 3, t.notes ++ msgNote p (leafKey t.leaf) q.isSome)

/-- gread of R311: 8 bytes of a table, and the target they were read at, with the notes of the read. -/
def gread (s : State) (r p : Nat) (ns : List Note) (g : Nat) : Except FaultRec (Nat × Target) :=
  match s2Alone s r p ns g needR true with
  | .error f => .error f
  | .ok t =>
    match tableRead s r p t 8 with
    | .error f => .error f
    | .ok (b, ns) => .ok (leNat b, { t with notes := ns })

/-! ### Stage 1 (R308, R311) -/

/-- A level-i entry of a tile table is valid. -/
def s1EntryOk (i e : Nat) : Bool :=
  e.testBit 63 && nbits e 62 48 == 0 && (if i = 0 then nbits e 15 0 == 0 else nbits e 11 0 == 0)

/-- The key of the tile TLB: partition and TTP. -/
def tileKey (p ttp : Nat) : Nat := p * 2 ^ 48 + ttp

/-- What one level of a descent gives: the entry, the guest page that holds it, the system address of that page's leaf, the end
of its translation lease, and the notes. -/
structure Level1 where
  entry : Nat
  page  : Nat
  at_   : Nat
  till  : Nat
  notes : List Note

/-- The tile-table entry at guest-physical address `g`, through the node cache of region `r` above level 0. -/
def s1Entry (s : State) (r p ttp i g : Nat) (ns : List Note) : Except FaultRec Level1 :=
  match (if i = 0 then none else tlbFind s (s.region r).nodes p g) with
  | some e => .ok ⟨e.val, g / 2 ^ 21, 0, e.till, ns⟩
  | none =>
    match gread s r p ns g with
    | .error f => .error f
    | .ok (v, t) =>
      .ok ⟨v, g / 2 ^ 21, t.leafAt, t.till,
        if i = 0 then t.notes
        else t.notes ++ [.node { k0 := p, k1 := g, val := v, aux := tileKey p ttp, till := t.till, page := g / 2 ^ 21 }]⟩

/-- One level of the descent: the valid entry of level `i` for object tile `tile` in the node at `node` (R311). -/
def walkLevel (s : State) (r p ttp tile i node : Nat) (ns : List Note) : Except FaultRec Level1 :=
  let g := node + 8 * nbits tile (9 * i + 8) (9 * i)
  match s1Entry s r p ttp i g ns with
  | .error f => .error f
  | .ok x => if !s1EntryOk i x.entry then .error (walkFault 0x08 true g x.at_) else .ok x

/-- The descent from level `i` at node `node` to the guest frame of an object tile, the end of the earliest lease it used, and
the notes (R311, R312). -/
def walkDown (s : State) (r p ttp tile : Nat) : Nat → Nat → Nat → List Note → Except FaultRec (Nat × Nat × List Note)
  | 0, node, till, ns =>
    match walkLevel s r p ttp tile 0 node ns with
    | .error f => .error f
    | .ok x =>
      let f := nbits x.entry 47 16 * 2 ^ 16
      .ok (f, min till x.till, x.notes ++ [.tile { k0 := tileKey p ttp, k1 := tile, val := f, till := min till x.till, page := x.page }])
  | j + 1, node, till, ns =>
    match walkLevel s r p ttp tile (j + 1) node ns with
    | .error f => .error f
    | .ok x => walkDown s r p ttp tile j (nbits x.entry 47 12 * 4096) (min till x.till) x.notes

/-- Words 2 to 7 of a tile-table header are zero. -/
def headerZero (s : State) (r p ttp : Nat) : List Nat → List Note → Except FaultRec (List Note)
  | [], ns => .ok ns
  | k :: ks, ns =>
    match gread s r p ns (ttp + 8 * k) with
    | .error f => .error f
    | .ok (v, t) => if v = 0 then headerZero s r p ttp ks t.notes else .error (walkFault 0x08 true ttp t.leafAt)

/-- The guest frame of object tile `tile` of the table at `ttp`, with the end of the leases used (R311, R312). -/
def stage1 (s : State) (r p ttp tile : Nat) : Except FaultRec (Nat × Nat × List Note) :=
  match tlbFind s (s.region r).tileTlb (tileKey p ttp) tile with
  | some e => .ok (e.val, e.till, [])
  | none =>
    match gread s r p [] ttp with
    | .error f => .error f
    | .ok (h0, t0) =>
      match gread s r p t0.notes (ttp + 8) with
      | .error f => .error f
      | .ok (h1, t1) =>
        match headerZero s r p ttp [2, 3, 4, 5, 6, 7] t1.notes with
        | .error f => .error f
        | .ok ns =>
          if nbits h0 63 48 ≠ 0 ∨ nbits h0 11 2 ≠ 0 ∨ nbits h1 63 33 ≠ 0 ∨ nbits h1 32 0 ≤ tile ∨
              2 ^ (9 * (nbits h0 1 0 + 1)) ≤ tile then
            .error (walkFault 0x08 true ttp t0.leafAt)
          else walkDown s r p ttp tile (nbits h0 1 0) (nbits h0 47 12 * 4096) (min t0.till t1.till) ns

/-! ### The object checks of R141 to R144 -/

/-- The aperture rules: scalar accesses and atomics (R143), fetches (R40, R143), row accesses and transfers that may name
any page but the Cistern, accesses that name only the Cistern (R211, R251), and the MX B operand (R229). -/
inductive ApRule where
  | scalar | atomic | fetch | noCistern | onlyCistern | any
  deriving DecidableEq, Repr

/-- The fault code with which an aperture refuses an access. -/
def apFault (rule : ApRule) (t : Target) : Option Nat :=
  match rule, t.aper with
  | .any, _ => none
  | .onlyCistern, .cistern => none
  | .onlyCistern, _ => some 0x07
  | _, .cistern => some 0x07
  | .atomic, .peer => if leafRap t.leaf then none else some 0x0A
  | _, _ => none

/-- The step lease of a partition is LIVE and not expired (R144, R370). -/
def State.leaseLive (s : State) (p : Nat) : Bool := (s.part p).lease.st == .live && decide (s.tick < (s.part p).lease.till)

/-- Translation of an object offset by both stages (R311). -/
def objWalk (s : State) (r p : Nat) (c : Cap) (off : Nat) (need : Need) : Except FaultRec Target :=
  match stage1 s r p c.ttp (off / 2 ^ 16) with
  | .error f => .error f
  | .ok (frame, till, ns) =>
    match s2 s r p ns (frame + off % 2 ^ 16) need false with
    | .error f => .error f
    | .ok t => .ok { t with till := min till t.till }

/-- The fault of the aperture rules at a target (R143). -/
def Target.apStop (t : Target) (rule : ApRule) : Option FaultRec := (apFault rule t).map (fun code => walkFault code false t.gpa t.leafAt)

/-- The fault of the lease and key checks of R144 at a target; `bound` says that the access is a store or an atomic, which a
capability with LB = 01 binds to the step lease. -/
def State.leaseStop (s : State) (p : Nat) (c : Cap) (bound : Bool) (t : Target) : Option FaultRec :=
  if bound && c.lb == 1 && !s.leaseLive p then some (walkFault 0x0D false t.gpa t.leafAt)
  else if t.keyed && (leafKey t.leaf != c.key || !s.keyLive p c.key) then some (walkFault 0x07 false t.gpa t.leafAt)
  else none

/-- Steps of R141 from the walk on: translation, aperture, lease and key, and the pinned reserve. The fault carries the
walk's details. -/
def reachTarget (s : State) (r p : Nat) (c : Cap) (off : Nat) (need : Need) (rule : ApRule) (bound : Bool) :
    Except FaultRec Target :=
  match objWalk s r p c off need with
  | .error f => .error f
  | .ok t =>
    match (t.apStop rule).or (s.leaseStop p c bound t) with
    | some f => .error f
    | none => pinned s p false t

/-- The rights that an access needs of its capability: X, A, W, RD. -/
structure CapNeed where
  x : Bool := false
  a : Bool := false
  w : Bool := false
  r : Bool := false
  deriving DecidableEq, Repr

/-- The capability has V and the rights needed. -/
def Cap.grants (c : Cap) (n : CapNeed) : Bool :=
  c.valid && (!n.x || c.x) && (!n.a || c.a) && (!n.w || c.wr) && (!n.r || c.rd)

/-- A whole access as the checks of R141 see it: rights of the capability and of the leaf, aperture rule, and whether it
is a store or an atomic. -/
structure AccKind where
  cap   : CapNeed
  need  : Need
  rule  : ApRule
  bound : Bool
  deriving DecidableEq, Repr

/-- A scalar load (R157). -/
def kLoad : AccKind := { cap := { r := true }, need := needR, rule := .scalar, bound := false }
/-- A scalar store (R157). -/
def kStore : AccKind := { cap := { w := true }, need := needW, rule := .scalar, bound := true }
/-- An ATOM (R161). -/
def kAtom : AccKind := { cap := { a := true }, need := needRW, rule := .atomic, bound := true }
/-- An ATOMF or ACAS (R161). -/
def kAtomf : AccKind := { cap := { a := true, r := true }, need := needRW, rule := .atomic, bound := true }
/-- A row or transfer read outside the Cistern. -/
def kRead : AccKind := { cap := { r := true }, need := needR, rule := .noCistern, bound := false }
/-- A row or transfer write outside the Cistern. -/
def kWrite : AccKind := { cap := { w := true }, need := needW, rule := .noCistern, bound := true }
/-- An instruction fetch (R40). -/
def kFetch : AccKind := { cap := { x := true }, need := needX, rule := .fetch, bound := false }

/-- A fault of an access: the walk's fault with the offset, the direction and the capability used. -/
def accFault (f : FaultRec) (off oid : Nat) (wr : Bool) : FaultRec := { f with addr := off, oid := oid, wr := wr }

/-- The fault of the checks of R141 that the capability alone decides, for `z` bytes at `off` with alignment `al`. -/
def Cap.refuses (c : Cap) (off z al : Nat) (k : AccKind) : Option FaultRec :=
  if !c.grants k.cap then some (accFault (walkFault 0x07 false 0) off c.oid k.need.w)
  else if off < c.lo ∨ c.hi < off + z then some (accFault (walkFault 0x06 false 0) off c.oid k.need.w)
  else if off % al ≠ 0 then some (accFault (walkFault 0x0B false 0) off c.oid k.need.w)
  else none

/-- The checks of R141 to R144 for `z` bytes at `off`, in their order; `al` is the alignment demanded. -/
def objAccess (s : State) (r p : Nat) (c : Cap) (off z al : Nat) (k : AccKind) : Except FaultRec Target :=
  match c.refuses off z al k with
  | some f => .error f
  | none =>
    match reachTarget s r p c off k.need k.rule k.bound with
    | .error f => .error (accFault f off c.oid k.need.w)
    | .ok t => .ok t

/-- The token that a store or atomic through the capability carries (R144). -/
def capToken (s : State) (p : Nat) (c : Cap) : Option Word := if c.lb = 1 then some (s.part p).lease.token else none

/-! ### Filling the caches -/

/-- A cache with an entry added: it replaces an entry of its key, and the oldest leaves when the cache is full. -/
def tlbAdd (cap : Nat) (l : List TlbEntry) (e : TlbEntry) : List TlbEntry :=
  let l := l.filter (fun x => !(x.k0 == e.k0 && x.k1 == e.k1))
  (if l.length < cap then l else l.drop 1) ++ [e]

/-- The notes of a walk kept by the caches of region `r` (R312), by the pinned reserve of partition `p` (R310) and by the
counters of its key slots (R342). -/
def State.keepNotes (s : State) (r p : Nat) : List Note → State
  | [] => s
  | .tile e :: ns =>
    (s.setRegion r { s.region r with tileTlb := tlbAdd 2048 (s.region r).tileTlb e }).keepNotes r p ns
  | .nest e :: ns =>
    (s.setRegion r { s.region r with nestTlb := tlbAdd 1024 (s.region r).nestTlb e }).keepNotes r p ns
  | .node e :: ns =>
    (s.setRegion r { s.region r with nodes := tlbAdd 256 (s.region r).nodes e }).keepNotes r p ns
  | .pin page :: ns =>
    (if (s.part p).pinned.contains page then s
     else s.setPart p { s.part p with pinned := (s.part p).pinned ++ [page] }).keepNotes r p ns
  | .msg key :: ns => (s.sealMsg p key).keepNotes r p ns

end Sys2Proof.Machine
end

