-- ==== Sys2Proof/Machine/Numeric.lean ====
section
/-! DEFINITION. Numbers: the formats of R81 to R87, exact values, the rounding of R92 to R95 with the stochastic mode of
R93, and the FP32 arithmetic of R160, R215, R216, R221 and R234. -/

namespace Sys2Proof

/-! ### Exact magnitudes -/

/-- The exact magnitude of a value before it is rounded: m · 2^e; 2^(k/4), the magnitude of an LN6 element; 1 / (m · 2^e);
1 / √(m · 2^e); or an irrational number between n · 2^e and (n + 1) · 2^e whose distance to every midpoint that a target
has is far above 2^e (log entry 5). -/
inductive Mag where
  | dy (m : Nat) (e : Int)
  | root (k : Int)
  | recip (m : Nat) (e : Int)
  | rsqrt (m : Nat) (e : Int)
  | approx (n : Nat) (e : Int)
  deriving DecidableEq, Repr

/-- An exact value: NaN, an infinity, or a signed magnitude (a zero is a magnitude m · 2^e with m = 0). -/
inductive Ex where
  | nan
  | inf (neg : Bool)
  | num (neg : Bool) (g : Mag)
  deriving DecidableEq, Repr

/-- The bits of a square root, from bit `b` down. -/
def isqrtGo (n : Nat) : Nat → Nat → Nat
  | 0, r => if (r + 1) * (r + 1) ≤ n then r + 1 else r
  | b + 1, r => isqrtGo n b (if (r + 2 ^ (b + 1)) * (r + 2 ^ (b + 1)) ≤ n then r + 2 ^ (b + 1) else r)

/-- floor of the square root. -/
def isqrt (n : Nat) : Nat := isqrtGo n (Nat.log2 n / 2 + 1) 0

/-- m · 2^e as floor and inexactness, for any integer e. -/
def shiftAt (m : Nat) (e : Int) : Nat × Bool :=
  match e with
  | .ofNat k => (m * 2 ^ k, false)
  | .negSucc k => (m / 2 ^ (k + 1), m % 2 ^ (k + 1) != 0)

/-- floor(x · 2^s) of a magnitude x, and whether x · 2^s is not an integer. -/
def Mag.at (g : Mag) (s : Int) : Nat × Bool :=
  match g with
  | .dy m e => shiftAt m (e + s)
  | .root k =>
    match k + 4 * s with
    | .ofNat t => (isqrt (isqrt (2 ^ t)), t % 4 != 0)
    | .negSucc _ => (0, true)
  | .recip m e =>
    match s - e with
    | .ofNat t => (2 ^ t / m, 2 ^ t % m != 0)
    | .negSucc _ => (0, true)
  | .rsqrt m e =>
    match 2 * s - e with
    | .ofNat t => (isqrt (2 ^ t / m), isqrt (2 ^ t / m) * isqrt (2 ^ t / m) * m != 2 ^ t)
    | .negSucc _ => (0, true)
  | .approx n e => ((shiftAt n (e + s)).1, true)

/-- The magnitude is zero. -/
def Mag.isZero : Mag → Bool
  | .dy m _ => m == 0
  | _ => false

/-- floor(log2 x) of a magnitude that is not zero. -/
def Mag.lg (g : Mag) : Int :=
  match g with
  | .dy m e => (Nat.log2 m : Int) + e
  | .root k => k / 4
  | .approx n e => (Nat.log2 n : Int) + e
  | g => (Nat.log2 (g.at 400).1 : Int) - 400

/-- The magnitude times 2^x; only exact sources are ever scaled. -/
def Mag.scale (g : Mag) (x : Int) : Mag :=
  match g with
  | .dy m e => .dy m (e + x)
  | .root k => .root (k + 4 * x)
  | .recip m e => .recip m (e - x)
  | .rsqrt m e => .rsqrt m (e - 2 * x)
  | .approx n e => .approx n (e + x)

/-- A value times 2^x. -/
def Ex.scale (v : Ex) (x : Int) : Ex :=
  match v with
  | .num s g => .num s (g.scale x)
  | v => v

/-- The value is a NaN. -/
def Ex.isNan : Ex → Bool
  | .nan => true
  | _ => false

/-! ### Formats (R81 to R84) -/

/-- The code of a format tag (R81). -/
def Fmt.tag (f : Fmt) : Nat := Fmt.code f

/-- The format of a tag code; none for EMPTY and the reserved codes. -/
def tagFmt (c : Nat) : Option Fmt := Fmt.ofCode c

/-- Element width in bits (R81). -/
def Fmt.width : Fmt → Nat
  | .fp32 => 32
  | .int32 => 32
  | .uint32 => 32
  | .fp16 => 16
  | .bf16 => 16
  | _ => 8

/-- Elements to a row (R81). -/
def Fmt.count (f : Fmt) : Nat := 1024 / f.width

/-- The format is an integer format (R84). -/
def Fmt.isInt : Fmt → Bool
  | .int8 => true
  | .uint8 => true
  | .int32 => true
  | .uint32 => true
  | _ => false

/-- The format is signed, for an integer format. -/
def Fmt.signed : Fmt → Bool
  | .int8 => true
  | .int32 => true
  | _ => false

/-- A binary floating-point format: mantissa bits, bias, the encoding of the largest finite value, of infinity where there
is one, and the canonical NaN (R82, R86). -/
structure Flt where
  man  : Nat
  exp  : Nat
  bias : Nat
  big  : Nat
  inf  : Option Nat
  nan  : Nat

/-- FP32. -/
def flt32 : Flt := ⟨23, 8, 127, 0x7F7FFFFF, some 0x7F800000, 0x7FC00000⟩
/-- FP16. -/
def flt16 : Flt := ⟨10, 5, 15, 0x7BFF, some 0x7C00, 0x7E00⟩
/-- BF16. -/
def fltB16 : Flt := ⟨7, 8, 127, 0x7F7F, some 0x7F80, 0x7FC0⟩
/-- FP8L. -/
def flt8L : Flt := ⟨3, 4, 7, 0x7E, none, 0x7F⟩
/-- FP8W. -/
def flt8W : Flt := ⟨2, 5, 15, 0x7B, some 0x7C, 0x7E⟩

/-- The binary floating-point format of a tag, if it is one. -/
def Fmt.flt : Fmt → Option Flt
  | .fp32 => some flt32
  | .fp16 => some flt16
  | .bf16 => some fltB16
  | .fp8l => some flt8L
  | .fp8w => some flt8W
  | _ => none

/-- The width of a floating-point format. -/
def Flt.width (f : Flt) : Nat := 1 + f.exp + f.man

/-- The exact value of a floating-point encoding (R82). -/
def Flt.value (f : Flt) (b : Nat) : Ex :=
  let neg := b.testBit (f.width - 1)
  let r := b % 2 ^ (f.width - 1)
  if r ≤ f.big then
    let e := r / 2 ^ f.man
    if e = 0 then .num neg (.dy r (1 - (f.bias : Int) - f.man))
    else .num neg (.dy (2 ^ f.man + r % 2 ^ f.man) ((e : Int) - f.bias - f.man))
  else if f.inf = some r then .inf neg
  else .nan

/-- The exact value of an LN6 byte (R83). -/
def ln6Value (b : Nat) : Ex :=
  if b = 0 then .num false (.dy 0 0)
  else if b = 0x20 ∨ 64 ≤ b then .nan
  else .num (b.testBit 5) (.root ((b % 32 : Nat) - 16 : Int))

/-- The signed reading of a `w`-bit number. -/
def signedOf (w b : Nat) : Int := if b < 2 ^ (w - 1) then b else (b : Int) - 2 ^ w

/-- An integer as an exact value. -/
def intEx (z : Int) : Ex := .num (decide (z < 0)) (.dy z.natAbs 0)

/-- Element encoding `b` read in a format (R81 to R84). -/
def Fmt.value (f : Fmt) (b : Nat) : Ex :=
  match f.flt with
  | some x => x.value b
  | none =>
    if f = .ln6 then ln6Value b
    else if f.signed then intEx (signedOf f.width b)
    else intEx b

/-! ### Rounding (R92, R93, R95) -/

/-- The sign bit of a `w`-bit encoding. -/
def signBit (w : Nat) (neg : Bool) : Nat := if neg then 2 ^ (w - 1) else 0

/-- Round up from lo to hi, given the mode, the sign, the first 16 discarded bits, whether more are discarded, the lowest
bit of lo and, for STO, the hash (R92, R93). -/
def roundUp (rnd : Rnd) (neg : Bool) (d : Nat) (more odd : Bool) (h : Nat) : Bool :=
  if d = 0 ∧ more = false then false
  else
    match rnd with
    | .rne => decide (0x8000 < d) || (d == 0x8000 && (more || odd))
    | .rtz => false
    | .rdn => neg
    | .rup => !neg
    | .rna => decide (0x8000 ≤ d)
    | .sto => decide (2 ^ 16 ≤ d + h)

/-- The overflowed result takes the infinity rather than the largest finite value, where saturation is off (R95). -/
def overInf (rnd : Rnd) (neg : Bool) : Bool :=
  match rnd with
  | .rne => true
  | .rna => true
  | .rup => !neg
  | .rdn => neg
  | _ => false

/-- The unit exponent in which a magnitude is rounded. -/
def Flt.unit (f : Flt) (g : Mag) : Int := max g.lg (1 - (f.bias : Int)) - f.man

/-- The encoding, without sign and without bound, of n units of exponent q. -/
def Flt.enc (f : Flt) (n : Nat) (q : Int) : Nat := (q - (1 - (f.bias : Int) - f.man)).toNat * 2 ^ f.man + n

/-- The 16 bits of R93 for a floating-point target. -/
def Flt.disc (f : Flt) (v : Ex) : Nat :=
  match v with
  | .num _ g =>
    if g.isZero then 0
    else
      let q := f.unit g
      let n := (g.at (-q)).1
      let d := (g.at (16 - q)).1 % 2 ^ 16
      if f.enc n q > f.big ∨ (f.enc n q = f.big ∧ (g.at (-q)).2) then 0 else d
  | _ => 0

/-- The encoding that a magnitude rounds to, and the overflow of R95. -/
def Flt.roundMag (f : Flt) (rnd : Rnd) (sat neg : Bool) (h : Nat) (g : Mag) : Nat :=
  let q := f.unit g
  let n := (g.at (-q)).1
  let d := (g.at (16 - q)).1 % 2 ^ 16
  let more := (g.at (16 - q)).2
  let up := roundUp rnd neg (if rnd = .sto then f.disc (.num neg g) else d) more (n % 2 == 1) h
  let e := f.enc (if up then n + 1 else n) q
  if e ≤ f.big then e
  else
    match f.inf with
    | some i => if !sat && overInf rnd neg then i else f.big
    | none => f.big

/-- A value rounded to a floating-point format; an infinity stays one where the format has it (R92, R95). -/
def Flt.round (f : Flt) (rnd : Rnd) (sat : Bool) (h : Nat) (v : Ex) : Nat :=
  match v with
  | .nan => f.nan
  | .inf neg => (f.inf.getD f.big) + signBit f.width neg
  | .num neg g => (if g.isZero then 0 else f.roundMag rnd sat neg h g) + signBit f.width neg

/-- 2^((L−16)/4) as a magnitude. -/
def ln6Mag (l : Nat) : Mag := .root ((l : Int) - 16)

/-- The fixed-point precision used to compare with irrational bounds. -/
def fixBits : Nat := 320

/-- floor(x · 2^320). -/
def Mag.fix (g : Mag) : Nat := (g.at fixBits).1

/-- The greatest L from 1 to `n` whose LN6 magnitude does not exceed a magnitude; 0 when there is none. -/
def ln6Floor (g : Mag) : Nat → Nat
  | 0 => 0
  | l + 1 => if (ln6Mag (l + 1)).fix ≤ g.fix then l + 1 else ln6Floor g l

/-- A magnitude is an LN6 magnitude exactly: a power 2^(k/4) with L in range. -/
def ln6Exact (g : Mag) : Option Nat :=
  let l := ln6Floor g 31
  match g with
  | .root k => if k = (l : Int) - 16 ∧ l ≠ 0 then some l else none
  | .dy m e => if l ≠ 0 ∧ l % 4 = 0 ∧ m = 2 ^ Nat.log2 m ∧ 4 * ((Nat.log2 m : Int) + e) = (l : Int) - 16 then some l else none
  | _ => none

/-- A magnitude 2^−j · 2^−3.75 below the smallest LN6 magnitude, whose fraction is exactly 2^−j. It arises from an LN6
source under a negative pre-scale, the one kind of value that can be a tie (R92 to R94, R98). -/
def ln6Power (g : Mag) (l : Nat) : Option Nat :=
  match g with
  | .root k => if l = 0 ∧ (k + 15) % 4 = 0 then some ((-15 - k) / 4).toNat else none
  | _ => none

/-- 16 bits of the fraction between two LN6 magnitudes, whether the value is nearer the upper one, and whether it lies
midway (R92, R93). -/
def ln6Frac (g : Mag) (l : Nat) : Nat × Bool × Bool :=
  match ln6Power g l with
  | some j => (2 ^ 16 / 2 ^ j, false, j == 1)
  | none =>
    let lo := if l = 0 then 0 else (ln6Mag l).fix
    let hi := (ln6Mag (l + 1)).fix
    ((g.fix - lo) * 2 ^ 16 / (hi - lo), decide (lo + hi < 2 * g.fix), false)

/-- The magnitude lies above the largest LN6 magnitude. -/
def ln6Over (g : Mag) : Bool := ln6Floor g 31 == 31 && ln6Exact g == none

/-- The 16 bits of R93 for an LN6 target. -/
def ln6Disc (v : Ex) : Nat :=
  match v with
  | .num _ g => if g.isZero || ln6Over g || (ln6Exact g).isSome then 0 else (ln6Frac g (ln6Floor g 31)).1
  | _ => 0

/-- A value rounded to LN6 by value (R92, R94, R95). -/
def ln6Round (rnd : Rnd) (h : Nat) (v : Ex) : Nat :=
  match v with
  | .nan => 0x20
  | .inf neg => (if neg then 32 else 0) + 31
  | .num neg g =>
    if g.isZero then 0
    else
      let l :=
        match ln6Exact g with
        | some l => l
        | none =>
          let l := ln6Floor g 31
          if l = 31 then 31
          else
            let (d, near, tie) := ln6Frac g l
            let up :=
              match rnd with
              | .rne => near || (tie && l % 2 == 1)
              | .rna => near || tie
              | .rtz => false
              | .rdn => neg
              | .rup => !neg
              | .sto => decide (2 ^ 16 ≤ d + h)
            if up then l + 1 else l
      if l = 0 then 0 else (if neg then 32 else 0) + l

/-- The bounds of an integer format. -/
def Fmt.intLo (f : Fmt) : Int := if f.signed then -2 ^ (f.width - 1) else 0
/-- The bounds of an integer format. -/
def Fmt.intHi (f : Fmt) : Int := if f.signed then 2 ^ (f.width - 1) - 1 else 2 ^ f.width - 1

/-- The two's-complement encoding of an integer in `w` bits. -/
def intEnc (w : Nat) (z : Int) : Nat := (z % 2 ^ w).toNat

/-- A signed integer of a sign and magnitude. -/
def signInt (neg : Bool) (n : Nat) : Int := if neg then -(n : Int) else n

/-- The exact value lies outside the bounds of an integer format. -/
def Fmt.intOver (f : Fmt) (neg : Bool) (g : Mag) : Bool :=
  let (n, inex) := g.at 0
  if neg then decide (signInt true n < f.intLo) || (decide (signInt true n = f.intLo) && inex)
  else decide (f.intHi < (n : Int)) || (decide ((n : Int) = f.intHi) && inex)

/-- The 16 bits of R93 for an integer target. -/
def Fmt.intDisc (f : Fmt) (v : Ex) : Nat :=
  match v with
  | .num neg g => if f.intOver neg g then 0 else (g.at 16).1 % 2 ^ 16
  | _ => 0

/-- A value rounded to an integer format: rounded, then wrapped for an integer source without saturation, else clamped
(R94). -/
def Fmt.intRound (f : Fmt) (rnd : Rnd) (wrap : Bool) (h : Nat) (v : Ex) : Nat :=
  match v with
  | .nan => 0
  | .inf neg => intEnc f.width (if neg then f.intLo else f.intHi)
  | .num neg g =>
    let n := (g.at 0).1
    let d := if rnd = .sto then f.intDisc v else (g.at 16).1 % 2 ^ 16
    let z := signInt neg (if roundUp rnd neg d (g.at 16).2 (n % 2 == 1) h then n + 1 else n)
    intEnc f.width (if wrap then z else max f.intLo (min f.intHi z))

/-- The 16 discarded bits of R93 for any target. -/
def Fmt.disc (f : Fmt) (v : Ex) : Nat :=
  match f.flt with
  | some x => x.disc v
  | none => if f = .ln6 then ln6Disc v else f.intDisc v

/-- A value converted to a format with hash `h` (R92 to R95): an infinite source of a conversion saturates where the
saturate bit is set (R94). `fromInt` says that the source format is an integer format. -/
def Fmt.conv (f : Fmt) (rnd : Rnd) (sat fromInt : Bool) (h : Nat) (v : Ex) : Nat :=
  match f.flt with
  | some x =>
    match v with
    | .inf neg => (if sat then x.big else x.inf.getD x.big) + signBit x.width neg
    | v => x.round rnd sat h v
  | none => if f = .ln6 then ln6Round rnd h v else f.intRound rnd (fromInt && !sat) h v

/-- 16-bit left rotation. -/
def rotl16 (x k : Nat) : Nat := x * 2 ^ k % 2 ^ 16 + x / 2 ^ (16 - k)

/-- h_i of R93 for a row with discarded bits `ds`. -/
def stoHash (ds : List Nat) (i : Nat) : Nat :=
  let n := ds.length
  let l := ds.getD ((i + n - 1) % n) 0
  let r := ds.getD ((i + 1) % n) 0
  ((Nat.xor l (rotl16 r 7) * 0xA7B5) % 2 ^ 16) ^^^ (i * 0x3C6F % 2 ^ 16)

/-- The hashes of a row; they matter to STO alone. -/
def hashes (rnd : Rnd) (ds : List Nat) : List Nat :=
  if rnd = .sto then (List.range ds.length).map (stoHash ds) else ds.map (fun _ => 0)

/-- A row of values rounded to a floating-point format, each once; `none` is an element that is not rounded here, which
counts as D = 0 and reads as zero (R92, R93, R95). -/
def Flt.roundRow (f : Flt) (rnd : Rnd) (sat : Bool) (vs : List (Option Ex)) : List Nat :=
  let hs := hashes rnd (vs.map (fun v => match v with | some x => f.disc x | none => 0))
  (vs.zip hs).map (fun p => match p.1 with | some x => f.round rnd sat p.2 x | none => 0)

/-- A row of conversions to a format (R93, R94). -/
def Fmt.convRow (f : Fmt) (rnd : Rnd) (sat fromInt : Bool) (vs : List (Option Ex)) : List Nat :=
  let hs := hashes rnd (vs.map (fun v => match v with | some x => f.disc x | none => 0))
  (vs.zip hs).map (fun p => match p.1 with | some x => f.conv rnd sat fromInt p.2 x | none => 0)

/-! ### Exact arithmetic -/

/-- m1 · 2^e1 as a multiple of 2^e, for e not above e1. -/
def alignTo (m : Nat) (e1 e : Int) : Nat := m * 2 ^ (e1 - e).toNat

/-- The exact sum of two signed dyadic values; an exact zero takes the sign of IEEE 754 addition: −0 of two negative zeros,
and of opposite signs under RDN. -/
def addDy (rdn : Bool) (s1 : Bool) (m1 : Nat) (e1 : Int) (s2 : Bool) (m2 : Nat) (e2 : Int) : Ex :=
  let e := min e1 e2
  let z := signInt s1 (alignTo m1 e1 e) + signInt s2 (alignTo m2 e2 e)
  if z = 0 then .num (if m1 = 0 ∧ m2 = 0 ∧ s1 = s2 then s1 else rdn) (.dy 0 e)
  else .num (decide (z < 0)) (.dy z.natAbs e)

/-- a + b, exact (R215). -/
def Ex.add (rdn : Bool) (a b : Ex) : Ex :=
  match a, b with
  | .nan, _ => .nan
  | _, .nan => .nan
  | .inf s, .inf t => if s = t then .inf s else .nan
  | .inf s, _ => .inf s
  | _, .inf t => .inf t
  | .num s1 (.dy m1 e1), .num s2 (.dy m2 e2) => addDy rdn s1 m1 e1 s2 m2 e2
  | _, _ => .nan

/-- −a (R215). -/
def Ex.neg : Ex → Ex
  | .nan => .nan
  | .inf s => .inf (!s)
  | .num s g => .num (!s) g

/-- |a| (R215). -/
def Ex.abs : Ex → Ex
  | .nan => .nan
  | .inf _ => .inf false
  | .num _ g => .num false g

/-- The value is a zero. -/
def Ex.isZero : Ex → Bool
  | .num _ g => g.isZero
  | _ => false

/-- The sign of a value that is not NaN. -/
def Ex.sign : Ex → Bool
  | .nan => false
  | .inf s => s
  | .num s _ => s

/-- a × b, exact (R215). -/
def Ex.mul (a b : Ex) : Ex :=
  match a, b with
  | .nan, _ => .nan
  | _, .nan => .nan
  | .inf s, b => if b.isZero then .nan else .inf (s != b.sign)
  | a, .inf t => if a.isZero then .nan else .inf (a.sign != t)
  | .num s1 (.dy m1 e1), .num s2 (.dy m2 e2) => .num (s1 != s2) (.dy (m1 * m2) (e1 + e2))
  | _, _ => .nan

/-- Compare two dyadic magnitudes as signed values: negative, zero or positive. -/
def cmpDy (s1 : Bool) (m1 : Nat) (e1 : Int) (s2 : Bool) (m2 : Nat) (e2 : Int) : Int :=
  signInt s1 (alignTo m1 e1 (min e1 e2)) - signInt s2 (alignTo m2 e2 (min e1 e2))

/-- a < b, false when either is NaN (R218). -/
def Ex.lt (a b : Ex) : Bool :=
  match a, b with
  | .nan, _ => false
  | _, .nan => false
  | .inf s, .inf t => s && !t
  | .inf s, _ => s
  | _, .inf t => !t
  | .num s1 (.dy m1 e1), .num s2 (.dy m2 e2) => decide (cmpDy s1 m1 e1 s2 m2 e2 < 0)
  | _, _ => false

/-- a = b, false when either is NaN; −0 equals +0 (R218). -/
def Ex.eq (a b : Ex) : Bool :=
  match a, b with
  | .nan, _ => false
  | _, .nan => false
  | .inf s, .inf t => s == t
  | .num s1 (.dy m1 e1), .num s2 (.dy m2 e2) => decide (cmpDy s1 m1 e1 s2 m2 e2 = 0)
  | _, _ => false

/-- IEEE 754-2019 minimum, −0 below +0 (R160, R215). -/
def Ex.min (a b : Ex) : Ex :=
  if a.isNan || b.isNan then .nan
  else if a.lt b then a
  else if b.lt a then b
  else if a.sign then a else b

/-- IEEE 754-2019 maximum (R160, R215). -/
def Ex.max (a b : Ex) : Ex :=
  if a.isNan || b.isNan then .nan
  else if a.lt b then b
  else if b.lt a then a
  else if a.sign then b else a

/-- FP32 rounded by RNE, overflow to infinity (R234). -/
def rne32 (v : Ex) : Nat := flt32.round .rne false 0 v

/-- An FP32 encoding read. -/
def fp32 (b : Nat) : Ex := flt32.value b

/-- IEEE 754 FP32 addition with RNE (R234, R238). -/
def add32 (a b : Nat) : Nat := rne32 (Ex.add false (fp32 a) (fp32 b))

/-! ### Elementary functions (R216) -/

/-- Fixed-point exponential: Σ x^k / k!, with 2^F as one. -/
def expSum (x one : Nat) : Nat → Nat → Nat → Nat
  | 0, _, acc => acc
  | n + 1, term, acc => expSum x one n (term * x / one / (90 - n)) (acc + term)

/-- Fixed-point 2 · atanh(z) = 2 · Σ z^(2k+1) / (2k+1). -/
def atanhSum (z2 one : Nat) : Nat → Nat → Nat → Nat → Nat
  | 0, _, _, acc => 2 * acc
  | n + 1, k, p, acc => atanhSum z2 one n (k + 2) (p * z2 / one) (acc + p / k)

/-- ln of y / one, for y from one to 2 · one. -/
def lnFix (y one : Nat) : Nat :=
  let z := (y - one) * one / (y + one)
  atanhSum (z * z / one) one 120 1 z 0

/-- The fixed-point one of the elementary functions. -/
def fixOne : Nat := 2 ^ fixBits

/-- ln 2. -/
def ln2Fix : Nat := lnFix (2 * fixOne) fixOne

/-- log2 of m · 2^e: the integer part, and the fraction in units of 2^-320; the fraction is 0 just for a power of two. -/
def log2Fix (m : Nat) (e : Int) : Int × Nat :=
  let k := Nat.log2 m
  let y := m * fixOne / 2 ^ k
  ((k : Int) + e, if m = 2 ^ k then 0 else lnFix y fixOne * fixOne / ln2Fix)

/-- 2^f in units of 2^-320, for f in units of 2^-320 below one. -/
def exp2Fix (f : Nat) : Nat := expSum (f * ln2Fix / fixOne) fixOne 90 fixOne 0

/-- 1/a (R216). -/
def Ex.rcp : Ex → Ex
  | .nan => .nan
  | .inf s => .num s (.dy 0 0)
  | .num s (.dy m e) => if m = 0 then .inf s else .num s (.recip m e)
  | _ => .nan

/-- 1/√a (R216). -/
def Ex.rsq : Ex → Ex
  | .nan => .nan
  | .inf s => if s then .nan else .num false (.dy 0 0)
  | .num s (.dy m e) => if m = 0 then .inf s else if s then .nan else .num false (.rsqrt m e)
  | _ => .nan

/-- 2^a (R216). An exponent of more than 2^12 in magnitude lies beyond every result of FP32. -/
def Ex.exp2 : Ex → Ex
  | .nan => .nan
  | .inf s => if s then .num false (.dy 0 0) else .inf false
  | .num s (.dy m e) =>
    if m = 0 then .num false (.dy 1 0)
    else if 12 < (Nat.log2 m : Int) + e then .num false (.dy 1 (if s then -5000 else 5000))
    else
      let x := (shiftAt m (e + fixBits)).1
      let i := x / fixOne
      let f := x % fixOne
      if f = 0 then .num false (.dy 1 (if s then -(i : Int) else i))
      else if s then .num false (.approx (exp2Fix (fixOne - f)) (-(i : Int) - 1 - fixBits))
      else .num false (.approx (exp2Fix f) ((i : Int) - fixBits))
  | _ => .nan

/-- log2(a) (R216). -/
def Ex.log2 : Ex → Ex
  | .nan => .nan
  | .inf s => if s then .nan else .inf false
  | .num s (.dy m e) =>
    if m = 0 then .inf true
    else if s then .nan
    else
      let (k, f) := log2Fix m e
      if f = 0 then .num (decide (k < 0)) (.dy k.natAbs 0)
      else if 0 ≤ k then .num false (.approx (k.natAbs * fixOne + f) (-(fixBits : Int)))
      else .num true (.approx (k.natAbs * fixOne - f - 1) (-(fixBits : Int)))
  | _ => .nan

/-! ### VQLN (R103) -/

/-- λ of R103 of a finite value that is not zero: floor, and the fraction in units of 2^-320. -/
def lamFix (g : Mag) : Int × Nat :=
  match g with
  | .dy m e =>
    let (k, f) := log2Fix m e
    (16 + 4 * k + (4 * f / fixOne : Nat), 4 * f % fixOne)
  | _ => (0, 0)

/-- The 16 bits of R93 for VQLN: none for λ above 31. -/
def qlnDisc (v : Ex) : Nat :=
  match v with
  | .num _ g =>
    if g.isZero then 0
    else
      let (l, f) := lamFix g
      if l > 31 ∨ (l = 31 ∧ f ≠ 0) then 0 else f * 2 ^ 16 / fixOne
  | _ => 0

/-- A value quantised in the log domain (R103). -/
def qlnRound (rnd : Rnd) (h : Nat) (v : Ex) : Nat :=
  match v with
  | .num neg g =>
    if g.isZero then 0
    else
      let (lo, f) := lamFix g
      let up :=
        match rnd with
        | .rne => decide (fixOne < 2 * f)
        | .rna => decide (fixOne < 2 * f)
        | .rtz => false
        | .rdn => neg && decide (0 < f)
        | .rup => !neg && decide (0 < f)
        | .sto => decide (2 ^ 16 ≤ f * 2 ^ 16 / fixOne + h)
      let l : Int := min 31 (if up then lo + 1 else lo)
      let l : Int := if l ≤ 0 then (if (rnd = .rup ∧ neg = false) ∨ (rnd = .rdn ∧ neg = true) then 1 else 0) else l
      if l = 0 then 0 else (if neg then 32 else 0) + l.toNat
  | v => ln6Round rnd h v

/-! ### Atomics (R160) -/

/-- The new value of a read-modify-write of `w` bits (R160). -/
def aopNew (op : Aop) (w old b : Nat) : Nat :=
  match op with
  | .add => (old + b) % 2 ^ w
  | .and => old &&& b
  | .or => old ||| b
  | .xor => Nat.xor old b
  | .smin => if signedOf w b < signedOf w old then b else old
  | .smax => if signedOf w old < signedOf w b then b else old
  | .umin => Nat.min old b
  | .umax => Nat.max old b
  | .xchg => b
  | .fadd => add32 old b
  | .fmin => rne32 (Ex.min (fp32 old) (fp32 b))
  | .fmax => rne32 (Ex.max (fp32 old) (fp32 b))

end Sys2Proof
end

