-- ==== Sys2Proof/Machine/Operands.lean ====
section
/-! DEFINITION. Operand forms: the scalar registers an instruction reads, the rows that a wide operand names at a step
(R56 to R58), the operand positions of every VL, VS and VA instruction, the spans of the MMA family (R237), the tiles that
the footprint check covers, and the captured values that R43 checks. -/

namespace Sys2Proof

/-- The scalar registers that an instruction reads at issue (R32, R109). -/
def Instr.reads : Instr → List Nat
  | .mov _ sa => [sa]
  | .sel _ sa sb _ => [sa, sb]
  | .lea _ sa sb _ => [sa, sb]
  | .mts sa _ => [sa]
  | .add _ sa sb _ => [sa, sb]
  | .sub _ sa sb _ => [sa, sb]
  | .mul _ sa sb _ => [sa, sb]
  | .mulh _ sa sb => [sa, sb]
  | .mulhu _ sa sb => [sa, sb]
  | .div _ sa sb => [sa, sb]
  | .divu _ sa sb => [sa, sb]
  | .rem _ sa sb => [sa, sb]
  | .remu _ sa sb => [sa, sb]
  | .min _ sa sb => [sa, sb]
  | .max _ sa sb => [sa, sb]
  | .minu _ sa sb => [sa, sb]
  | .maxu _ sa sb => [sa, sb]
  | .and _ sa sb => [sa, sb]
  | .or _ sa sb => [sa, sb]
  | .xor _ sa sb => [sa, sb]
  | .andn _ sa sb => [sa, sb]
  | .shl _ sa sb => [sa, sb]
  | .shr _ sa sb => [sa, sb]
  | .sra _ sa sb => [sa, sb]
  | .rol _ sa sb => [sa, sb]
  | .clz _ sa => [sa]
  | .ctz _ sa => [sa]
  | .popc _ sa => [sa]
  | .brev _ sa => [sa]
  | .sext _ sa _ => [sa]
  | .zext _ sa _ => [sa]
  | .addi _ sa _ _ => [sa]
  | .muli _ sa _ _ => [sa]
  | .andi _ sa _ => [sa]
  | .ori _ sa _ => [sa]
  | .xori _ sa _ => [sa]
  | .shli _ sa _ => [sa]
  | .shri _ sa _ => [sa]
  | .srai _ sa _ => [sa]
  | .ldih sd _ => [sd]
  | .cmp _ sa sb _ => [sa, sb]
  | .cmpi _ sa _ _ => [sa]
  | .prepr _ sa => [sa]
  | .ret _ => [63]
  | .loop _ sa _ _ => [sa]
  | .loopp _ _ sa _ _ _ _ => [sa]
  | .lds _ _ sa _ _ _ => [sa]
  | .sts sd _ sa _ _ _ => [sd, sa]
  | .ldp _ sa _ _ => [sa]
  | .stp sd sa _ _ => [sd, sa]
  | .lde _ _ sa _ _ _ => [sa]
  | .ste sd _ sa _ _ _ => [sd, sa]
  | .atom _ sa _ _ _ _ sb => [sa, sb]
  | .atomf _ _ sa _ _ _ _ sb => [sa, sb]
  | .acas _ _ sa _ _ _ sb sc => [sa, sb, sc]
  | .capsel _ sa _ => [sa]
  | .capnar _ _ sb _ => [sb]
  | .tdset _ sa _ => [sa]
  | .pref _ sa sb _ _ _ _ => [sa, sb]
  | .hint _ sa sb _ _ => [sa, sb]
  | .waita sd _ sa _ _ _ _ => [sd, sa]
  | .tokp _ sa => [sa]
  | .vld _ _ sa sb _ _ _ => [sa, sb]
  | .vlds _ _ sa sb _ _ _ _ => [sa, sb]
  | .vldt _ _ sa sb _ _ _ => [sa, sb]
  | .vldg _ _ sa sb _ _ _ => [sa, sb]
  | .vldc _ _ sa sb _ _ _ => [sa, sb]
  | .vst _ _ sa sb _ _ _ => [sa, sb]
  | .vsts _ _ sa sb _ _ _ _ => [sa, sb]
  | .vstt _ _ sa sb _ _ _ => [sa, sb]
  | .vsct _ _ sa sb _ _ _ => [sa, sb]
  | .vstc _ _ sa sb _ _ _ => [sa, sb]
  | .vadd _ _ _ sN _ _ => [sN]
  | .vsub _ _ _ sN _ _ => [sN]
  | .vmul _ _ _ sN _ _ => [sN]
  | .vfma _ _ _ sN _ _ => [sN]
  | .vfms _ _ _ sN _ _ => [sN]
  | .vneg _ _ sN _ _ => [sN]
  | .vabs _ _ sN _ _ => [sN]
  | .vmin _ _ _ sN _ _ => [sN]
  | .vmax _ _ _ sN _ _ => [sN]
  | .vrcp _ _ sN _ _ => [sN]
  | .vrsq _ _ sN _ _ => [sN]
  | .vexp2 _ _ sN _ _ => [sN]
  | .vlog2 _ _ sN _ _ => [sN]
  | .viadd _ _ _ sN _ _ _ => [sN]
  | .visub _ _ _ sN _ _ _ => [sN]
  | .vimul _ _ _ sN _ _ _ => [sN]
  | .vand _ _ _ sN _ _ => [sN]
  | .vor _ _ _ sN _ _ => [sN]
  | .vxor _ _ _ sN _ _ => [sN]
  | .vshl _ _ _ sN _ _ => [sN]
  | .vshr _ _ _ sN _ _ => [sN]
  | .vsra _ _ _ sN _ _ => [sN]
  | .vimin _ _ _ sN _ _ _ => [sN]
  | .vimax _ _ _ sN _ _ _ => [sN]
  | .vcmp _ _ _ _ sN _ => [sN]
  | .vicmp _ _ _ _ sN _ => [sN]
  | .vmov _ _ sN _ _ => [sN]
  | .vsel _ _ _ sN _ _ => [sN]
  | .vbcst _ _ sN _ _ => [sN]
  | .vrmg _ _ _ sN _ _ => [sN]
  | .vidx _ sN _ _ => [sN]
  | .vcvt _ _ _ sN _ _ => [sN]
  | .vcvts _ _ _ sN _ _ => [sN]
  | .fmtm sa _ => [sa]
  | .mma _ _ _ sK _ _ _ _ => [sK]
  | .mmas _ _ _ sK _ _ _ _ _ => [sK]
  | .mmal _ _ _ sK _ _ _ _ _ => [sK]
  | .mmaz _ _ _ sK _ _ _ _ => [sK]
  | .mxsa _ sa sb _ => [sa, sb]
  | .mxsb _ sa sb _ => [sa, sb]
  | .mxsm _ sa _ => [sa]
  | .bget _ sa sb sc sF _ _ => [sa, sb, sc, sF]
  | .bput _ sa sb sc sF _ => [sa, sb, sc, sF]
  | .bcpy _ sa sb sc sF _ => [sa, sb, sc, sF]
  | .bfill _ sloc sc sF _ _ => [sloc, sc, sF]
  | .xflag sF _ => [sF]
  | .bcan sF _ => [sF]
  | .rlpub _ sa sb sc sF _ _ => [sa, sb, sc, sF]
  | .rlstp sa sF _ => [sa, sF]
  | .rlqry sb sF _ => [sb, sF]
  | .cbind sb sF _ _ _ => [sb, sF]
  | .crel sF _ _ _ => [sF]
  | .ccoll _ sa sb sc sF _ => [sa, sb, sc, sF]
  | .ccmp _ sa sb sc sF _ _ => [sa, sb, sc, sF]
  | .cdcp _ sa sb sc sF _ _ => [sa, sb, sc, sF]
  | .cstat sb sF _ => [sb, sF]
  | .tspawn _ _ sa sb _ => [sa, sb]
  | .tdep _ sa sb _ => [sa, sb]
  | .tprio _ sa sb => [sa, sb]
  | .gjoin _ sa _ => [sa]
  | .gleave _ sa _ => [sa]
  | .gbar _ sa _ => [sa]
  | .gmem _ sa _ => [sa]
  | .tlinc _ _ sa sb _ => [sa, sb]
  | .tlset _ _ sa sb _ => [sa, sb]
  | .tlwait _ _ sa sb _ => [sa, sb]
  | .tlget _ _ sa _ => [sa]
  | .resq _ sa sb _ => [sa, sb]
  | .reshint sa sb _ _ _ => [sa, sb]
  | .trap sa _ _ => [sa]
  | .eret sa _ => [sa]
  | .mfsp _ sa _ => [sa]
  | .mtsp sa sb _ => [sa, sb]
  | .ctxsv _ sa sb _ _ _ => [sa, sb]
  | .ctxld _ sb _ _ => [sb]
  | .fltinfo _ sa _ => [sa]
  | .tlbiv _ sa sb _ => [sa, sb]
  | .unmap _ sa _ => [sa]
  | .rgnasn _ sa sb => [sa, sb]
  | .rgnwin _ sa => [sa]
  | .rgnrst _ sa => [sa]
  | .scrub _ sa _ => [sa]
  | .scrst _ sa _ => [sa]
  | .tokchk _ sa sb _ _ => [sa, sb]
  | .keyz _ sa => [sa]
  | .msgf _ sa _ _ => [sa]
  | .xenq _ sa _ _ => [sa]
  | .lkst _ sa _ => [sa]
  | .lkdrn _ sa => [sa]
  | .lktop _ sa _ => [sa]
  | .lkrsm _ sa => [sa]
  | .lsacq _ sa sb _ => [sa, sb]
  | .lsrnw _ sb => [sb]
  | .errlog _ sa _ _ => [sa]
  | _ => []


/-- The resource numbers of rows: tile · 32 + row. -/
def rowId (tile row : Nat) : Nat := tile * 32 + row

/-- A wide operand `m` steps on: the 10-bit value (tile :: index) + m (R58). -/
def WOp.step (o : WOp) (m : Nat) : WOp :=
  match o with
  | .h t i => .h ((t * 32 + i + m) / 32) ((t * 32 + i + m) % 32)
  | .v t i => .v ((t * 32 + i + m) / 32) ((t * 32 + i + m) % 32)
  | .d t i => .d ((t * 32 + i + m) / 32) ((t * 32 + i + m) % 32)
  | .q n => .q n
  | .bcast => .bcast

/-- The tile a wide operand names, if any. -/
def WOp.tile? : WOp → Option Nat
  | .h t _ => some t
  | .v t _ => some t
  | .d t _ => some t
  | _ => none

/-- The rows that an operand covers: one for direction h, every row of the tile for v and d (R198). -/
def WOp.rows (o : WOp) : List Nat :=
  match o with
  | .h t i => [rowId t i]
  | .v t _ => (List.range 32).map (rowId t)
  | .d t _ => (List.range 32).map (rowId t)
  | _ => []

/-- An operand position of a command: the operand and how many rows it advances at each step; 0 for a row that does not
advance. -/
structure Port where
  op  : WOp
  per : Nat := 1
  deriving DecidableEq, Repr

/-- The operand rows of a port at step `m`. -/
def Port.at (p : Port) (m : Nat) : List WOp :=
  if p.per = 0 then [p.op] else (List.range p.per).map (fun j => p.op.step (m * p.per + j))

/-- The number of rows that a port names in a command of `n` steps. -/
def Port.total (p : Port) (n : Nat) : Nat := if p.per = 0 then 1 else p.per * n

/-- Steps of a wide command (R58). -/
def Instr.steps : Instr → Nat
  | .pref _ _ _ _ _ _ r => r + 1
  | .hint _ _ _ r _ => r + 1
  | .vld _ _ _ _ _ r _ => r + 1
  | .vlds _ _ _ _ _ r _ _ => r + 1
  | .vldt _ _ _ _ _ r _ => r + 1
  | .vldg _ _ _ _ _ r _ => r + 1
  | .vldc _ _ _ _ _ r _ => r + 1
  | .vst _ _ _ _ _ r _ => r + 1
  | .vsts _ _ _ _ _ r _ _ => r + 1
  | .vstt _ _ _ _ _ r _ => r + 1
  | .vsct _ _ _ _ _ r _ => r + 1
  | .vstc _ _ _ _ _ r _ => r + 1
  | .vadd _ _ _ _ _ r => r + 1
  | .vsub _ _ _ _ _ r => r + 1
  | .vmul _ _ _ _ _ r => r + 1
  | .vfma _ _ _ _ _ r => r + 1
  | .vfms _ _ _ _ _ r => r + 1
  | .vneg _ _ _ _ r => r + 1
  | .vabs _ _ _ _ r => r + 1
  | .vmin _ _ _ _ _ r => r + 1
  | .vmax _ _ _ _ _ r => r + 1
  | .vrcp _ _ _ _ r => r + 1
  | .vrsq _ _ _ _ r => r + 1
  | .vexp2 _ _ _ _ r => r + 1
  | .vlog2 _ _ _ _ r => r + 1
  | .viadd _ _ _ _ _ r _ => r + 1
  | .visub _ _ _ _ _ r _ => r + 1
  | .vimul _ _ _ _ _ r _ => r + 1
  | .vand _ _ _ _ _ r => r + 1
  | .vor _ _ _ _ _ r => r + 1
  | .vxor _ _ _ _ _ r => r + 1
  | .vshl _ _ _ _ _ r => r + 1
  | .vshr _ _ _ _ _ r => r + 1
  | .vsra _ _ _ _ _ r => r + 1
  | .vimin _ _ _ _ _ r _ => r + 1
  | .vimax _ _ _ _ _ r _ => r + 1
  | .vmov _ _ _ _ r => r + 1
  | .vsel _ _ _ _ _ r => r + 1
  | .vbcst _ _ _ _ r => r + 1
  | .vperm _ _ _ _ r => r + 1
  | .vrmg _ _ _ _ _ r => r + 1
  | .vidx _ _ _ r => r + 1
  | .vred _ _ _ r _ => r + 1
  | .vreds _ _ _ r _ => r + 1
  | .vscan _ _ _ r _ => r + 1
  | .vcvt _ _ _ _ _ r => r + 1
  | .vcvts _ _ _ _ _ r => r + 1
  | .vscl _ _ _ _ r _ => r + 1
  | .vpack _ _ _ r _ => r + 1
  | .vunpk _ _ _ _ r => r + 1
  | .vqln _ _ _ _ r => r + 1
  | _ => 1

/-- The third operand of VFMA and VFMS (R60): the destination where a source holds the broadcast or sN is s0. -/
def thirdIsDst (a b : WOp) (sN : Nat) : Bool := a.isBcast || b.isBcast || sN == 0

/-- The source positions of a VS or VA instruction, in the order srcA, srcB, third operand; `f` is the rows per step of
VCVTS (R99). -/
def Instr.ins (f : Nat) : Instr → List Port
  | .vst o _ _ _ _ _ _ => [⟨o, 1⟩]
  | .vsts o _ _ _ _ _ _ _ => [⟨o, 1⟩]
  | .vstt o _ _ _ _ _ _ => [⟨o, 1⟩]
  | .vsct o _ _ _ _ _ _ => [⟨o, 1⟩]
  | .vstc o _ _ _ _ _ _ => [⟨o, 1⟩]
  | .vadd _ a b _ _ _ => [⟨a, 1⟩, ⟨b, 1⟩]
  | .vsub _ a b _ _ _ => [⟨a, 1⟩, ⟨b, 1⟩]
  | .vmul _ a b _ _ _ => [⟨a, 1⟩, ⟨b, 1⟩]
  | .vfma d a b s _ _ => [⟨a, 1⟩, ⟨b, 1⟩] ++ (if thirdIsDst a b s then [⟨d, 1⟩] else [])
  | .vfms d a b s _ _ => [⟨a, 1⟩, ⟨b, 1⟩] ++ (if thirdIsDst a b s then [⟨d, 1⟩] else [])
  | .vneg _ a _ _ _ => [⟨a, 1⟩]
  | .vabs _ a _ _ _ => [⟨a, 1⟩]
  | .vmin _ a b _ _ _ => [⟨a, 1⟩, ⟨b, 1⟩]
  | .vmax _ a b _ _ _ => [⟨a, 1⟩, ⟨b, 1⟩]
  | .vrcp _ a _ _ _ => [⟨a, 1⟩]
  | .vrsq _ a _ _ _ => [⟨a, 1⟩]
  | .vexp2 _ a _ _ _ => [⟨a, 1⟩]
  | .vlog2 _ a _ _ _ => [⟨a, 1⟩]
  | .viadd _ a b _ _ _ _ => [⟨a, 1⟩, ⟨b, 1⟩]
  | .visub _ a b _ _ _ _ => [⟨a, 1⟩, ⟨b, 1⟩]
  | .vimul _ a b _ _ _ _ => [⟨a, 1⟩, ⟨b, 1⟩]
  | .vand _ a b _ _ _ => [⟨a, 1⟩, ⟨b, 1⟩]
  | .vor _ a b _ _ _ => [⟨a, 1⟩, ⟨b, 1⟩]
  | .vxor _ a b _ _ _ => [⟨a, 1⟩, ⟨b, 1⟩]
  | .vshl _ a b _ _ _ => [⟨a, 1⟩, ⟨b, 1⟩]
  | .vshr _ a b _ _ _ => [⟨a, 1⟩, ⟨b, 1⟩]
  | .vsra _ a b _ _ _ => [⟨a, 1⟩, ⟨b, 1⟩]
  | .vimin _ a b _ _ _ _ => [⟨a, 1⟩, ⟨b, 1⟩]
  | .vimax _ a b _ _ _ _ => [⟨a, 1⟩, ⟨b, 1⟩]
  | .vcmp _ _ a b _ _ => [⟨a, 1⟩, ⟨b, 1⟩]
  | .vicmp _ _ a b _ _ => [⟨a, 1⟩, ⟨b, 1⟩]
  | .vmov _ a _ _ _ => [⟨a, 1⟩]
  | .vsel _ a b _ _ _ => [⟨a, 1⟩, ⟨b, 1⟩]
  | .vbcst _ a _ _ _ => [⟨a, 1⟩]
  | .vperm _ a b _ _ => [⟨a, 1⟩, ⟨b, 1⟩]
  | .vrmg _ a b _ _ _ => [⟨a, 1⟩, ⟨b, 1⟩]
  | .vred _ a _ _ _ => [⟨a, 1⟩]
  | .vreds _ a _ _ _ => [⟨a, 1⟩]
  | .vscan _ a _ _ _ => [⟨a, 1⟩]
  | .vcvt _ a _ _ _ _ => [⟨a, 1⟩]
  | .vcvts _ a _ _ _ _ => [⟨a, f⟩]
  | .vscl _ a b _ _ _ => [⟨a, 1⟩, ⟨b, 0⟩]
  | .vpack _ a _ _ _ => [⟨a, 2⟩]
  | .vunpk _ a _ _ _ => [⟨a, 1⟩]
  | .vqln _ a _ _ _ => [⟨a, 1⟩]
  | _ => []

/-- The destination of a VL or VA instruction. -/
def Instr.outs : Instr → List Port
  | .vld o _ _ _ _ _ _ => [⟨o, 1⟩]
  | .vlds o _ _ _ _ _ _ _ => [⟨o, 1⟩]
  | .vldt o _ _ _ _ _ _ => [⟨o, 1⟩]
  | .vldg o _ _ _ _ _ _ => [⟨o, 1⟩]
  | .vldc o _ _ _ _ _ _ => [⟨o, 1⟩]
  | .vadd d _ _ _ _ _ => [⟨d, 1⟩]
  | .vsub d _ _ _ _ _ => [⟨d, 1⟩]
  | .vmul d _ _ _ _ _ => [⟨d, 1⟩]
  | .vfma d _ _ _ _ _ => [⟨d, 1⟩]
  | .vfms d _ _ _ _ _ => [⟨d, 1⟩]
  | .vneg d _ _ _ _ => [⟨d, 1⟩]
  | .vabs d _ _ _ _ => [⟨d, 1⟩]
  | .vmin d _ _ _ _ _ => [⟨d, 1⟩]
  | .vmax d _ _ _ _ _ => [⟨d, 1⟩]
  | .vrcp d _ _ _ _ => [⟨d, 1⟩]
  | .vrsq d _ _ _ _ => [⟨d, 1⟩]
  | .vexp2 d _ _ _ _ => [⟨d, 1⟩]
  | .vlog2 d _ _ _ _ => [⟨d, 1⟩]
  | .viadd d _ _ _ _ _ _ => [⟨d, 1⟩]
  | .visub d _ _ _ _ _ _ => [⟨d, 1⟩]
  | .vimul d _ _ _ _ _ _ => [⟨d, 1⟩]
  | .vand d _ _ _ _ _ => [⟨d, 1⟩]
  | .vor d _ _ _ _ _ => [⟨d, 1⟩]
  | .vxor d _ _ _ _ _ => [⟨d, 1⟩]
  | .vshl d _ _ _ _ _ => [⟨d, 1⟩]
  | .vshr d _ _ _ _ _ => [⟨d, 1⟩]
  | .vsra d _ _ _ _ _ => [⟨d, 1⟩]
  | .vimin d _ _ _ _ _ _ => [⟨d, 1⟩]
  | .vimax d _ _ _ _ _ _ => [⟨d, 1⟩]
  | .vmov d _ _ _ _ => [⟨d, 1⟩]
  | .vsel d _ _ _ _ _ => [⟨d, 1⟩]
  | .vbcst d _ _ _ _ => [⟨d, 1⟩]
  | .vperm d _ _ _ _ => [⟨d, 1⟩]
  | .vrmg d _ _ _ _ _ => [⟨d, 1⟩]
  | .vidx d _ _ _ => [⟨d, 1⟩]
  | .vred d _ _ _ _ => [⟨d, 1⟩]
  | .vreds d _ _ _ _ => [⟨d, 0⟩]
  | .vscan d _ _ _ _ => [⟨d, 1⟩]
  | .vcvt d _ _ _ _ _ => [⟨d, 1⟩]
  | .vcvts d _ _ _ _ _ => [⟨d, 1⟩]
  | .vscl d _ _ _ _ _ => [⟨d, 1⟩]
  | .vpack d _ _ _ _ => [⟨d, 1⟩]
  | .vunpk d _ _ _ _ => [⟨d, 2⟩]
  | .vqln d _ _ _ _ => [⟨d, 1⟩]
  | _ => []

/-- Predicates that an engine command reads. -/
def Instr.predIn : Instr → List Nat
  | .vld _ _ _ _ _ _ pN => [pN]
  | .vlds _ _ _ _ _ _ pN _ => [pN]
  | .vldt _ _ _ _ _ _ pN => [pN]
  | .vldg _ _ _ _ _ _ pN => [pN]
  | .vldc _ _ _ _ _ _ pN => [pN]
  | .vst _ _ _ _ _ _ pN => [pN]
  | .vsts _ _ _ _ _ _ pN _ => [pN]
  | .vstt _ _ _ _ _ _ pN => [pN]
  | .vsct _ _ _ _ _ _ pN => [pN]
  | .vstc _ _ _ _ _ _ pN => [pN]
  | .vadd _ _ _ _ pN _ => [pN]
  | .vsub _ _ _ _ pN _ => [pN]
  | .vmul _ _ _ _ pN _ => [pN]
  | .vfma _ _ _ _ pN _ => [pN]
  | .vfms _ _ _ _ pN _ => [pN]
  | .vneg _ _ _ pN _ => [pN]
  | .vabs _ _ _ pN _ => [pN]
  | .vmin _ _ _ _ pN _ => [pN]
  | .vmax _ _ _ _ pN _ => [pN]
  | .vrcp _ _ _ pN _ => [pN]
  | .vrsq _ _ _ pN _ => [pN]
  | .vexp2 _ _ _ pN _ => [pN]
  | .vlog2 _ _ _ pN _ => [pN]
  | .viadd _ _ _ _ pN _ _ => [pN]
  | .visub _ _ _ _ pN _ _ => [pN]
  | .vimul _ _ _ _ pN _ _ => [pN]
  | .vand _ _ _ _ pN _ => [pN]
  | .vor _ _ _ _ pN _ => [pN]
  | .vxor _ _ _ _ pN _ => [pN]
  | .vshl _ _ _ _ pN _ => [pN]
  | .vshr _ _ _ _ pN _ => [pN]
  | .vsra _ _ _ _ pN _ => [pN]
  | .vimin _ _ _ _ pN _ _ => [pN]
  | .vimax _ _ _ _ pN _ _ => [pN]
  | .vcmp _ _ _ _ _ pN => [pN]
  | .vicmp _ _ _ _ _ pN => [pN]
  | .pand _ pa pb => [pa, pb]
  | .por _ pa pb => [pa, pb]
  | .pxor _ pa pb => [pa, pb]
  | .pnot _ pa => [pa]
  | .pmov _ pa => [pa]
  | .vmov _ _ _ pN _ => [pN]
  | .vsel _ _ _ _ pS _ => [pS]
  | .vbcst _ _ _ pN _ => [pN]
  | .vperm _ _ _ pN _ => [pN]
  | .vrmg _ _ _ _ pN _ => [pN]
  | .vidx _ _ pN _ => [pN]
  | .vred _ _ pN _ _ => [pN]
  | .vreds _ _ pN _ _ => [pN]
  | .vscan _ _ pN _ _ => [pN]
  | .vcvt _ _ _ _ pN _ => [pN]
  | .vcvts _ _ _ _ pN _ => [pN]
  | .vscl _ _ _ pN _ _ => [pN]
  | .vpack _ _ pN _ _ => [pN]
  | .vunpk _ _ _ pN _ => [pN]
  | .vqln _ _ _ pN _ => [pN]
  | _ => []

/-- The predicate that a VA command writes. -/
def Instr.predOut : Instr → List Nat
  | .vcmp pd _ _ _ _ _ => [pd]
  | .vicmp pd _ _ _ _ _ => [pd]
  | .pand pd _ _ => [pd]
  | .por pd _ _ => [pd]
  | .pxor pd _ _ => [pd]
  | .pnot pd _ => [pd]
  | .pmov pd _ => [pd]
  | _ => []

/-- sN of an instruction that takes it from the broadcast bus. -/
def Instr.bus : Instr → Nat
  | .vadd _ _ _ s _ _ => s
  | .vsub _ _ _ s _ _ => s
  | .vmul _ _ _ s _ _ => s
  | .vfma _ _ _ s _ _ => s
  | .vfms _ _ _ s _ _ => s
  | .vneg _ _ s _ _ => s
  | .vabs _ _ s _ _ => s
  | .vmin _ _ _ s _ _ => s
  | .vmax _ _ _ s _ _ => s
  | .vrcp _ _ s _ _ => s
  | .vrsq _ _ s _ _ => s
  | .vexp2 _ _ s _ _ => s
  | .vlog2 _ _ s _ _ => s
  | .viadd _ _ _ s _ _ _ => s
  | .visub _ _ _ s _ _ _ => s
  | .vimul _ _ _ s _ _ _ => s
  | .vand _ _ _ s _ _ => s
  | .vor _ _ _ s _ _ => s
  | .vxor _ _ _ s _ _ => s
  | .vshl _ _ _ s _ _ => s
  | .vshr _ _ _ s _ _ => s
  | .vsra _ _ _ s _ _ => s
  | .vimin _ _ _ s _ _ _ => s
  | .vimax _ _ _ s _ _ _ => s
  | .vcmp _ _ _ _ s _ => s
  | .vicmp _ _ _ _ s _ => s
  | .vmov _ _ s _ _ => s
  | .vsel _ _ _ s _ _ => s
  | .vbcst _ _ s _ _ => s
  | .vrmg _ _ _ s _ _ => s
  | .vidx _ s _ _ => s
  | .vcvt _ _ _ s _ _ => s
  | .vcvts _ _ _ s _ _ => s
  | _ => 0

/-! ### Tags at issue (R88, R392) -/

/-- The issue-time tag of a tile as an operand sees it. -/
def WOp.tileTag (o : WOp) (x : Machine.Ctx) : Machine.Tag :=
  match o.tile? with
  | some t => x.tag t
  | none => {}

/-- The known tag of the first entry that a consumer of queue `q` claims, if its producer has issued (R392). -/
def knownTag (x : Machine.Ctx) (q : Nat) : Option Machine.Tag := (Machine.mget [] x.unclaimed q).head?

/-- Rows per step of VCVTS: 4 for a 32-bit source and 2 otherwise (R99). A source of another width faults at its step. -/
def vcvtsRows (a : WOp) (x : Machine.Ctx) : Nat :=
  let t := match a with
    | .q n => (knownTag x n).getD {}
    | o => o.tileTag x
  match tagFmt t.code with
  | some f => if f.width = 32 then 4 else 2
  | none => 2

/-- Rows per step of a VCVTS; 1 for every other instruction. -/
def Instr.perStep (i : Instr) (x : Machine.Ctx) : Nat :=
  match i with
  | .vcvts _ a _ _ _ _ => vcvtsRows a x
  | _ => 1

/-- Queue rows that a command consumes, a queue named twice once (R59, R203): (queue, rows). -/
def Instr.claims (f : Nat) (i : Instr) : List (Nat × Nat) :=
  ((i.ins f).filterMap (fun p => match p.op with | .q n => some (n, p.total i.steps) | _ => none)).eraseDups

/-- Queue rows that a command produces. -/
def Instr.makes (i : Instr) : List (Nat × Nat) :=
  (i.outs).filterMap (fun p => match p.op with | .q n => some (n, p.total i.steps) | _ => none)

/-! ### The MMA family at issue (R224, R225, R237) -/

/-- The parts of an MMA-family instruction: accumulator, ma, mb, sK, formats and ms register. -/
structure Mma where
  acc : Nat
  ma  : Nat
  mb  : Nat
  sK  : Nat
  fa  : MxFmt
  fb  : MxFmt
  ms  : Option Nat
  jet : Nat
  ord : AccOrd
  z   : Bool
  deriving DecidableEq, Repr

/-- The MMA-family instruction, if it is one. -/
def Instr.mma? : Instr → Option Mma
  | .mma acc ma mb sK jet fa fb o => some ⟨acc, ma, mb, sK, fa, fb, none, jet, o, false⟩
  | .mmas acc ma mb sK jet fa fb o ms => some ⟨acc, ma, mb, sK, fa, fb, some ms, jet, o, false⟩
  | .mmal acc ma mb sK jet fa fb o ms => some ⟨acc, ma, mb, sK, fa, fb, ms, jet, o, false⟩
  | .mmaz acc ma mb sK jet fa fb o => some ⟨acc, ma, mb, sK, fa, fb, none, jet, o, true⟩
  | _ => none

/-- The chunk width w_c (R225). -/
def MxFmt.chunk (f : MxFmt) : Nat := if f.wide then 16 else 32

/-- Element width in bytes (R226). -/
def MxFmt.bytes (f : MxFmt) : Nat := if f.wide then 2 else 1

/-- The tag that an operand in tiles must carry, with its scaled bit (R225). -/
def MxFmt.tag : MxFmt → Machine.Tag
  | .fp8l => ⟨3, false⟩
  | .fp8w => ⟨4, false⟩
  | .bf16 => ⟨2, false⟩
  | .fp16 => ⟨1, false⟩
  | .ln6 => ⟨5, false⟩
  | .fp8ls => ⟨3, true⟩
  | .fp8ws => ⟨4, true⟩
  | .ln6s => ⟨5, true⟩

/-- MODE of an ms image (R230). -/
def msMode (w : Word) : Nat := Machine.bits w 29 28
/-- The first bitmap row. -/
def msBmap (w : Word) : Nat := Machine.bits w 9 0
/-- The first 2:4 index row. -/
def msIdx (w : Word) : Nat := Machine.bits w 25 16
/-- The ms image of a command; zero for a dense one. -/
def Mma.image (a : Mma) (x : Machine.Ctx) : Word :=
  match a.ms with
  | some n => Machine.mget 0 x.ms n
  | none => 0

/-- The live width of a stored chunk for an ms image: 2:4 covers twice the chunk (R233, R237). -/
def liveWidth (f : MxFmt) (ms : Word) : Nat := if 2 ≤ msMode ms then 2 * f.chunk else f.chunk

/-- ceil(a / b). -/
def cdiv (a b : Nat) : Nat := (a + b - 1) / b

/-- The K extent for a value of sK (R237). -/
def mmaK (sK : Nat) (v : Word) (f : MxFmt) (ms : Word) : Nat := if sK = 0 then liveWidth f ms else v.toNat

/-- LOC of a tile operand, and the first scale row. -/
def maLoc (m : Machine.MaImage) : Nat := Machine.bits m.wa 31 0
/-- SCL of an operand image. -/
def maScl (m : Machine.MaImage) : Nat := Machine.bits m.wa 41 32

/-- The spans of a command, as (first row, rows), of its A tiles, B tiles, A scales, B scales, bitmap and index rows, as
though every weight vector were live (R237). -/
def mmaSpans (a : Mma) (ma mb : Machine.MaImage) (ms : Word) (k : Nat) : List (Nat × Nat) :=
  let nmax := cdiv k (liveWidth a.fa ms)
  (if ma.src = .tile then [(maLoc ma * 32, 32 * cdiv (k * a.fa.bytes) 128)] else []) ++
    (if mb.src = .tile then [(maLoc mb * 32, 32 * cdiv nmax 4)] else []) ++
    (if a.fa.scaled then [(maScl ma, cdiv (cdiv k 32) 4)] else []) ++
    (if a.fb.scaled then [(maScl mb, cdiv nmax 4)] else []) ++
    (if msMode ms % 2 = 1 then [(msBmap ms, cdiv k 1024)] else []) ++
    (if 2 ≤ msMode ms then [(msIdx ms, 2 * nmax)] else [])

/-- The tiles that a span of rows touches. -/
def spanTiles (s : Nat × Nat) : List Nat := (List.range ((s.1 + s.2 - 1) / 32 + 1 - s.1 / 32)).map (fun j => s.1 / 32 + j)

/-- The checks of R237 that raise 0x02, and the unset ms image of R230. -/
def mmaOk (a : Mma) (x : Machine.Ctx) : Bool :=
  let ms := a.image x
  let k := mmaK a.sK (x.reg a.sK) a.fa ms
  let sp := mmaSpans a (Machine.mget {} x.ma a.ma) (Machine.mget {} x.mb a.mb) ms k
  (a.ms == none || decide (msMode ms ≠ 0)) && decide (k ≠ 0) && decide (k ≤ 1048576) &&
    decide (k % (if a.fa.wide ∧ a.ms = none then 16 else 32) = 0) && sp.all (fun s => decide (s.1 + s.2 ≤ 1024)) &&
    !(sp.any (fun s => (spanTiles s).contains a.acc))

/-! ### Captured values and footprints (checks 5 and 7 of R43) -/

/-- The wide operand field that names the scale row of a VCVTS (R99). -/
def scaleField (v : Word) : Nat := Machine.bits v 9 0

/-- A format tag is refused while LN6 is not accepted (R385). -/
def tagAbsent (feat : Nat → Bool) (f : Fmt) : Bool := f == .ln6 && !feat 0

/-- A conversion control word is refused for a feature that was not accepted (R385). -/
def cwOk (feat : Nat → Bool) (cw : CvtWord) : Bool := !tagAbsent feat cw.target && (cw.rnd != .sto || feat 2)

/-- The values that the instruction captures, and those that an absent feature makes reserved, are legal (R43, R99, R237,
R385): false raises 0x02. -/
def Instr.valuesOk (i : Instr) (x : Machine.Ctx) (feat : Nat → Bool) : Bool :=
  match i with
  | .vcvt _ _ cw _ _ _ => cwOk feat cw
  | .vunpk _ _ cw _ _ => cwOk feat cw
  | .vqln _ _ cw _ _ => cwOk feat cw
  | .ttag _ f _ => !tagAbsent feat f
  | .vcvts _ a cw sN _ r =>
    cwOk feat cw && decide (Machine.bits (x.reg sN) 63 12 = 0) && decide (Machine.bits (x.reg sN) 11 10 = 0) &&
      a.span (vcvtsRows a x * (r + 1))
  | .mmal _ _ _ _ _ _ _ _ (some _) => feat 1 && (i.mma?.all (fun a => mmaOk a x))
  | i => i.mma?.all (fun a => mmaOk a x)

/-- The tiles that an instruction's operands touch, over all its steps (R58, R99, R104, R105, R237). -/
def Instr.tiles (i : Instr) (x : Machine.Ctx) : List Nat :=
  let f := i.perStep x
  let ports := (i.ins f ++ i.outs).flatMap (fun p =>
    if p.op.tile?.isSome then spanTiles (p.op.pos, p.total i.steps) else [])
  match i with
  | .vcvts _ _ _ sN _ _ => ports ++ [scaleField (x.reg sN) / 32]
  | .ttag t _ _ => [t]
  | .ttget _ t => [t]
  | i =>
    match i.mma? with
    | some a =>
      let ms := a.image x
      a.acc :: (mmaSpans a (Machine.mget {} x.ma a.ma) (Machine.mget {} x.mb a.mb) ms
        (mmaK a.sK (x.reg a.sK) a.fa ms)).flatMap spanTiles
    | none => ports

/-- Every tile lies in a declared bank (R201): false raises 0x04. -/
def footprintOk (banks : Nat) (ts : List Nat) : Bool := ts.all (fun t => banks.testBit (t / 8))

end Sys2Proof
end

