-- ==== Sys2Proof/Machine/Flags.lean ====
section
/-! DEFINITION. Conditions and status: the compare conditions of R121 and R218, the saturation of R117, the integer results
of R116 to R120, and the words of STATUS, KREG, LPST, QBAL and DELAY. -/

namespace Sys2Proof

/-- A compare condition of R121 on two values of `w` bits. -/
def Cond.holds (c : Cond) (w a b : Nat) : Bool :=
  match c with
  | .eq => a == b
  | .ne => a != b
  | .lt => decide (signedOf w a < signedOf w b)
  | .ge => decide (signedOf w b ≤ signedOf w a)
  | .le => decide (signedOf w a ≤ signedOf w b)
  | .gt => decide (signedOf w b < signedOf w a)
  | .ltu => decide (a < b)
  | .geu => decide (b ≤ a)
  | .leu => decide (a ≤ b)
  | .gtu => decide (b < a)
  | .tst => a &&& b != 0
  | .ntst => a &&& b == 0

/-- A floating-point compare condition of R218. -/
def FCond.holds (c : FCond) (a b : Ex) : Bool :=
  match c with
  | .eq => a.eq b
  | .ne => !a.eq b
  | .lt => a.lt b
  | .ge => b.lt a || b.eq a
  | .le => a.lt b || a.eq b
  | .gt => b.lt a
  | .unord => a.isNan || b.isNan
  | .ord => !a.isNan && !b.isNan

end Sys2Proof

namespace Sys2Proof.Machine

/-- An exact result under a saturation mode: wrapped, clamped to the signed range, or clamped to the unsigned range; `s` is
the exact result of the signed reading and `u` that of the unsigned one (R117, R120). -/
def satWord (mode : Sat) (s u : Int) : Word :=
  match mode with
  | .wrap => BitVec.ofInt 64 u
  | .sat => BitVec.ofInt 64 (max (-2 ^ 63) (min (2 ^ 63 - 1) s))
  | .satu => BitVec.ofInt 64 (max 0 (min (2 ^ 64 - 1) u))

/-- a + b (R116, R117). -/
def addWord (mode : Sat) (a b : Word) : Word := satWord mode (a.toInt + b.toInt) ((a.toNat : Int) + b.toNat)
/-- a − b (R116, R117). -/
def subWord (mode : Sat) (a b : Word) : Word := satWord mode (a.toInt - b.toInt) ((a.toNat : Int) - b.toNat)
/-- a × b (R116, R117). -/
def mulWord (mode : Sat) (a b : Word) : Word := satWord mode (a.toInt * b.toInt) ((a.toNat : Int) * b.toNat)
/-- a + imm, the immediate in its signed reading (R120). -/
def addiWord (mode : Sat) (a : Word) (z : Int) : Word := satWord mode (a.toInt + z) ((a.toNat : Int) + z)
/-- a × imm, the immediate in its signed reading (R120). -/
def muliWord (mode : Sat) (a : Word) (z : Int) : Word := satWord mode (a.toInt * z) ((a.toNat : Int) * z)
/-- Bits [127:64] of the signed product (R116). -/
def mulhWord (a b : Word) : Word := BitVec.ofInt 64 (a.toInt * b.toInt / 2 ^ 64)
/-- Bits [127:64] of the unsigned product (R116). -/
def mulhuWord (a b : Word) : Word := toW (a.toNat * b.toNat / 2 ^ 64)
/-- DIV: truncated towards zero; all ones for a divisor of zero (R116). -/
def divWord (a b : Word) : Word := if b = 0 then BitVec.allOnes 64 else BitVec.ofInt 64 (a.toInt.tdiv b.toInt)
/-- DIVU (R116). -/
def divuWord (a b : Word) : Word := if b = 0 then BitVec.allOnes 64 else toW (a.toNat / b.toNat)
/-- REM: the sign follows the dividend; a for a divisor of zero (R116). -/
def remWord (a b : Word) : Word := if b = 0 then a else BitVec.ofInt 64 (a.toInt.tmod b.toInt)
/-- REMU (R116). -/
def remuWord (a b : Word) : Word := if b = 0 then a else toW (a.toNat % b.toNat)
/-- MIN, signed (R116). -/
def minWord (a b : Word) : Word := if b.toInt < a.toInt then b else a
/-- MAX, signed (R116). -/
def maxWord (a b : Word) : Word := if a.toInt < b.toInt then b else a
/-- MINU (R116). -/
def minuWord (a b : Word) : Word := if b.toNat < a.toNat then b else a
/-- MAXU (R116). -/
def maxuWord (a b : Word) : Word := if a.toNat < b.toNat then b else a
/-- SHL by c below 64 (R116). -/
def shlWord (a : Word) (c : Nat) : Word := a <<< c
/-- SHR (R116). -/
def shrWord (a : Word) (c : Nat) : Word := a >>> c
/-- SRA (R116). -/
def sraWord (a : Word) (c : Nat) : Word := a.sshiftRight c
/-- ROL (R116). -/
def rolWord (a : Word) (c : Nat) : Word := if c = 0 then a else (a <<< c) ||| (a >>> (64 - c))
/-- The number of leading zero bits among the top `n` bits that remain. -/
def clzGo (a : Nat) : Nat → Nat
  | 0 => 0
  | n + 1 => if a.testBit n then 0 else clzGo a n + 1
/-- CLZ (R118). -/
def clzWord (a : Word) : Word := toW (clzGo a.toNat 64)
/-- BREV: bit i moved to bit 63 − i (R118). -/
def brevWord (a : Word) : Word := toW ((List.range 64).foldl (fun n i => 2 * n + (if a.getLsbD i then 1 else 0)) 0)
/-- CTZ (R118). -/
def ctzWord (a : Word) : Word := clzWord (brevWord a)
/-- POPC (R118). -/
def popcWord (a : Word) : Word := toW ((List.range 64).countP a.getLsbD)
/-- SEXT and ZEXT widths (R118). -/
def extBits : ExtSize → Nat
  | .b => 8
  | .h => 16
  | .w => 32
/-- SEXT (R118). -/
def sextWord (a : Word) (z : ExtSize) : Word := BitVec.ofInt 64 (signedOf (extBits z) (a.toNat % 2 ^ extBits z))
/-- ZEXT (R118). -/
def zextWord (a : Word) (z : ExtSize) : Word := toW (a.toNat % 2 ^ extBits z)
/-- LDIH: imm32 above the low half (R120). -/
def ldihWord (a : Word) (imm : Nat) : Word := toW (imm * 2 ^ 32 + a.toNat % 2 ^ 32)

/-- LOOPS of STATUS: the counters of active loops, the active LOOPP's among them (R112). -/
def Ctx.loopsField (x : Ctx) : Nat :=
  ((List.range 4).map (fun n =>
    if x.loops.any (fun l => l.lc == n) || x.pipe.any (fun p => p.lc == n) then 2 ^ n else 0)).sum

/-- STATUS (R112). -/
def statusWord (x : Ctx) (banks prio : Nat) (sup : Bool) : Word :=
  toW (x.loopsField * 256 + banks % 16 * 16 + prio % 8 * 2 + if sup then 1 else 0)

/-- SEG of LPST (R113). -/
def segCode : Seg → Nat
  | .prologue => 1
  | .kernel => 2
  | .epilogue => 3

/-- LPST (R113). While no LOOPP is active every field reads zero, except ITER after a forced epilogue (R134). -/
def Ctx.lpst (x : Ctx) : Word :=
  match x.pipe with
  | some p => toW (2 ^ 39 + p.lc * 2 ^ 37 + (p.depth - 1) * 2 ^ 34 + segCode p.seg * 2 ^ 32 + p.iter % 2 ^ 32)
  | none => toW (x.remIter % 2 ^ 32)

/-- The signed byte of a balance. -/
def balByte (z : Int) : Nat := (z % 256).toNat

/-- QBAL (R206). -/
def Ctx.qbal (x : Ctx) : Word := toW ((List.range 8).foldl (fun n q => n + balByte (x.balance q) * 2 ^ (8 * q)) 0)

/-- DELAY of R303. -/
def Ctx.delayWord (x : Ctx) : Word :=
  match x.delay with
  | some d => toW (2 ^ 63 + d.left % 4 * 2 ^ 61 + d.target % 2 ^ 48)
  | none => 0

/-- A tag byte: scaled :: tag (R88, R301). -/
def Tag.byte (t : Tag) : Nat := t.code + if t.scaled then 32 else 0

/-- The tag of a tag byte. -/
def tagOfByte (b : Nat) : Tag := ⟨b % 32, b.testBit 5⟩

/-- A tag with its scaled bit that SPTAG, TDSET and TTAG accept (R87, R147, R206). -/
def tagLegal (feat : Nat → Bool) (code : Nat) (scaled : Bool) : Bool :=
  match tagFmt code with
  | some f => (!scaled || f.scalable) && !tagAbsent feat f
  | none => false

/-- A rounding code that FMTMODE may hold (R91, R385). -/
def rndLegal (feat : Nat → Bool) (code : Nat) : Bool := decide (code < 5) || (code == 5 && feat 2)

/-! ### Values that registers accept -/

/-- A value that FMTMODE accepts: no reserved bit, and a rounding code that it may hold (R90, R91). -/
def fmtmodeOk (feat : Nat → Bool) (v : Nat) : Bool :=
  decide (v < 256) && nbits v 3 1 == 0 && rndLegal feat (nbits v 6 4)

/-- A value that SPTAG accepts (R206, R385). -/
def sptagOk (feat : Nat → Bool) (v : Nat) : Bool := decide (v < 64) && tagLegal feat (v % 32) (v.testBit 5)

/-- The values of an operand image are refused (R229). -/
def imageBad (src : MxSrc) (a b : Word) : Bool :=
  bits a 63 44 != 0 || bits a 43 42 != 0 ||
    (match src with
     | .tile => bits a 31 5 != 0 || b != 0
     | .spad => bits a 31 19 != 0 || b.toNat % 32 != 0 || b == 0 || decide (524288 < b.toNat)
     | .desc => bits a 31 4 != 0)

/-- A used field of an ms image has another direction than h. -/
def fieldSide (w : Word) (lo : Nat) : Bool := bits w (lo + 11) (lo + 10) != 0

/-- The value that MXSM takes is refused (R230). -/
def msBad (mode : MsMode) (a : Word) : Bool :=
  bits a 63 28 != 0 || bits a 15 12 != 0 ||
    (match mode with
     | .bmap => bits a 27 16 != 0 || fieldSide a 0
     | .sp24 => bits a 11 0 != 0 || fieldSide a 16
     | .both => fieldSide a 0 || fieldSide a 16)

/-- A value that an ms register may hold (R230). -/
def msLegal (w : Word) : Bool :=
  match msMode w with
  | 0 => w == 0
  | 1 => !msBad .bmap (setBits w 29 28 0)
  | 2 => !msBad .sp24 (setBits w 29 28 0)
  | _ => !msBad .both (setBits w 29 28 0)

/-- A value that the words of a descriptor register may hold: reserved bits zero, and no reserved LAYOUT or TAG (R147). -/
def Desc.legal (feat : Nat → Bool) (d : Desc) : Bool :=
  bits d.w0 62 36 == 0 && bits d.w0 31 29 == 0 && decide (bits d.w0 26 24 < 5) && bits d.w0 23 22 == 0 &&
    tagLegal feat (bits d.w0 20 16) (d.w0.getLsbD 21) && bits d.w3 63 40 == 0 && bits d.w4 63 48 == 0 && bits d.w4 5 0 == 0

end Sys2Proof.Machine
end

