-- ==== Sys2Proof/Machine/Frame.lean ====
section
/-! DEFINITION. Context frames (R300 to R305): their layout as bytes, the checks of a restore, and the context that a frame
gives back. -/

namespace Sys2Proof.Machine

/-! ### CRC-32C -/

/-- One bit of the reflected CRC-32C. -/
def crcBits : Nat → Nat → Nat
  | 0, c => c
  | n + 1, c => crcBits n (if c % 2 = 1 then Nat.xor (c / 2) 0x82F63B78 else c / 2)

/-- CRC-32C of bytes, continuing from `c`. -/
def crcGo : List Byte → Nat → Nat
  | [], c => c
  | b :: bs, c => crcGo bs (crcBits 8 (Nat.xor c b.toNat))

/-- CRC-32C of bytes (R302). -/
def crc32c (bs : List Byte) : Nat := Nat.xor (crcGo bs 0xFFFFFFFF) 0xFFFFFFFF

/-! ### Sizes -/

/-- The banks of a footprint, in increasing order. -/
def bankList (banks : Nat) : List Nat := (List.range 4).filter banks.testBit

/-- The frame size of a footprint (R301). -/
def frameSize (banks : Nat) : Nat := 32768 * (1 + (bankList banks).length)

/-- The distance between frame slots (R300). -/
def frameStride : Nat := 163840

/-! ### Images (R304) -/

/-- A command image. -/
structure Image where
  word : Nat
  bval : Nat
  mpc  : Nat
  seg  : Nat
  kind : Nat
  mark : Bool
  mode : Nat
  c0   : Nat
  c1   : Nat
  c2   : Nat
  deriving DecidableEq, Repr

/-- The 36 bytes of an image. -/
def Image.bytes (i : Image) : List Byte :=
  leBytes 8 i.word ++ leBytes 8 i.bval ++ leBytes 8 i.mpc ++ leBytes 4 i.seg ++
    leBytes 1 (i.kind + if i.mark then 8 else 0) ++ leBytes 4 i.mode ++ leBytes 1 i.c0 ++ leBytes 1 i.c1 ++ leBytes 1 i.c2

/-- The image of 36 bytes. -/
def Image.ofBytes (b : List Byte) : Image :=
  let n := fun lo k => leNat ((b.drop lo).take k)
  { word := n 0 8, bval := n 8 8, mpc := n 16 8, seg := n 24 4, kind := n 28 1 % 8, mark := (n 28 1).testBit 3,
    mode := n 29 4, c0 := n 33 1, c1 := n 34 1, c2 := n 35 1 }

/-- The bytes of a descriptor. -/
def Desc.bytes (d : Desc) : List Byte := [d.w0, d.w1, d.w2, d.w3, d.w4].flatMap (fun w => leBytes 8 w.toNat)
/-- The bytes of a capability (R139). -/
def Cap.bytes (c : Cap) : List Byte := [c.w0, c.w1, c.w2, c.w3].flatMap (fun w => leBytes 8 w.toNat)
/-- The descriptor of 40 bytes. -/
def Desc.ofBytes (b : List Byte) : Desc :=
  let n := fun i => toW (leNat ((b.drop (8 * i)).take 8))
  ⟨n 0, n 1, n 2, n 3, n 4⟩

/-- A type 1 copy entry. -/
def copyDesc (d : Desc) (c : Cap) : List Byte := leBytes 8 1 ++ d.bytes ++ c.bytes

/-- The code of SRC (R229). -/
def srcByte (m : MaImage) : Nat := MxSrc.code m.src

/-- A type 2 copy entry. -/
def copyMx (c : Cmd) : List Byte :=
  leBytes 8 2 ++ [c.ma.wa, c.ma.wb, c.mb.wa, c.mb.wb, c.ms].flatMap (fun w => leBytes 8 w.toNat) ++
    leBytes 1 (srcByte c.ma) ++ leBytes 1 (srcByte c.mb) ++ leBytes 30 0

/-- The copy entry that COPY0 names, with those of an MX command's descriptors: none for a marker or a command that took no
copy. -/
def Cmd.copies (c : Cmd) : List (List Byte) :=
  if c.marker then []
  else if c.eng = .mx then
    copyMx c :: ((if c.ma.src = .desc then [copyDesc c.ma.desc c.ma.cap] else []) ++
      (if c.mb.src = .desc then [copyDesc c.mb.desc c.mb.cap] else []))
  else if c.desc = {} ∧ c.cap = {} then []
  else [copyDesc c.desc c.cap]

/-- The copy that an XF command took beside its first: the descriptor and capability of its other side, as COPY1 (R148). -/
def Cmd.second (c : Cmd) : List (List Byte) :=
  if c.marker ∨ c.eng ≠ .xf ∨ (c.desc2 = {} ∧ c.cap2 = {}) then [] else [copyDesc c.desc2 c.cap2]

/-- The copy of the capability that FCAP named, as COPY2, with a descriptor of zero (R247). -/
def Cmd.flagCopy (c : Cmd) : List (List Byte) :=
  if c.marker ∨ c.eng ≠ .xf ∨ c.capF = {} then [] else [copyDesc {} c.capF]

/-- The copy entries of a frame in order: those that COPY0 names and those of MX descriptors, and then the others of XF
commands, as many as the area holds (R301, R304; log entry 12). -/
def cmdCopies (cs : List Cmd) : List (List Byte) :=
  (cs.flatMap Cmd.copies ++ cs.flatMap (fun c => c.second ++ c.flagCopy)).take 162

/-- The index of a copy entry that is present and has room in the area; 0xFF for none. -/
def copyIndex (l : List (List Byte)) (n : Nat) : Nat := if l = [] ∨ 161 < n then 0xFF else n

/-- KIND of an engine. -/
def engKind : Eng → Nat
  | .vl => 1
  | .va => 2
  | .vs => 3
  | .mx => 4
  | .xf => 5

/-- The engine of a KIND. -/
def kindEng : Nat → Option Eng
  | 1 => some .vl
  | 2 => some .va
  | 3 => some .vs
  | 4 => some .mx
  | 5 => some .xf
  | _ => none

/-- The image of a command whose first copy entry has index `n`, and the first of its other ones index `m`. -/
def Cmd.image (c : Cmd) (n m : Nat) : Image :=
  let k := c.copies.length
  { word := if c.marker then 0 else c.word, bval := c.bval.toNat, mpc := c.mpc, seg := c.seg, kind := engKind c.eng,
    mark := c.marker,
    mode := c.tagA.byte * 2 ^ 26 + c.tagB.byte * 2 ^ 20 + c.tagC.byte * 2 ^ 14 + c.sptag * 2 ^ 8 + c.fmtmode,
    c0 := if 0 < k then n else 0xFF,
    c1 := if c.eng = .xf then copyIndex c.second m else if c.eng = .mx ∧ c.ma.src = .desc ∧ 1 < k then n + 1 else 0xFF,
    c2 := if c.eng = .xf then copyIndex c.flagCopy (m + c.second.length)
      else if c.eng = .mx ∧ c.mb.src = .desc ∧ 1 < k then n + k - 1 else 0xFF }

/-- Images of commands in order, with copy entries numbered from `n`, and the other ones of XF commands from `m`. -/
def cmdImages : List Cmd → Nat → Nat → List Image
  | [], _, _ => []
  | c :: cs, n, m => c.image n m :: cmdImages cs (n + c.copies.length) (m + c.second.length + c.flagCopy.length)

/-- The image of a FENCE. -/
def FenceRec.image (f : FenceRec) : Image := ⟨f.word, 0, 0, 0, 0, false, 0, 0xFF, 0xFF, 0xFF⟩
/-- The image of a TOKP, with its token's value. -/
def TokpRec.image (t : TokpRec) : Image := ⟨t.word, t.value, 0, 0, 0, false, 0, 0xFF, 0xFF, 0xFF⟩

/-- Control items of a slot in the order of issue: (issue number, image). -/
def controlImages (fs : List FenceRec) (ts : List TokpRec) : List (Nat × Image) :=
  sortBy (fun a b => decide (a.1 ≤ b.1)) (fs.map (fun f => (f.seq, f.image)) ++ ts.map (fun t => (t.seq, t.image)))

/-! ### The frame as bytes -/

/-- Everything that a frame holds (R301 to R304). -/
structure FrameParts where
  banks  : Nat
  flags  : Nat
  spkib  : Nat
  taskid : Nat
  feats  : Nat
  prio   : Nat
  pin    : Nat
  fcode  : Word
  faddr  : Word
  fgpa   : Word
  ctx    : Ctx
  slice  : Nat
  ctl    : List Image
  cmds   : List Cmd
  cells  : Map (BitVec 32)

/-- The commands of one engine. -/
def engCmds (cs : List Cmd) (e : Eng) : List Cmd := cs.filter (fun c => c.eng == e && !c.preMark)

/-- The commands of a frame: VL, VA, VS, MX, XF, each in issue order. -/
def frameCmds (cs : List Cmd) : List Cmd :=
  engCmds cs .vl ++ engCmds cs .va ++ engCmds cs .vs ++ engCmds cs .mx ++ engCmds cs .xf

/-- Zero bytes. -/
def zeros (n : Nat) : List Byte := List.replicate n 0

/-- Bytes padded with zero to `n`. -/
def padTo (n : Nat) (b : List Byte) : List Byte := b ++ zeros (n - b.length)

/-- The header with a CRC (R302). -/
def FrameParts.header (f : FrameParts) (crc : Nat) : List Byte :=
  let cs := frameCmds f.cmds
  leBytes 4 0x4D524657 ++ leBytes 2 1 ++ leBytes 1 f.banks ++ leBytes 1 f.flags ++ leBytes 4 (frameSize f.banks) ++
    leBytes 4 f.spkib ++ leBytes 8 f.taskid ++ leBytes 8 f.feats ++ leBytes 1 f.prio ++ leBytes 1 f.pin ++ zeros 6 ++
    leBytes 1 f.ctl.length ++ [Eng.vl, .va, .vs, .mx, .xf].flatMap (fun e => leBytes 1 (engCmds f.cmds e).length) ++
    leBytes 2 (cmdCopies cs).length ++ leBytes 8 f.fcode.toNat ++ leBytes 8 f.faddr.toNat ++
    leBytes 8 f.fgpa.toNat ++ zeros 52 ++ leBytes 4 crc

/-- The rank of each loop record, the latest 0, as (counter, start, end, rank). -/
def loopRanks (x : Ctx) : List (Nat × Nat × Nat × Nat) :=
  let pipe := x.pipe.toList.map (fun p => (p.ord, p.lc, p.off + 8, p.off + 8 + 8 * (p.p + p.k + p.e)))
  let plain := x.loops.filterMap (fun l => if l.pipe then none else some (l.ord, l.lc, l.start, l.stop))
  let all := sortBy (fun (a b : Nat × Nat × Nat × Nat) => decide (b.1 ≤ a.1)) (plain ++ pipe)
  all.zipIdx.map (fun r => (r.1.2.1, r.1.2.2.1, r.1.2.2.2, r.2))

/-- Loop record `n` (R303). -/
def loopRecord (x : Ctx) (n : Nat) : List Byte :=
  match (loopRanks x).find? (fun r => r.1 == n) with
  | some (_, start, stop, rank) => leBytes 16 (start % 2 ^ 48 + stop % 2 ^ 48 * 2 ^ 48 + rank % 4 * 2 ^ 96 + 2 ^ 98)
  | none => zeros 16

/-- The image bytes of an ma or mb register. -/
def MaImage.bytes (m : MaImage) : List Byte :=
  leBytes 8 m.wa.toNat ++ leBytes 8 m.wb.toNat ++ leBytes 8 (srcByte m)

/-- The bytes of a row of a tile, from the cells. -/
def tileRow (cells : Map (BitVec 32)) (tile row : Nat) : List Byte :=
  (List.range 32).flatMap (fun j => leBytes 4 (mget 0 cells (tile * 1024 + row * 32 + j)).toNat)

/-- The bytes from 0x80 up to the tile banks. -/
def FrameParts.body (f : FrameParts) : List Byte :=
  let x := f.ctx
  let cs := frameCmds f.cmds
  let n64 := fun (w : Word) => leBytes 8 w.toNat
  (List.range 64).flatMap (fun i => n64 (x.reg i)) ++
    ((List.range 4).flatMap (fun i => leBytes 8 (x.btv i)) ++ (List.range 4).flatMap (fun i => n64 (x.lcv i)) ++
      n64 x.kregWord ++ leBytes 8 x.pc ++ n64 x.delayWord ++ leBytes 8 (x.fmtmode + 256 * x.sptag) ++ n64 x.lpst ++
      leBytes 8 x.rem ++ leBytes 8 f.slice ++ zeros 8) ++
    (List.range 7).flatMap (fun i => leBytes 16 (x.pred (i + 1)).toNat) ++ n64 x.qbal ++ zeros 8 ++
    padTo 128 ((List.range 32).flatMap (fun t => leBytes 1 (x.tag t).byte)) ++
    (List.range 16).flatMap (fun i => (x.cap i).bytes) ++ (List.range 16).flatMap (fun i => (x.desc i).bytes) ++
    (List.range 8).flatMap (fun i => (mget {} x.ma i).bytes) ++ (List.range 8).flatMap (fun i => (mget {} x.mb i).bytes) ++
    (List.range 8).flatMap (fun i => n64 (mget 0 x.ms i)) ++
    (List.range 8).flatMap (fun q => padTo 8 ((x.queue q).flatMap (fun e => leBytes 1 e.tag.byte))) ++
    (List.range 8).flatMap (fun q => leBytes 1 (x.queue q).length) ++ zeros 8 ++
    padTo 1392 ((List.range 4).flatMap (loopRecord x)) ++
    (List.range 8).flatMap (fun q => padTo 1024 ((x.queue q).flatMap (fun e => rowBytes e.row))) ++
    padTo 7488 ((f.ctl ++ cmdImages cs 0 (cs.flatMap Cmd.copies).length).flatMap Image.bytes) ++ padTo 12992 (cmdCopies cs).flatten

/-- The bytes of the tile banks. -/
def FrameParts.tiles (f : FrameParts) : List Byte :=
  (bankList f.banks).flatMap (fun b => (List.range 256).flatMap (fun r => tileRow f.cells (8 * b + r / 32) (r % 32)))

/-- The bytes of a frame, with its CRC over them and a window image that follows (R302). -/
def FrameParts.bytes (f : FrameParts) (window : List Byte) : List Byte :=
  let rest := f.body ++ f.tiles
  f.header (crc32c (f.header 0 ++ rest ++ window)) ++ rest

/-! ### Reading a frame -/

/-- A field of a frame. -/
def fget (b : List Byte) (at_ n : Nat) : Nat := leNat ((b.drop at_).take n)

/-- A field of a frame as a word. -/
def fword (b : List Byte) (at_ : Nat) : Word := toW (fget b at_ 8)

/-- A field of a frame replaced. -/
def fput (b : List Byte) (at_ n v : Nat) : List Byte := b.take at_ ++ leBytes n v ++ b.drop (at_ + n)

/-- The frame with its CRC made anew. -/
def refreshCrc (b window : List Byte) : List Byte := fput b 0x7C 4 (crc32c (fput b 0x7C 4 0 ++ window))

/-- The number of images of a frame, by kind 0 to 5. -/
def imgCount (b : List Byte) (k : Nat) : Nat := fget b (0x28 + k) 1

/-- The number of images of a frame. -/
def imgTotal (b : List Byte) : Nat := ((List.range 6).map (imgCount b)).sum

/-- The images of a frame. -/
def frameImages (b : List Byte) : List Image :=
  (List.range (imgTotal b)).map (fun i => Image.ofBytes ((b.drop (0x3000 + 36 * i)).take 36))

/-- Copy entry `i` of a frame. -/
def frameCopy (b : List Byte) (i : Nat) : List Byte := (b.drop (0x4D40 + 80 * i)).take 80

/-- Every byte of [lo, hi) is zero. -/
def zeroIn (b : List Byte) (lo hi : Nat) : Bool := ((b.drop lo).take (hi - lo)).all (fun x => x == 0)

/-- The kinds that the images of a frame should have, in order. -/
def kindOrder (b : List Byte) : List Nat := (List.range 6).flatMap (fun k => List.replicate (imgCount b k) k)

/-- A control item is a FENCE or a TOKP. -/
def isControlItem : Instr → Bool
  | .fence .. => true
  | .tokp .. => true
  | _ => false

/-- The MaImage of 24 bytes; its descriptor copies come from the copy entries of commands alone. -/
def MaImage.ofBytes (b : List Byte) : MaImage :=
  { src := (MxSrc.ofCode (fget b 16 1)).getD .tile, wa := fword b 0, wb := fword b 8 }

/-- An operand image of a type 2 copy entry `c0`: WA and WB at `o`, SRC at `k`, and the copies of copy entry `c` (R304). -/
def mxCopy (b c0 : List Byte) (o k c : Nat) : MaImage :=
  { src := (MxSrc.ofCode (fget c0 k 1)).getD .tile
    wa := fword c0 o
    wb := fword c0 (o + 8)
    desc := if c = 0xFF then {} else Desc.ofBytes (((frameCopy b c).drop 8).take 40)
    cap := if c = 0xFF then {} else Cap.ofBytes (((frameCopy b c).drop 48).take 32) }

/-- What the issue checks of an image's word read of the context: the broadcast value, the tag of srcA, and the ma, mb and ms
images. A K that a register gave has no place in an image, and is taken as 32 (log entry 12). -/
def imageCtx (b : List Byte) (i : Image) (j : Instr) : Ctx :=
  let t := frameCopy b i.c0
  let at2 := i.c0 != 0xFF && fget t 0 1 == 2
  match j with
  | .vcvts _ (.q n) _ sN _ _ => { regs := [(sN, toW i.bval)], unclaimed := [(n, [tagOfByte (nbits i.mode 31 26)])] }
  | .vcvts _ a _ sN _ _ => { regs := [(sN, toW i.bval)], tags := [(a.tile?.getD 0, tagOfByte (nbits i.mode 31 26))] }
  | j =>
    match j.mma? with
    | some a =>
      { regs := [(a.sK, 32)], ma := if at2 then [(a.ma, mxCopy b t 8 48 i.c1)] else [], mb := if at2 then [(a.mb, mxCopy b t 24 49 i.c2)] else [],
        ms := if at2 then [(a.ms.getD 0, fword t 40)] else [] }
    | none => {}

/-- The word of an image passes the issue checks of R42 and R43 for a task with these banks and level (R305). -/
def imageWordOk (feat : Nat → Bool) (level : Level) (banks kind : Nat) (b : List Byte) (i : Image) : Bool :=
  if i.mark then i.word == 0
  else
    match decode i.word with
    | .ok j =>
      let x := imageCtx b i j
      decide (j.level.rank ≤ level.rank) && (match j.feature with | some f => feat f | none => true) &&
        (if kind = 0 then isControlItem j else j.engine == kindEng kind) && j.valuesOk x feat && footprintOk banks (j.tiles x)
    | _ => false

/-- A tag byte that a frame may hold: EMPTY, or a tag of this device (R88, R301). -/
def tagByteOk (feat : Nat → Bool) (n : Nat) : Bool := n == 0x1F || (decide (n < 64) && tagLegal feat (n % 32) (n.testBit 5))

/-- The tags of an image's MODE, its SPTAG and its FMTMODE are legal (R304). -/
def imageModeOk (feat : Nat → Bool) (i : Image) : Bool :=
  [nbits i.mode 31 26, nbits i.mode 25 20, nbits i.mode 19 14].all (fun n => i.mode == 0 || tagByteOk feat n) &&
    sptagOk feat (nbits i.mode 13 8) && fmtmodeOk feat (nbits i.mode 7 0)

/-- The words of an operand image, with SRC in a third word, are legal (R229, R301). -/
def operandOk (wa wb : Word) (src : Nat) : Bool :=
  match MxSrc.ofCode src with
  | some k => !imageBad k wa wb
  | none => false

/-- A copy entry is of type 1 or 2, its other bytes are zero, and what it holds is legal (R304). -/
def copyOk (feat : Nat → Bool) (e : List Byte) : Bool :=
  zeroIn e 1 8 &&
    (if fget e 0 1 = 1 then (Desc.ofBytes ((e.drop 8).take 40)).legal feat && (Cap.ofBytes ((e.drop 48).take 32)).legal
     else fget e 0 1 == 2 && zeroIn e 50 80 && operandOk (fword e 8) (fword e 16) (fget e 48 1) &&
       operandOk (fword e 24) (fword e 32) (fget e 49 1) && msLegal (fword e 40))

/-- The control block: what must be zero is, and FMTMODE, SPTAG and the delay slots left are legal (R303). -/
def controlOk (feat : Nat → Bool) (b : List Byte) : Bool :=
  (List.range 4).all (fun i => zeroIn b (0x286 + 8 * i) (0x288 + 8 * i)) && zeroIn b 0x2C1 0x2C8 && zeroIn b 0x2CE 0x2D0 &&
    nbits (fget b 0x2D0 8) 60 48 == 0 && decide (nbits (fget b 0x2D0 8) 62 61 < 3) && fmtmodeOk feat (fget b 0x2D8 1) &&
    sptagOk feat (fget b 0x2D9 1) && zeroIn b 0x2DA 0x2E0 && zeroIn b 0x2E5 0x2E8 && zeroIn b 0x2F4 0x300 &&
    (List.range 4).all (fun n => fget b (0xA90 + 16 * n) 16 < 2 ^ 99)

/-- Tags, capabilities, descriptors and operand images of a frame are legal (R301). -/
def registersOk (feat : Nat → Bool) (b : List Byte) : Bool :=
  (List.range 32).all (fun t => tagByteOk feat (fget b (0x380 + t) 1)) &&
    (List.range 16).all (fun i => (Cap.ofBytes ((b.drop (0x400 + 32 * i)).take 32)).legal) &&
    (List.range 16).all (fun i => (Desc.ofBytes ((b.drop (0x600 + 40 * i)).take 40)).legal feat) &&
    (List.range 16).all (fun i => operandOk (fword b (0x880 + 24 * i)) (fword b (0x888 + 24 * i)) (fget b (0x890 + 24 * i) 8)) &&
    (List.range 8).all (fun i => msLegal (fword b (0xA00 + 8 * i)))

/-- The queues of a frame: at most 8 entries each, with legal tags, and zero where there is none (R301). -/
def queuesOk (feat : Nat → Bool) (b : List Byte) : Bool :=
  (List.range 8).all (fun q =>
    let n := fget b (0xA80 + q) 1
    decide (n ≤ 8) && (List.range n).all (fun e => tagByteOk feat (fget b (0xA40 + 8 * q + e) 1)) &&
      zeroIn b (0xA40 + 8 * q + n) (0xA48 + 8 * q) && zeroIn b (0x1000 + 1024 * q + 128 * n) (0x1400 + 1024 * q))

/-- The checks of R305 on a frame and the window image that follows it; `hyp` says that the fontanier loads it, and `pinOk`
that PIN names no region outside the loading partition. A reserved value in a field fails it like a byte that must be zero
(log entry 79, DESIGN CHOICE). -/
def frameOk (accepted : Nat) (hyp : Bool) (pinOk : Nat → Bool) (b window : List Byte) : Bool :=
  let banks := fget b 6 1
  let ncopy := fget b 0x2E 2
  let level := if hyp then Level.h else if (fget b 7 1).testBit 0 then Level.s else Level.u
  let feat := fun n => accepted.testBit n
  fget b 0 4 == 0x4D524657 && fget b 4 2 == 1 && decide (banks < 16) && decide (fget b 7 1 < 16) &&
    fget b 8 4 == frameSize banks && decide (b.length = frameSize banks) && decide (fget b 0x0C 4 ≤ 512) &&
    decide (imgTotal b ≤ 208) && decide (ncopy ≤ 162) &&
    zeroIn b 0x16 0x18 && zeroIn b 0x22 0x28 && zeroIn b 0x48 0x7C && zeroIn b 0x2F8 0x300 && zeroIn b 0x378 0x380 &&
    zeroIn b 0x3A0 0x400 && zeroIn b 0xA88 0xA90 && zeroIn b 0xAD0 0x1000 && decide (fget b 0x20 1 < 8) &&
    controlOk feat b && registersOk feat b && queuesOk feat b && (List.range ncopy).all (fun i => copyOk feat (frameCopy b i)) &&
    zeroIn b (0x3000 + 36 * imgTotal b) 0x4D40 && zeroIn b (0x4D40 + 80 * ncopy) 0x8000 &&
    ((frameImages b).zip (kindOrder b)).all (fun p =>
      p.1.kind == p.2 && imageWordOk feat level banks p.2 b p.1 && imageModeOk feat p.1 &&
        [p.1.c0, p.1.c1, p.1.c2].all (fun c => c == 0xFF || decide (c < ncopy))) &&
    (List.range (imgTotal b)).all (fun i => decide (fget b (0x3000 + 36 * i + 28) 1 < 16)) &&
    fget b 0x7C 4 == crc32c (fput b 0x7C 4 0 ++ window) && (Nat.lor (fget b 0x18 8) accepted == accepted) &&
    pinOk (fget b 0x21 1)

/-- The active loop records of a frame, the latest started first: (counter, start, end). -/
def frameLoops (b : List Byte) : List (Nat × Nat × Nat) :=
  let rs := (List.range 4).filterMap (fun n =>
    let v := fget b (0xA90 + 16 * n) 16
    if v.testBit 98 then some (nbits v 97 96, n, nbits v 47 0, nbits v 95 48) else none)
  (sortBy (fun (a c : Nat × Nat × Nat × Nat) => decide (a.1 ≤ c.1)) rs).map (fun r => r.2)

/-- The slot's queues from a frame. -/
def frameQueue (b : List Byte) (q : Nat) : List QEntry :=
  (List.range (fget b (0xA80 + q) 1)).map (fun e =>
    { row := bytesRow ((b.drop (0x1000 + 1024 * q + 128 * e)).take 128), tag := tagOfByte (fget b (0xA40 + 8 * q + e) 1) })

/-- A map from a list of values at keys 0, 1, …, defaults left out. -/
def mapOf {α : Type} [DecidableEq α] (d : α) (n : Nat) (f : Nat → α) : Map α :=
  (List.range n).filterMap (fun i => if f i = d then none else some (i, f i))

/-- P, K and E of the LOOPP whose word is `w` (R61). -/
def looppLengths (w : Nat) : Nat × Nat × Nat :=
  match decode w with
  | .ok (.loopp _ _ _ p k _ e) => (p, k, e)
  | _ => (0, 1, 0)

/-- The active LOOPP of a frame, with the pushes counted in its segment: LPST gives counter, depth, segment and tag, its loop record gives its place, and the LOOPP's
own word, which `word` reads at an offset of the code object, gives the lengths (log entry 13). -/
def framePipe (b : List Byte) (word : Nat → Nat) (pushes : List Nat) : Option Pipe :=
  let l := fget b 0x2E0 8
  if l.testBit 39 then
    let lc := nbits l 38 37
    let found := (frameLoops b).zipIdx.find? (fun r => r.1.1 == lc)
    let start := match found with
      | some r => r.1.2.1
      | none => 8
    let ord := match found with
      | some r => 7 - r.2
      | none => 0
    let (p, k, e) := looppLengths (word (start - 8))
    let seg := if nbits l 33 32 = 1 then Seg.prologue else if nbits l 33 32 = 2 then .kernel else .epilogue
    some { lc := lc, depth := nbits l 36 34 + 1, off := start - 8, p := p, k := k, e := e, seg := seg, iter := nbits l 31 0,
           pushes := pushes, forced := decide (fget b 0x2E8 8 ≠ 0), ord := ord }
  else none

/-- The context of a frame (R301 to R303). -/
def frameCtx (b : List Byte) (word : Nat → Nat) (pushes : List Nat) : Ctx :=
  let pipe := framePipe b word pushes
  let isPipe := fun n => match pipe with | some p => p.lc == n | none => false
  let loops := (frameLoops b).zipIdx.filterMap (fun rk =>
    let r := rk.1
    let plain := some { lc := r.1, start := r.2.1, stop := r.2.2, pipe := false, ord := 7 - rk.2 : LoopRec }
    match pipe with
    | some p =>
      if isPipe r.1 then
        if p.seg = .epilogue then none
        else some { lc := r.1, start := p.off + 8 + 8 * p.p, stop := p.off + 8 * (p.p + p.k), pipe := true, ord := p.ord : LoopRec }
      else plain
    | none => plain)
  let delay := fget b 0x2D0 8
  let iter := if (fget b 0x2E0 8).testBit 39 then 0 else nbits (fget b 0x2E0 8) 31 0
  { regs := mapOf 0 64 (fun i => if i = 0 then 0 else fword b (0x80 + 8 * i))
    bt := mapOf 0 4 (fun i => fget b (0x280 + 8 * i) 6)
    kreg := fget b 0x2C0 8 % 256 / 2 * 2
    lc := mapOf 0 4 (fun i => fword b (0x2A0 + 8 * i))
    loops := loops
    pipe := pipe
    delay := if delay.testBit 63 then some ⟨nbits delay 47 0, nbits delay 62 61⟩ else none
    pc := fget b 0x2C8 6
    preds := mapOf 0 8 (fun i => if i = 0 then 0 else BitVec.ofNat 128 (fget b (0x300 + 16 * (i - 1)) 16))
    caps := mapOf {} 16 (fun i => if i = 0 then {} else Cap.ofBytes ((b.drop (0x400 + 32 * i)).take 32))
    descs := mapOf {} 16 (fun i => Desc.ofBytes ((b.drop (0x600 + 40 * i)).take 40))
    ma := mapOf {} 8 (fun i => MaImage.ofBytes ((b.drop (0x880 + 24 * i)).take 24))
    mb := mapOf {} 8 (fun i => MaImage.ofBytes ((b.drop (0x940 + 24 * i)).take 24))
    ms := mapOf 0 8 (fun i => fword b (0xA00 + 8 * i))
    queues := mapOf [] 8 (frameQueue b)
    bal := mapOf 0 8 (fun q => signedOf 8 (fget b (0x370 + q) 1))
    unclaimed := []
    fmtmode := fget b 0x2D8 1
    sptag := fget b 0x2D9 1 % 64
    tags := mapOf {} 32 (fun t => tagOfByte (fget b (0x380 + t) 1))
    rem := fget b 0x2E8 8
    remIter := iter }

/-- The tile cells of a frame (R301). -/
def frameCells (b : List Byte) : Map (BitVec 32) :=
  (bankList (fget b 6 1)).zipIdx.flatMap (fun kb =>
    (List.range 8192).filterMap (fun n =>
      let v := BitVec.ofNat 32 (fget b (0x8000 + 32768 * kb.2 + 4 * n) 4)
      if v = 0 then none else some (8192 * kb.1 + n, v)))

/-- The command of an image with copy entries of frame `b`, for a slot at a level; the captured operand values are those of
`pv` (log entry 12). -/
def Image.cmd (i : Image) (b : List Byte) (slot : Nat) (x : Ctx) (pv : Priv) : Option Cmd :=
  match kindEng i.kind with
  | none => none
  | some e =>
    let c0 := frameCopy b i.c0
    let t2 := fget c0 0 1 == 2
    let has0 := i.c0 != 0xFF
    let dsc := fun c => Desc.ofBytes (((frameCopy b c).drop 8).take 40)
    let cp := fun c => Cap.ofBytes (((frameCopy b c).drop 48).take 32)
    let img := fun (o k c : Nat) => mxCopy b c0 o k c
    some
      { eng := e, slot := slot, seq := pv.seq, instr := (decodeWord i.word).getD .nop, word := i.word, marker := i.mark,
        va := pv.va, vb := pv.vb, vc := pv.vc, vf := pv.vf, bval := toW i.bval, mpc := i.mpc, seg := i.seg,
        inPipe := pv.inPipe && x.pipe.isSome, paid := pv.paid, tagA := tagOfByte (nbits i.mode 31 26), tagB := tagOfByte (nbits i.mode 25 20),
        tagC := tagOfByte (nbits i.mode 19 14), sptag := nbits i.mode 13 8, fmtmode := nbits i.mode 7 0,
        desc := if has0 && !t2 then dsc i.c0 else {}, cap := if has0 && !t2 then cp i.c0 else {},
        desc2 := if e = .xf ∧ i.c1 ≠ 0xFF then dsc i.c1 else pv.desc2, cap2 := if e = .xf ∧ i.c1 ≠ 0xFF then cp i.c1 else pv.cap2,
        capF := if e = .xf ∧ i.c2 ≠ 0xFF then cp i.c2 else pv.capF, list := pv.list, listCaps := pv.listCaps, level := pv.level, srcTags := pv.srcTags,
        rows := pv.rows,
        ma := if has0 && t2 then img 8 48 i.c1 else {}, mb := if has0 && t2 then img 24 49 i.c2 else {},
        ms := if has0 && t2 then fword c0 40 else 0 }

/-- What a saved command keeps beside its image (log entry 12). -/
def Cmd.priv (c : Cmd) : Priv :=
  { seq := c.seq, va := c.va, vb := c.vb, vc := c.vc, vf := c.vf, list := c.list, listCaps := c.listCaps, capF := c.capF,
    cap2 := c.cap2, desc2 := c.desc2, level := c.level, srcTags := c.srcTags, rows := c.rows, inPipe := c.inPipe, paid := c.paid }

/-- A control item that an image restores. -/
def Image.fence (i : Image) (seq : Nat) : Option FenceRec :=
  match decode i.word with
  | .ok (.fence paths scope classes) => some { seq := seq, paths := paths, scope := scope, classes := classes, word := i.word }
  | _ => none

/-- A control item that an image restores. -/
def Image.tokp (i : Image) (seq : Nat) : Option TokpRec :=
  match decode i.word with
  | .ok (.tokp sl _) => some { seq := seq, sluice := sl, value := i.bval % 2 ^ 16, reserved := false, word := i.word }
  | _ => none

end Sys2Proof.Machine
end

