-- ==== Sys2Proof/Machine/Ops.lean ====
section
/-! DEFINITION. The shared operations of a slot: performing its P0 accesses in the orders that R175 and R189 allow, saving a
context into a frame (R300), taking a fault (R297 to R299) and returning from one (R299, R316), and issuing an instruction
with the checks of R43 and the retirement of R126 to R134. -/

namespace Sys2Proof.Machine

/-! ### Requests that wait (R364) -/

/-- The fault to raise for a record: none while its request waits, which it does for at most 1 ms while a conduit trains, counted
from `held`, and then meets 0x12. -/
def FaultRec.due (f : FaultRec) (held : Option Nat) (tick : Nat) : Option FaultRec :=
  match f.hold with
  | none => some f
  | some .conduit => none
  | some .training => if held.any (fun t => decide (t + 1000000 ≤ tick)) then some { f with hold := none, code := 0x12 } else none

/-- The tick from which the wait of a record counts. -/
def FaultRec.heldFrom (f : FaultRec) (held : Option Nat) (tick : Nat) : Option Nat :=
  if f.hold = some .training then held.or (some tick) else none

/-! ### Registers of a slot -/

/-- The scalar register that an access will write. -/
def P0Op.target : P0Op → Option Nat
  | .load sd => some sd
  | .rmw _ _ sd => sd
  | .cas _ _ sd => sd
  | .store _ => none

/-- The access with its result discarded. -/
def P0Op.discard : P0Op → P0Op
  | .load _ => .load 0
  | .rmw op b (some _) => .rmw op b (some 0)
  | .cas b c (some _) => .cas b c (some 0)
  | o => o

/-- The access returns a value (R192). -/
def P0Op.returns (o : P0Op) : Bool := o.target.isSome

/-- The access writes. -/
def P0Op.writes : P0Op → Bool
  | .load _ => false
  | _ => true

/-- A deferred fault with the result of its access discarded (R109). -/
def Deferred.discard (d : Deferred) : Deferred :=
  { d with sd := some 0, redo := d.redo.map (fun a => { a with op := a.op.discard }) }

/-- A result still on its way to a scalar register is discarded: a later instruction writes it, and writes take effect in program
order (R109). -/
def Slot.claimReg (sl : Slot) (n : Nat) : Slot :=
  if n = 0 then sl
  else
    { sl with
      p0 := sl.p0.map (fun a => if a.op.target = some n then { a with op := a.op.discard } else a)
      redo := sl.redo.map (fun a => if a.op.target = some n then { a with op := a.op.discard } else a)
      deferred := sl.deferred.map (fun d => if d.sd = some n then d.discard else d) }

/-- A scalar register written. -/
def Slot.writeReg (sl : Slot) (n : Nat) (v : Word) : Slot :=
  if n = 0 then sl else { sl.claimReg n with ctx := sl.ctx.setReg n v }

/-- The state with a scalar register of a slot written. -/
def State.writeReg (s : State) (c k n : Nat) (v : Word) : State := s.modSlot c k (fun sl => sl.writeReg n v)

/-- The slot's next issue number taken. -/
def Slot.tick (sl : Slot) : Slot := { sl with seq := sl.seq + 1 }

/-! ### Order of accesses (R175, R188, R189) -/

/-- The bit of a class is set in a class mask, or the class is 0 (R188). -/
def classIn (mask cls : Nat) : Bool := cls == 0 || mask.testBit cls

/-- ORD includes acquire. -/
def Ord2.acquires : Ord2 → Bool
  | .acq => true
  | .ar => true
  | _ => false

/-- ORD includes release. -/
def Ord2.releases : Ord2 → Bool
  | .rel => true
  | .ar => true
  | _ => false

/-- Two accesses of one path, the first earlier, are in local order by class, acquire or release (R175). -/
def localOrder (c1 : Nat) (o1 : Ord2) (c2 : Nat) (o2 : Ord2) : Bool :=
  c1 == c2 || c1 == 0 || c2 == 0 || Ord2.acquires o1 || Ord2.releases o2

/-- CLASS and ORD of the accesses of an engine command. -/
def cmdOrd (i : Instr) : Nat × Ord2 :=
  match i with
  | .vld _ _ _ _ o _ _ => (o.cls, o.ord)
  | .vlds _ _ _ _ o _ _ _ => (o.cls, o.ord)
  | .vldt _ _ _ _ o _ _ => (o.cls, o.ord)
  | .vldg _ _ _ _ o _ _ => (o.cls, o.ord)
  | .vldc _ _ _ _ cls _ _ => (cls, .plain)
  | .vst _ _ _ _ o _ _ => (o.cls, o.ord)
  | .vsts _ _ _ _ o _ _ _ => (o.cls, o.ord)
  | .vstt _ _ _ _ o _ _ => (o.cls, o.ord)
  | .vsct _ _ _ _ o _ _ => (o.cls, o.ord)
  | .vstc _ _ _ _ cls _ _ => (cls, .plain)
  | .bget _ _ _ _ _ o _ => (o.cls, o.ord)
  | .bput _ _ _ _ _ o => (o.cls, o.ord)
  | .bcpy _ _ _ _ _ o => (o.cls, o.ord)
  | .bfill _ _ _ _ o _ => (o.cls, o.ord)
  | .xflag _ o => (o.cls, o.ord)
  | .bcan _ o => (o.cls, o.ord)
  | .rlpub _ _ _ _ _ o _ => (o.cls, o.ord)
  | .rlstp _ _ o => (o.cls, o.ord)
  | .rlqry _ _ o => (o.cls, o.ord)
  | .cbind _ _ o _ _ => (o.cls, o.ord)
  | .crel _ o _ _ => (o.cls, o.ord)
  | .ccoll _ _ _ _ _ o => (o.cls, o.ord)
  | .ccmp _ _ _ _ _ o _ => (o.cls, o.ord)
  | .cdcp _ _ _ _ _ o _ => (o.cls, o.ord)
  | .cstat _ _ o => (o.cls, o.ord)
  | i => match i.mma? with | some a => (a.ord.cls, a.ord.ord) | none => (0, .plain)

/-- The path of an XFR instruction's accesses as its bit in a FENCE mask: P4, P5, or none (R245). -/
def xfPath (i : Instr) : Nat :=
  match i with
  | .bcpy (.object _) .. => 32
  | .rlpub .. => 32
  | .ccoll .. => 32
  | .ccmp .. => 32
  | .cdcp .. => 32
  | .rlstp .. => 0
  | .crel .. => 0
  | .xflag .. => 0
  | .bcan .. => 0
  | _ => 16

/-- The flag register of an XFR instruction, 0 for none. -/
def xfFlag (i : Instr) : Nat :=
  match i with
  | .bget _ _ _ _ f _ _ => f
  | .bput _ _ _ _ f _ => f
  | .bcpy _ _ _ _ f _ => f
  | .bfill _ _ _ f _ _ => f
  | .xflag f _ => f
  | .bcan f _ => f
  | .rlpub _ _ _ _ f _ _ => f
  | .rlstp _ f _ => f
  | .rlqry _ f _ => f
  | .cbind _ f _ _ _ => f
  | .crel f _ _ _ => f
  | .ccoll _ _ _ _ f _ => f
  | .ccmp _ _ _ _ f _ _ => f
  | .cdcp _ _ _ _ f _ _ => f
  | .cstat _ f _ => f
  | _ => 0

/-- The path bits of the accesses that a command still has to make, in a FENCE mask: P1 to P5, none for an MX command whose operands lie
in tiles (R188, R241, R245, R247). -/
def cmdPaths (c : Cmd) : Nat :=
  match c.eng with
  | .vl => 2
  | .vs => 4
  | .mx => if c.ma.src = .tile ∧ c.mb.src = .tile then 0 else 8
  | .xf => Nat.lor (if c.paid then 0 else xfPath c.instr) (if xfFlag c.instr = 0 then 0 else 16)
  | .va => 0

/-- PREF and HINT order with nothing (R153, R169). -/
def isHintCmd : Instr → Bool
  | .pref .. => true
  | .hint .. => true
  | _ => false

/-- Every access before a fence that it covers has been performed: its slot's P0 accesses and engine commands issued earlier,
and no posted access that the pool rejected (R187, R189). A command discarded by BRK has left its queue and is not awaited. -/
def fenceMet (sl : Slot) (cmds : List Cmd) (f : FenceRec) : Bool :=
  sl.p0.all (fun a => !(decide (a.seq < f.seq) && f.paths.testBit 0 && classIn f.classes a.cls)) &&
    sl.deferred.all (fun d => d.blocks.all (fun b => !(decide (d.seq < f.seq) && Nat.land f.paths b.1 != 0 && classIn f.classes b.2.1))) &&
    cmds.all (fun c => !(decide (c.seq < f.seq) && !c.marker && !isHintCmd c.instr &&
      Nat.land f.paths (cmdPaths c) != 0 && classIn f.classes (cmdOrd c.instr).1))

/-- An access of the slot with this path mask, class and issue number waits at no fence (R189). -/
def fencesPass (sl : Slot) (cmds : List Cmd) (paths cls seq : Nat) : Bool :=
  sl.fences.all (fun f => !(decide (f.seq < seq) && Nat.land f.paths paths != 0 && classIn f.classes cls) || fenceMet sl cmds f)

/-- The commands of a slot in its core's queues. -/
def State.slotCmds (s : State) (c k : Nat) : List Cmd := (s.core c).cmds.filter (fun x => x.slot == k)

/-- No posted access on this path that the pool rejected is in local order before one with this class, order and issue number
(R187). -/
def Slot.noReject (sl : Slot) (path seq cls : Nat) (ord : Ord2) : Bool :=
  sl.deferred.all (fun d => d.blocks.all (fun b => !(b.1 == path && decide (d.seq < seq) && localOrder b.2.1 b.2.2 cls ord)))

/-- A P0 access with this class, order and issue number may be performed now (R175, R187, R189). -/
def p0Free (sl : Slot) (cmds : List Cmd) (seq cls : Nat) (ord : Ord2) : Bool :=
  sl.p0.all (fun a => !(decide (a.seq < seq) && localOrder a.cls a.ord cls ord)) && sl.noReject 1 seq cls ord &&
    fencesPass sl cmds 1 cls seq

/-- Satisfied fences leave the slot, the oldest first: a ninth waits for the oldest (R189). -/
def State.dropFences (s : State) (c k : Nat) : State :=
  let cmds := s.slotCmds c k
  s.modSlot c k (fun sl => { sl with fences := sl.fences.dropWhile (fun f => fenceMet sl cmds f) })

/-! ### The pool's lease table (R370, R372, R373) -/

/-- The pool's row of a lease name (R372). -/
def State.leaseRow (s : State) (name : Word) : PoolLease :=
  (s.links.leases.find? (fun l => l.name == name)).getD { name := name }

/-- The pool's row of a name replaced. -/
def State.setRow (s : State) (row : PoolLease) : State :=
  s.modLinks (fun l => { l with leases := l.leases.filter (fun x => x.name != row.name) ++ [row] })

/-- This package holds the name, in its present incarnation. -/
def State.holdsRow (s : State) (row : PoolLease) : Bool := row.holder == some (.own s.boots)

/-- The pool would answer STALE to a write with this lease name and token: the token is not the name's current one, or the lease
has ended at the pool (R373). -/
def State.poolStale (s : State) (name tok : Word) : Bool :=
  let row := s.leaseRow name
  row.token != tok || !s.holdsRow row || decide (row.till ≤ s.tick)

/-- A STALE answer makes a LIVE step lease LOST (R370). -/
def State.loseLease (s : State) (p : Nat) : State :=
  if (s.part p).lease.st = .live then s.setPart p { s.part p with lease := { (s.part p).lease with st := .lost } } else s

/-- The state of a partition's step lease at this tick: LIVE ends when TICK reaches E_d (R370). -/
def State.leaseState (s : State) (p : Nat) : LeaseSt :=
  let l := (s.part p).lease
  if l.st = .live ∧ l.till ≤ s.tick then .lost else l.st

/-! ### Requests to the pool and to peers (R342, R363, R364, R366) -/

/-- The next sequence number for a token field, which only writes and atomics take (R366). -/
def State.reqNumber (s : State) (token : Option Word) : Nat × State :=
  let field := match token with
    | some t => t.toNat
    | none => 2 ^ 63 + epochOf s.boots
  let n := mget 0 s.links.reqSeq field + 1
  (n, s.modLinks (fun l => { l with reqSeq := mput 0 l.reqSeq field n }))

/-- A request leaves the package: a message under its key, and a request id when it writes. -/
def State.sendReq (s : State) (p key : Nat) (write : Bool) (token : Option Word) : Nat × State :=
  let s := if p = fontanier then s else s.sealMsg p key
  if write then s.reqNumber token else (0, s)

/-- The occupied slots, as (core, slot number, slot). -/
def State.slots (s : State) : List (Nat × Nat × Slot) :=
  s.cores.flatMap (fun ck => ck.2.slots.map (fun ks => (ck.1, ks.1, ks.2)))

/-- Outstanding accesses of slots and saved contexts. -/
def State.allP0 (s : State) : List P0Acc :=
  s.slots.flatMap (fun x => x.2.2.p0) ++ s.parts.flatMap (fun kp => kp.2.tasks.flatMap (fun t => t.p0))

/-- The destination of an outstanding access (R363). -/
def State.accDest (s : State) (a : P0Acc) : Nat := if a.aper = .peer then 256 + a.peer else s.sliceOf (a.addr / 2 ^ 21)

/-- The line of an access: the peer package, if it is on a PEER page, and the line's number. -/
def P0Acc.line (a : P0Acc) : Option Nat × Nat := (if a.aper = .peer then some a.peer else none, a.addr / 128)

/-- The conduit on which an access is outstanding. -/
def Req.conduit? : Req → Option Nat
  | .sent n => some n
  | _ => none

/-- A request for a line is outstanding on another conduit than `n`, for which a new one on `n` waits (R363). -/
def State.lineBusy (s : State) (line : Option Nat × Nat) (n : Nat) : Bool :=
  s.allP0.any (fun b => b.req.conduit?.any (fun m => m != n) && b.line == line)

/-- An outstanding access needs a request to the pool or to a peer. -/
def State.p0Needs (s : State) (p : Nat) (a : P0Acc) : Bool :=
  s.needsRoute p { aper := a.aper, addr := a.addr } a.size a.scope a.op.writes

/-- An outstanding access changed. -/
def State.modAcc (s : State) (c k seq : Nat) (f : P0Acc → P0Acc) : State :=
  s.modSlot c k (fun sl => { sl with p0 := sl.p0.map (fun a => if a.seq = seq then f a else a) })

/-- The request of an access has been sent (R366). -/
def P0Acc.wasSent (a : P0Acc) : Bool := a.sentAt.isSome

/-- 2 ms have passed since the first send of the request: no copy is sent any more, and 0x0D reports it (R366). -/
def P0Acc.expired (a : P0Acc) (tick : Nat) : Bool := a.sentAt.any (fun t => decide (t + 2000000 ≤ tick))

/-- The request of an access goes out on conduit `n`, or a copy of it with the same request id (R364, R366). -/
def State.sendAcc (s : State) (c k part n : Nat) (a : P0Acc) : State :=
  let q := s.sendReq part a.key (a.op.writes && a.reqSeq == 0) a.token
  q.2.modAcc c k a.seq (fun a =>
    { a with req := .sent n, reqSeq := if a.reqSeq = 0 then q.1 else a.reqSeq, sentAt := a.sentAt.or (some s.tick), retry := false,
             timed := none })

/-! ### Performing a P0 access (R157, R158, R160 to R162, R187) -/

/-- The fault of an outstanding access that cannot be performed. -/
def P0Acc.fault (a : P0Acc) (code : Nat) : FaultRec :=
  { code := code, addr := a.off, gpa := a.gpa, wr := a.op.writes, oid := a.oid, leaf := a.leaf, x0 := a.x0, xhi := a.xhi }

/-- Where an outstanding access goes. -/
def P0Acc.loc (a : P0Acc) (c part : Nat) : Loc := { aper := a.aper, addr := a.addr, core := c, part := part, lcls := a.lcls }

/-- What the read of an outstanding access leaves in the caches. -/
def P0Acc.fill (a : P0Acc) : Fill := { evict := a.evict, tile := a.tile, sent := a.sentAt }

/-- An outstanding access leaves the slot. -/
def Slot.dropAcc (sl : Slot) (seq : Nat) : Slot := { sl with p0 := sl.p0.filter (fun a => a.seq != seq) }

/-- An access as it is repeated: it has not been sent. -/
def P0Acc.renew (a : P0Acc) : P0Acc := { a with req := .fresh, reqSeq := 0, sentAt := none, retry := false, timed := none }

/-- An access whose request is held, for a training conduit or until MAPST is ACTIVE (R364). -/
def P0Acc.hold (a : P0Acc) (tick : Nat) (timed : Bool) : P0Acc :=
  { a with req := .held, first := if a.req = .held then a.first else tick, timed := if timed then a.timed.or (some tick) else none }

/-- The deferred fault that an access becomes. -/
def P0Acc.deferral (a : P0Acc) (f : FaultRec) (redo : Bool) : Deferred :=
  { seq := a.seq, fault := f, sd := a.op.target, redo := if redo then some a.renew else none,
    blocks := if f.code = 0x0D ∧ a.op.target = none then some (1, a.cls, a.ord) else none }

/-- An outstanding access becomes a deferred fault. -/
def State.deferWith (s : State) (c k : Nat) (a : P0Acc) (f : FaultRec) (redo : Bool) : State :=
  s.modSlot c k (fun sl => { sl.dropAcc a.seq with deferred := sl.deferred ++ [a.deferral f redo] })

/-- An outstanding access becomes a deferred fault: the data is uncorrectable, or its request was answered with a failure. A
load or an atomic that returns a value is repeated on resume (R156, R158, R162). -/
def State.deferAcc (s : State) (c k : Nat) (a : P0Acc) (code : Nat) (redo : Bool) : State := s.deferWith c k a (a.fault code) redo

/-- The new value of a read-modify-write, and whether it is written (R160, R161). -/
def P0Op.newVal (o : P0Op) (w old : Nat) : Nat :=
  match o with
  | .rmw op b _ => aopNew op w old b
  | .cas b cmp _ => if old = cmp then b else old
  | .store d => d
  | .load _ => old

/-- The kind of access that an operation makes, without the lease check of its issue (R157, R161). -/
def P0Op.kind (o : P0Op) : AccKind :=
  match o with
  | .load _ => kLoad
  | .store _ => { kStore with bound := false }
  | .rmw _ _ none => { kAtom with bound := false }
  | _ => { kAtomf with bound := false }

/-- An outstanding access with the target of a new walk; a request for another target is dropped (R312). -/
def P0Acc.retarget (a : P0Acc) (t : Target) : P0Acc :=
  let b := if t.addr = a.addr ∧ t.aper = a.aper ∧ (t.aper = .peer → leafPeer t.leaf = a.peer) then a else a.renew
  { b with addr := t.addr, aper := t.aper, gpa := t.gpa, leaf := t.leafAt, key := leafKey t.leaf, peer := leafPeer t.leaf,
           lcls := leafLcls t.leaf, till := t.till }

/-- The leases of an access's walk have run out, or a TLBIV or UNMAP came after it: it is translated again before it reaches its
target (R312, R313). -/
def State.translateAgain (s : State) (c k p : Nat) (a : P0Acc) : State :=
  match objAccess s c p a.cap a.off a.size a.size a.op.kind with
  | .ok t => (s.keepNotes c p t.notes).modAcc c k a.seq (fun a => a.retarget t)
  | .error f => if f.hold.isSome then s else s.deferWith c k a { f with x0 := a.x0, xhi := a.xhi } a.op.returns

/-- The gate that an outstanding access meets: a write or an acquire goes to a home slice (R24, R155, R182). -/
def State.accGate (s : State) (c p : Nat) (a : P0Acc) : GateAns :=
  if a.op.writes || Ord2.acquires a.ord then s.gateAt c p a.aper a.addr a.scope else .pass

/-- The pool answers STALE to the write of an outstanding access, which is never applied (R373). -/
def State.accStale (s : State) (a : P0Acc) : Bool := a.token.any (fun tok => s.poolStale a.lname tok)

/-- The slot with the result of an access in its register; a result discarded meanwhile goes nowhere. -/
def Slot.result (sl : Slot) (o : P0Op) (v : Nat) : Slot :=
  match o.target with
  | some n => { sl with ctx := sl.ctx.setReg n (toW v) }
  | none => sl

/-- An outstanding access reaches its target: it reads, writes, and gives its register the old value. An atomic without a result
that finds uncorrectable data has not taken effect, and is repeated on resume like a load (log entry 11). -/
def State.reachP0 (s : State) (c k : Nat) (sl : Slot) (a : P0Acc) : State :=
  let l := a.loc c sl.part
  match a.op with
  | .store d => (s.storeAt l a.scope a.fill (leBytes a.size d)).modSlot c k (fun sl => sl.dropAcc a.seq)
  | op =>
    if s.locPoison l a.size a.scope then (s.dropPoisoned l a.size a.scope).deferAcc c k a 0x0E true
    else
      let old := leNat (s.locBytes l a.size a.scope)
      let s := s.afterRead l a.size a.scope a.fill
      let s := if op.writes then s.storeAt l a.scope a.fill (leBytes a.size (op.newVal (8 * a.size) old)) else s
      s.modSlot c k (fun sl => (sl.dropAcc a.seq).result op old)

/-- An outstanding access is performed at its target, or meets there what prevents it. -/
def State.performP0 (s : State) (c k : Nat) (sl : Slot) (a : P0Acc) : State :=
  if a.aper ≠ .spad ∧ a.till ≤ s.tick then s.translateAgain c k sl.part a
  else
    match s.accGate c sl.part a with
    | .wait => s
    | .closed => s.deferAcc c k a 0x14 a.op.returns
    | .pass =>
      if s.accStale a then (s.loseLease sl.part).deferAcc c k a 0x0D a.op.returns else s.reachP0 c k sl a

/-- The outcome of a request is not known: it was sent, and did not come back with retry status (R364, R366). -/
def P0Acc.unknown (a : P0Acc) : Bool := a.wasSent && !a.retry

/-- A write whose outcome is never known took effect or did not: a free value decides (R332, R366). -/
def State.strayWrite (s : State) (c part : Nat) (a : P0Acc) : State :=
  if a.op.writes then
    let t := s.takeFree.2
    if s.takeFree.1.getLsbD 0 && !s.accStale a then
      let l := a.loc c part
      t.storeLoc l a.scope (leBytes a.size (a.op.newVal (8 * a.size) (leNat (t.locBytes l a.size a.scope))))
    else t
  else s

/-- A request that is given up may have taken effect where its outcome is not known. -/
def State.giveUp (s : State) (c p : Nat) (a : P0Acc) : State := if a.unknown then s.strayWrite c p a else s

/-- An access that needs a request makes it now, or a copy of it (R364). A lease-bound one is never sent past the end of its step
lease, no copy goes out 2 ms after the first send (R366), and a copy without a route is held. -/
def State.sendP0 (s : State) (c k p : Nat) (a : P0Acc) : State :=
  if a.token.isSome && !s.leaseLive p then (s.giveUp c p a).deferAcc c k a 0x0D a.op.returns
  else
    match s.route (s.accDest a) (a.addr / 128) with
    | .sent n => if s.lineBusy a.line n || a.expired s.tick then s else s.sendAcc c k p n a
    | .fenced => s.deferAcc c k a 0x0D a.op.returns
    | .down => if a.unknown then s.modAcc c k a.seq (fun a => a.hold s.tick false) else s.deferAcc c k a 0x12 a.op.returns
    | .timed => s.modAcc c k a.seq (fun a => a.hold s.tick true)
    | .held => s.modAcc c k a.seq (fun a => a.hold s.tick false)

/-- A held request meets the conduits as they are now: it goes out once MAPST is ACTIVE, or once a conduit that it waits for has trained
(R364). -/
def State.retryHeld (s : State) (c k p : Nat) (a : P0Acc) : State :=
  if a.req = .held ∧ (s.mapst = 0 ∨ a.timed.isSome = true) then s.sendP0 c k p a else s

/-- An outstanding access goes on: it makes its request, or is performed. -/
def State.stepP0 (s : State) (c k : Nat) (sl : Slot) (a : P0Acc) : State :=
  if a.req = .fresh ∧ s.p0Needs sl.part a then s.sendP0 c k sl.part a else s.performP0 c k sl a

/-- The outstanding access needs nothing more than its turn: it is not held. -/
def Req.ready : Req → Bool
  | .held => false
  | _ => true

/-- An outstanding access may go on now: it is not held, its outcome may still arrive, and nothing before it stands in its way. -/
def State.accFree (s : State) (c k : Nat) (sl : Slot) (a : P0Acc) : Bool :=
  a.req.ready && !a.expired s.tick && p0Free sl (s.slotCmds c k) a.seq a.cls a.ord

/-- Outstanding accesses that can be performed are, in the order of issue; those held or fenced off stay. -/
def State.flushP0 (s : State) (c k : Nat) : List P0Acc → State
  | [] => s
  | a :: as =>
    match s.slot? c k with
    | none => s
    | some sl => if s.accFree c k sl a then (s.stepP0 c k sl a).flushP0 c k as else s.flushP0 c k as

/-! ### Guest memory through stage 2 alone -/

/-- What a write of bytes at a target that stage 2 alone gave meets before it: a gate, or a route that is not there (R24, R364). -/
def State.gwriteStop (s : State) (r p : Nat) (t : Target) (bs : List Byte) : Option FaultRec :=
  (s.gateStop r p t 3).or ((s.accRoute p t bs.length 3 true).bind (fun x => x.stop t.gpa t.leafAt))

/-- What such a write leaves: its request goes out where it needs one. -/
def State.gwrote (s : State) (r p : Nat) (t : Target) (bs : List Byte) : State :=
  let u := s.keepNotes r p t.notes
  let u := if (s.accRoute p t bs.length 3 true).isSome then (u.sendReq p (leafKey t.leaf) true none).2 else u
  u.storeLoc (t.loc r p) 3 bs

/-- A write of bytes at guest-physical addresses of partition `p`, one page after another, as requests of its own; a fault when stage 2
refuses a page, or its request cannot go out now. -/
def State.gwrite (s : State) (r p : Nat) : Nat → Nat → List Byte → Except FaultRec State
  | 0, g, bs => if bs.isEmpty then .ok s else .error { walkFault 0x09 false g with wr := true }
  | n + 1, g, bs =>
    if bs.isEmpty then .ok s
    else
      let m := 2 ^ 21 - g % 2 ^ 21
      match s2Alone s r p [] g needW false with
      | .error f => .error { f with wr := true }
      | .ok t =>
        match s.gwriteStop r p t (bs.take m) with
        | some f => .error { f with wr := true }
        | none => (s.gwrote r p t (bs.take m)).gwrite r p n (g + m) (bs.drop m)

/-- A read of bytes at guest-physical addresses, with the notes of its walks; a fault where stage 2 refuses a page, its request
cannot go out, or the data is uncorrectable. -/
def State.gread (s : State) (r p : Nat) : Nat → Nat → Nat → Except FaultRec (List Byte × List Note)
  | 0, _, _ => .ok ([], [])
  | k + 1, g, n =>
    if n = 0 then .ok ([], [])
    else
      let m := min n (2 ^ 21 - g % 2 ^ 21)
      match s2Alone s r p [] g needR false with
      | .error f => .error f
      | .ok t =>
        match tableRead s r p t m with
        | .error f => .error f
        | .ok (b, ns) =>
          match s.gread r p k (g + m) (n - m) with
          | .error f => .error f
          | .ok (bs, ms) => .ok (b ++ bs, ns ++ ms)

/-! ### Groups and barrier power steering (R278, R281) -/

/-- Group `g` of a partition. -/
def State.group (s : State) (p g : Nat) : Group := mget {} (s.part p).groups g
/-- A group replaced. -/
def State.setGroup (s : State) (p g : Nat) (v : Group) : State := s.setPart p { s.part p with groups := mput {} (s.part p).groups g v }

/-- Running tasks of a region. A task whose save waits for a frame slot has left off running (R300). -/
def State.running (s : State) (r : Nat) : List Slot := ((s.core r).slots.map (fun p => p.2)).filter (fun sl => sl.saving.isNone)

/-- The regions that donate to group `g`: a member parked in its phase last ran there, and nothing runs there now. -/
def State.donors (s : State) (p g : Nat) : List Nat :=
  (s.regionsOf p (fun q => q.state == .owned)).filter (fun r => (s.running r).isEmpty &&
    (s.part p).tasks.any (fun t => t.state == .parkedWait && t.wait == some (.barrier g) && t.core == r))

/-- The recipients of group `g`: a Running member that has not arrived runs there. -/
def State.recipients (s : State) (p g : Nat) : List Nat :=
  (s.regionsOf p (fun q => q.state == .owned)).filter (fun r => (s.running r).any (fun sl =>
    (s.group p g).members.contains sl.task && !(s.group p g).arrived.contains sl.task))

/-- Steps given one at a time, round robin; a recipient at its cap leaves the round. -/
def giveSteps (cap : Nat → Nat) : Nat → Nat → List Nat → Map Nat → Map Nat
  | 0, _, _, m => m
  | _ + 1, 0, _, m => m
  | _ + 1, _, [], m => m
  | f + 1, n + 1, r :: q, m =>
    if mget 0 m r < cap r then giveSteps cap f n (q ++ [r]) (mput 0 m r (mget 0 m r + 1)) else giveSteps cap f (n + 1) q m

/-- The most steps that a region may receive: 4, 2.0 GHz less BASE, and none while a protection of R390 holds its BASE down. -/
def State.stepCap (s : State) (r : Nat) : Nat := if (s.region r).base < 16 then 0 else min 4 (20 - (s.region r).base)

/-- The clocks of a partition's regions after a change of groups, of running tasks or of its regions. A region that is a donor of
two groups gives 4 steps to each (log entry 80, DESIGN CHOICE); a region in QUIESCE gives and takes none, and one in HELD has the clock
of R328. -/
def State.steer (s : State) (p : Nat) : State :=
  if p = fontanier then s
  else
    let gs := (s.part p).groups.map (fun g => g.1)
    let recv := gs.foldl (fun m g => giveSteps s.stepCap 400 (4 * (s.donors p g).length) (s.recipients p g) m) []
    let don := gs.flatMap (s.donors p)
    (s.regionsOf p (fun g => g.state == .owned || g.state == .held || g.state == .quiesce)).foldl (fun s r =>
      let n := mget 0 recv r
      let d := don.contains r
      let cur := if (s.region r).state = .held then 16 else if d then 8 else (s.region r).base + n
      let s := if (s.region r).cur = cur then s else s.setClock r cur
      s.setRegion r { s.region r with recv := n, donor := d }) s

/-! ### Tasks and slots -/

/-- The slot that a task occupies. -/
def State.slotOf (s : State) (p id : Nat) : Option (Nat × Nat × Slot) :=
  s.slots.find? (fun x => x.2.2.part == p && x.2.2.task == id)

/-- A task made Ready at the tail of its level with AGE 0 (R270, R275). -/
def State.makeReady (s : State) (p id : Nat) : State :=
  (s.modTask p id (fun t => { t with state := .ready, age := 0, order := s.clock, readyAt := s.clock, wait := none })).bump

/-- The frame slots of a partition that no task holds, the lowest first (R300). -/
def State.freeFrame (s : State) (p : Nat) : Option Nat :=
  (List.range (bits (s.part p).frmcnt 15 0)).find? (fun i => (s.part p).tasks.all (fun t => t.frameAt != some i))

/-- The guest-physical address of frame slot `i`. -/
def State.frameAddr (s : State) (p i : Nat) : Nat := bits (s.part p).frmbase 47 16 * 2 ^ 16 + frameStride * i

/-- FLTCODE of a fault (R295). -/
def FaultRec.fltcode (f : FaultRec) : Word :=
  toW (f.tnum % 2 ^ 16 * 2 ^ 16 + f.eng % 8 * 2 ^ 13 + (if f.hv then 2 ^ 12 else 0) + (if f.walk then 2 ^ 11 else 0) +
    (if f.wr then 2 ^ 10 else 0) + f.code % 256)

/-- The tiles of some banks among cells. -/
def bankCells (cells : Map (BitVec 32)) (banks : Nat) : Map (BitVec 32) := cells.filter (fun p => banks.testBit (p.1 / 8192))

/-- The cells outside some banks. -/
def otherCells (cells : Map (BitVec 32)) (banks : Nat) : Map (BitVec 32) := cells.filter (fun p => !banks.testBit (p.1 / 8192))

/-- What a frame of this slot holds; `pre` says that pre-emption or TYLD saves it (R302). -/
def State.frameOf (s : State) (c k : Nat) (sl : Slot) (t : Task) (pre : Bool) : FrameParts :=
  let cmds := s.slotCmds c k
  let f := match t.fault with | some f => f | none => { code := 0, addr := 0 }
  { banks := sl.banks, flags := (if sl.sup then 1 else 0) + (if sl.ctx.pipe.isSome then 4 else 0) + (if pre then 8 else 0),
    spkib := cdiv t.spkib 4 * 4, taskid := t.id, feats := s.host.accepted, prio := t.prio, pin := t.pin,
    fcode := if t.fault.isSome then f.fltcode else 0, faddr := if t.fault.isSome then toW f.addr else 0,
    fgpa := if t.fault.isSome then toW f.gpa else 0, ctx := sl.ctx, slice := s.sliceLeft c sl,
    ctl := (controlImages sl.fences sl.tokps).map (fun p => p.2), cmds := cmds,
    cells := bankCells (s.core c).cells sl.banks }

/-- The window image of a task: the bytes of its window (R302, R319). -/
def State.windowBytes (s : State) (t : Task) : List Byte :=
  match t.window with
  | some (c, base, size) => rdBytes (s.core c).spad base size
  | none => []

/-- The step lease of a partition is given up without waiting: the release of a LIVE one is sent, and the pool may grant the name
again if this package still holds it under that token (R370, R372). -/
def State.giveLease (s : State) (p : Nat) : State :=
  let q := s.part p
  let row := s.leaseRow q.lease.name
  let s := if s.leaseState p = .live ∧ s.holdsRow row = true ∧ row.token = q.lease.token then s.setRow { row with holder := none } else s
  s.setPart p { s.part p with lease := {}, acq := none }

/-- A slot that leaves cancels its waiting LSACQ; a grant that has come is given back at once (R378). -/
def State.cancelAcq (s : State) (c k : Nat) : State :=
  s.parts.foldl (fun s kp =>
    match kp.2.acq with
    | some a =>
      if a.core = c ∧ a.slot = k then
        (if a.done = some 0 then s.giveLease kp.1 else s.setPart kp.1 { s.part kp.1 with acq := none })
      else s
    | none => s) s

/-- Units of an arbiter leave. -/
def Arbiter.drop (a : Arbiter) (sel : WorkUnit → Bool) : Arbiter :=
  { a with pending := a.pending.filter (fun u => !sel u), granted := a.granted.filter (fun u => !sel u) }

/-- Units of commands of the engine commons leave their arbiters and the queues of bound engines (R258, R260). -/
def State.dropUnits (s : State) (sel : WorkUnit → Bool) : State :=
  s.modGrotto (fun g => { g with
    bulk := g.bulk.drop sel, compress := g.compress.drop sel, collect := g.collect.drop sel
    bindings := g.bindings.map (fun b => { b with queue := b.queue.filter (fun u => !sel u) }) })

/-- The slot is free: its commands leave the queues, its sluice requests are dropped, and its banks are zero (R88, R201). -/
def State.freeSlot (s : State) (c k banks : Nat) : State :=
  let s := s.cancelAcq c k
  let s := s.dropUnits (fun u => u.core == c && u.slot == k)
  let co := s.core c
  s.setCore c { co with slots := merase co.slots k, cmds := co.cmds.filter (fun x => x.slot != k),
                        sluiceRq := co.sluiceRq.filter (fun r => r.slot != k), cells := otherCells co.cells banks }

/-- The state in which a task's saved context has a fate (R270). -/
def Fate.state : Fate → TState
  | .parkedFault => .parkedFault
  | .failed => .failed
  | .parkedWait => .parkedWait
  | .requeue => .ready

/-- The command writes through a lease-bound capability (R144). -/
def Cmd.leaseBound (c : Cmd) : Bool :=
  !c.marker && !isHintCmd c.instr &&
    (match c.eng with
     | .vs => c.cap.lb == 1
     | .xf => c.cap.lb == 1 || c.capF.lb == 1
     | _ => false)

/-- The task with what its slot keeps beside the frame (log entry 12). -/
def Task.keep (t : Task) (sl : Slot) (cmds : List Cmd) (frame core : Nat) (fate : Fate) : Task :=
  { t with
    state := fate.state, frameAt := some frame, core := core, fresh := false,
    retained := if fate = .requeue ∨ sl.banks = 0 then none else some core,
    priv := (controlImages sl.fences sl.tokps).map (fun p =>
        { seq := p.1, va := 0, vb := 0, vc := 0, vf := 0 : Priv }) ++ (frameCmds cmds).map Cmd.priv,
    p0 := sl.p0 ++ sl.redo, deferred := sl.deferred, effect := sl.effect, unmaps := sl.unmaps, hsel := sl.hsel, rsel := sl.rsel, seq := sl.seq,
    ma := sl.ctx.ma, mb := sl.ctx.mb, flt := sl.flt, breaks := sl.breaks, rebind := sl.rebind, trigAt := sl.trigAt,
    pushes := (sl.ctx.pipe.map (fun p => p.pushes)).getD [0, 0, 0, 0, 0], bound := cmds.any Cmd.leaseBound }

/-- The context of a slot is saved into a free frame slot and the slot is freed; with no usable frame slot the task stays
in its slot and the save is left pending (R300). -/
def State.saveSlot (s : State) (c k : Nat) (fate : Fate) : State :=
  let s := match s.slot? c k with
    | some sl => s.flushP0 c k sl.p0
    | none => s
  match s.slot? c k with
  | none => s
  | some sl =>
    match s.task? sl.part sl.task with
    | none => s
    | some t =>
      let pend := (s.setSlot c k { sl with saving := some fate, phase := .run }).steer sl.part
      match s.freeFrame sl.part with
      | none => pend
      | some i =>
        match s.gwrite c sl.part 2 (s.frameAddr sl.part i) ((s.frameOf c k sl t (fate = .requeue)).bytes []) with
        | .error _ => pend
        | .ok s' =>
          let t := t.keep sl (s.slotCmds c k) i c fate
          let s' := ((s'.putTask sl.part t).freeSlot c k sl.banks).steer sl.part
          if fate = .requeue ∨ (fate = .parkedWait ∧ t.wait = none) then s'.makeReady sl.part sl.task else s'

/-! ### Taking a fault (R297 to R299) -/

/-- How a fault is routed (R298): to a handler of the hypervisor (`some true`) or of the partition (`some false`), or to none;
with the fate of the task, HV, and the class under which it is logged. -/
structure Routed where
  handler : Option Bool
  fate    : Fate
  hv      : Bool
  log     : Option Nat := none
  deriving DecidableEq, Repr

/-- A handler template is set (R295). -/
def hndlV (w : Word) : Bool := w.getLsbD 63

/-- The route of a fault (R298). `trapHv` is a TRAP with .hv. -/
def State.routeFault (s : State) (part : Nat) (fromHndl : Bool) (code : Nat) (trapHv : Bool) : Routed :=
  let hndl := hndlV (s.part part).hndl
  if part = fontanier then ⟨none, .failed, false, some 5⟩
  else if fromHndl || code == 0x09 || code == 0x0A || code == 0x14 || trapHv || !hndl then
    if hndlV s.grotto.hvhndl then ⟨some true, .parkedFault, true, none⟩
    else if hndl && !fromHndl then ⟨some false, .failed, true, none⟩
    else ⟨none, .failed, true, some 6⟩
  else ⟨some false, .failed, false, none⟩

/-- A handler record waits to be entered (R299). -/
def State.pendHandler (s : State) (hv : Bool) (f : FaultRec) (part task : Nat) : State :=
  s.modGrotto (fun g => { g with pend := g.pend ++
    [{ part := if hv then fontanier else part, hv := hv, fault := f, fpart := part, ftask := task }] })

/-- The fault is recorded for the task, its handler is pended, and it is logged where R298 says so. -/
def State.deliver (s : State) (part id region : Nat) (r : Routed) (f : FaultRec) : State :=
  let f := { f with hv := r.hv, tick := s.tick }
  let s := s.modTask part id (fun t => { t with fault := some f })
  let s := match r.handler with
    | some hv => s.pendHandler hv f part id
    | none => s
  match r.log with
  | some cls => s.logError cls region (if part = fontanier then 6 else 0) (if part = fontanier then 0xFF else part) f.addr f.code
  | none => s

/-- TAKING A FAULT: the record is made, the route decides the fate of the task, its handler is pended, every engine of the
slot has finished its step, and the context is saved (R297, R298). `trapHv` is a TRAP with .hv. -/
def State.raiseFault (s : State) (c k : Nat) (f : FaultRec) (trapHv : Bool := false) : State :=
  match s.slot? c k with
  | none => s
  | some sl =>
    let fromHndl := match s.task? sl.part sl.task with | some t => t.handler | none => false
    let r := s.routeFault sl.part fromHndl f.code trapHv
    let s := s.deliver sl.part sl.task c r f
    let s := s.modTask sl.part sl.task (fun t => { t with state := r.fate.state })
    s.saveSlot c k r.fate

/-- A fault raised for a task that holds no slot (R305, R331): its record, its route and its handler. A TLWAIT in which it was parked
issues again from the start (R290). -/
def State.raiseParked (s : State) (part id region : Nat) (f : FaultRec) : State :=
  let fromHndl := match s.task? part id with | some t => t.handler | none => false
  let r := s.routeFault part fromHndl f.code false
  (s.deliver part id region r f).modTask part id (fun t => { t with state := r.fate.state, passed := none })

/-- RETURNING FROM A FAULT: a Parked, fault, or Failed task is queued at its priority with AGE 0, and its frame restarts it
(R299, R316). -/
def State.resumeTask (s : State) (p id : Nat) : State := s.makeReady p id

/-! ### Issue -/

/-- What the body of an instruction does, once its issue checks have passed. -/
inductive Body where
  /-- It has taken effect; the next word follows. -/
  | done (s : State)
  /-- It has taken effect and control continues at an offset. -/
  | jump (s : State) (next : Nat)
  /-- The slot stalls; nothing but what `s` shows has happened, and the instruction issues again. -/
  | stall (s : State)
  /-- A precise fault: the instruction has no effect but the fault. -/
  | fault (f : FaultRec)
  /-- Such a fault, with what the access that met it leaves in the caches: a line delivered as uncorrectable is gone (R391). -/
  | lost (s : State) (f : FaultRec)
  /-- The task has left the slot, or the slot issues no more. -/
  | left (s : State)

/-- A fault of the control core without an access: FLTADDR is the instruction's code offset (R295). -/
def ctlFault (code : Nat) (sl : Slot) : FaultRec := { code := code, addr := sl.ctx.pc }

/-- The slot issues instructions: it is not saving its context, draining or ending, and its restored TOKPs hold their
reservations (R195, R300, R306). -/
def Slot.issues (sl : Slot) : Bool :=
  sl.saving.isNone && (sl.phase == .run || sl.phase == .preWait) && sl.tokps.all (fun t => t.reserved)

/-- The first word of the kernel (R61). -/
def Pipe.kernel (p : Pipe) : Nat := p.off + 8 + 8 * p.p

/-- The last word of the kernel (R61). -/
def Pipe.kernelEnd (p : Pipe) : Nat := p.off + 8 * (p.p + p.k)

/-- The end word (R61). -/
def Pipe.endWord (p : Pipe) : Nat := p.off + 8 + 8 * (p.p + p.k + p.e)

/-- Rule 1 of R132: before the first word of a segment with tag t ≥ d, every command of the loop tagged t − d or lower has
completed. Once that holds it holds for the segment's other words. -/
def slipOk (sl : Slot) (cmds : List Cmd) : Bool :=
  match sl.ctx.pipe with
  | some p => decide (p.iter < p.depth) || cmds.all (fun c => !(c.inPipe && !c.marker && decide (c.seg + p.depth ≤ p.iter)))
  | none => true

/-- R130: a branch at E, E − 8 or E − 16 of an active loop, or at the last three words of the kernel of an active LOOPP. -/
def nearLoopEnd (x : Ctx) (pc : Nat) : Bool :=
  x.loops.any (fun l => pc == l.stop || pc + 8 == l.stop || pc + 16 == l.stop) ||
    x.pipe.any (fun p => decide (pc ≤ p.kernelEnd) && decide (p.kernelEnd ≤ pc + 16) && decide (p.kernel ≤ pc))

/-- An access of an instruction on P0 is a release (R156, R284). -/
def p0Release : Instr → Bool
  | .sts _ _ _ o _ _ => Ord2.releases o.ord
  | .stp _ _ o _ => Ord2.releases o.ord
  | .ste _ _ _ o _ _ => Ord2.releases o.ord
  | .atom _ _ o _ _ _ _ => Ord2.releases o.ord
  | .atomf _ _ _ o _ _ _ _ => Ord2.releases o.ord
  | .acas _ _ _ o _ _ _ _ => Ord2.releases o.ord
  | .tlinc .. => true
  | .tlset .. => true
  | .ctxsv .. => true
  | .errlog _ _ _ pop => pop
  | .tokchk _ _ _ _ get => get
  | _ => false

/-- FENCE covering P0, WAITC and TEND deliver every deferred fault (R156, R158). -/
def deliversAll : Instr → Bool
  | .fence paths _ _ => paths.testBit 0
  | .waitc .. => true
  | .tend => true
  | .eret .. => true
  | _ => false

/-- The deferred fault whose access issued first (R297). -/
def firstIssued (l : List Deferred) : Option Deferred :=
  l.foldl (fun b d => match b with | some e => if d.seq < e.seq then some d else b | none => some d) none

/-- The deferred fault that this instruction delivers: among those it delivers, the one whose access issued first (R297). -/
def dueFault (sl : Slot) (i : Instr) : Option Deferred :=
  firstIssued (sl.deferred.filter (fun d =>
    deliversAll i || (p0Release i && d.sd == none) ||
      (match d.sd with | some n => n != 0 && i.reads.contains n | none => false)))

/-- The deferred fault that is raised at its own instruction, whose access issued first (R353). -/
def Slot.ownFault (sl : Slot) : Option Deferred := firstIssued (sl.deferred.filter (fun d => d.own))

/-- The record of a deferred fault that the word `w` at offset `pc` delivers: that of its own instruction, or of the word (R297). -/
def Deferred.record (d : Deferred) (w pc : Nat) : FaultRec := if d.own then d.fault else { d.fault with word := w, pc := pc }

/-- The slot after a deferred fault was delivered: the entry leaves, and its access is repeated on resume (R158, R297). -/
def Slot.delivered (sl : Slot) (d : Deferred) : Slot :=
  { sl with deferred := sl.deferred.filter (fun e => e.seq != d.seq), redo := sl.redo ++ d.redo.toList }

/-- A scalar register that the instruction reads has a result on its way (R30, R109). -/
def dependStall (sl : Slot) (i : Instr) : Bool :=
  sl.p0.any (fun a => match a.op.target with | some n => n != 0 && i.reads.contains n | none => false)

/-- What the issue checks answer. -/
inductive Check where
  | pass | stall | fault (f : FaultRec)
  /-- A deferred fault is delivered. -/
  | deferred (d : Deferred)

/-- The checks of R43 after the fetch, in their order, with the stalls of R132 and R109 and the delivery of deferred faults
before the captured values are read. -/
def fieldCheck (s : State) (c : Nat) (sl : Slot) (i : Instr) : Check :=
  let f := fun code => Check.fault (ctlFault code sl)
  let absent := match i.feature with | some b => !s.feature b | none => false
  if absent then f 0x01
  else if (i.transfer && sl.ctx.delay.isSome) || (i.branch && nearLoopEnd sl.ctx sl.ctx.pc) then f 0x03
  else if (slotLevel c sl).rank < i.level.rank then f 0x10
  else if !i.fieldsOk then f 0x02
  else if dependStall sl i then .stall
  else
    match dueFault sl i with
    | some d => .deferred d
    | none =>
      if !i.valuesOk sl.ctx s.feature then f 0x02
      else if !i.scopeOk then f 0x11
      else if !footprintOk sl.banks (i.tiles sl.ctx) then f 0x04
      else .pass

/-- What an instruction meets before its body: the slip rule of R132, a fault of an earlier instruction that is raised at that
instruction, and the checks of R43. -/
def issueCheck (s : State) (c : Nat) (sl : Slot) (cmds : List Cmd) (i : Instr) : Check :=
  if !slipOk sl cmds then .stall
  else
    match sl.ownFault with
    | some d => .deferred d
    | none => fieldCheck s c sl i

/-- The next segment of a LOOPP (R131). -/
def Pipe.next (p : Pipe) (seg : Seg) : Pipe := { p with iter := p.iter + 1, pushes := [0, 0, 0, 0, 0], seg := seg }

/-- The last word of the LOOPP's epilogue stands at offset `o` (R131). -/
def Pipe.lastAt (p : Pipe) (o : Nat) : Bool := p.e != 0 && o + 8 == p.endWord

/-- The LOOPP is over, with control at the context's offset (R131). After a forced loop epilogue the context goes back to the LOOPP,
with the tag of the last kernel pass, where passes are left; where none is left it also does so unless a transfer is pending or
was taken, which then goes on (R134; log entry 81). -/
def Ctx.endPipe (x : Ctx) (p : Pipe) : Ctx :=
  let y := { x with pipe := none, loops := x.loops.filter (fun l => !l.pipe) }
  if p.forced ∧ (x.rem ≠ 0 ∨ (x.pc = p.endWord ∧ x.delay = none)) then
    { y with pc := p.off, delay := none, remIter := if p.seg = .epilogue then p.iter - 1 else p.iter }
  else y

/-- Control reaches offset `pc`: inside a LOOPP the first kernel pass begins at a kernel word; it is over once its last word has
issued (`last`), and where control is at its end word or beyond (R131, R134). -/
def Ctx.arrive (x : Ctx) (pc : Nat) (last : Bool) : Ctx :=
  let y := { x with pc := pc }
  match x.pipe with
  | none => y
  | some p =>
    if last || decide (p.endWord ≤ pc) then y.endPipe p
    else if p.seg = .prologue ∧ p.kernel ≤ pc ∧ pc ≤ p.kernelEnd then { y with pipe := some (p.next .kernel) }
    else y

/-- The word at the context's offset is the last of its LOOPP's epilogue. -/
def Ctx.atLast (x : Ctx) : Bool := x.pipe.any (fun p => p.lastAt x.pc)

/-- The word at the context's offset has issued and control continues at `pc`, without a loop-back (R125, R128, R133). -/
def Ctx.jumpTo (x : Ctx) (pc : Nat) : Ctx := x.arrive pc x.atLast

/-- The loop-back rule of R129 at offset `o`: the counters, the loops that remain, and the loop that goes back. -/
def loopBack (o : Nat) : List LoopRec → Ctx → List LoopRec → Ctx × List LoopRec × Option LoopRec
  | [], x, kept => (x, kept.reverse, none)
  | l :: ls, x, kept =>
    if l.stop = o then
      if (x.lcv l.lc).toNat ≤ 1 then loopBack o ls (x.setLc l.lc 0) kept
      else (x.setLc l.lc (x.lcv l.lc - 1), kept.reverse ++ l :: ls, some l)
    else loopBack o ls x (l :: kept)

/-- Loops that take no part in the loop-back at a LOOPP's last word: those started before it while its forced loop epilogue runs,
since the word issues again after the restore, or its place is taken by the LOOPP that issues again (R134; log entry 81). -/
def Ctx.sitsOut (x : Ctx) (l : LoopRec) : Bool := x.pipe.any (fun p => p.forced && x.pc + 8 == p.endWord && decide (l.ord < p.ord))

/-- The LOOPP after the word at `o`, where `back` went back (R131): after the last word of a kernel pass its own loop-back begins
the next pass, and without one the epilogue follows; a loop inside the kernel that goes back leaves it in its pass. -/
def Pipe.pass (p : Pipe) (o : Nat) (back : Option LoopRec) : Pipe :=
  if p.seg ≠ .kernel ∨ o ≠ p.kernelEnd then p
  else
    match back with
    | some l => if l.pipe then p.next .kernel else if p.ord < l.ord ∨ p.e = 0 then p else p.next .epilogue
    | none => if p.e = 0 then p else p.next .epilogue

/-- The LOOPP is over with the word at `o`: its last word has issued, and neither it nor a loop inside it goes back (R131). -/
def Pipe.isOver (p : Pipe) (o : Nat) (back : Option LoopRec) : Bool := o + 8 == p.endWord && back.all (fun l => decide (l.ord < p.ord))

/-- The context after the word at its offset has issued with `next` as the following word: the delay slots of R126, the
loop-back of R129 and the segments of R131 and R134. -/
def Ctx.retire (x : Ctx) (next : Nat) : Ctx :=
  match x.delay with
  | some d =>
    if d.left ≤ 1 then { x with delay := none }.arrive d.target x.atLast
    else { x with delay := some { d with left := d.left - 1 } }.arrive next x.atLast
  | none =>
    let r := loopBack x.pc (x.loops.filter (fun l => !x.sitsOut l)) x []
    ({ r.1 with loops := r.2.1 ++ x.loops.filter x.sitsOut, pipe := r.1.pipe.map (fun (p : Pipe) => p.pass x.pc r.2.2) }).arrive
      ((r.2.2.map (fun (l : LoopRec) => l.start)).getD next) (x.pipe.any (fun (p : Pipe) => p.isOver x.pc r.2.2))

/-- The context after a word with which its task leaves the slot: a pending transfer stays pending, with the words not yet issued
(R127). -/
def Ctx.stepOver (x : Ctx) : Ctx :=
  match x.delay with
  | some d => { x with delay := some { d with left := d.left - 1 } }.arrive (x.pc + 8) x.atLast
  | none => x.retire (x.pc + 8)

/-- A restored transfer with no word left to issue happens at once (R127). -/
def Ctx.settleDelay (x : Ctx) : Ctx :=
  match x.delay with
  | some d => if d.left = 0 then { x with delay := none }.arrive d.target false else x
  | none => x

/-- The slot after one of its words has issued, with the context that follows. -/
def Slot.retire (sl : Slot) (x : Ctx) : Slot := { sl with ctx := x, stalled := false, seq := sl.seq + 1, heldAt := none }

/-- A pre-emption marker of a slot (R306). -/
def preMarker (k seq : Nat) (e : Eng) : Cmd := { eng := e, slot := k, seq := seq, instr := .nop, marker := true, preMark := true }

/-- The control core stops issuing and places a marker behind the slot's last command in each queue (R306). -/
def State.placeMarkers (s : State) (c k : Nat) : State :=
  match s.slot? c k with
  | some sl =>
    let co := s.core c
    (s.setCore c { co with cmds := co.cmds ++ [Eng.vl, .va, .vs, .mx, .xf].map (preMarker k sl.seq) }).modSlot c k
      (fun sl => { sl with phase := .drain (s.tick + 20000), seq := sl.seq + 1 })
  | none => s

/-- The context after a forced loop epilogue has clamped the trip count of its LOOPP `p` (R134). -/
def Ctx.clamp (x : Ctx) (p : Pipe) : Ctx :=
  let n := (x.lcv p.lc).toNat
  if p.depth < n then
    let y := x.setLc p.lc (toW p.depth)
    { y with pipe := some { p with forced := true }, rem := n - p.depth }
  else { x with pipe := some { p with forced := true }, rem := 0 }

/-- A pre-emption request that was waiting goes on: outside a LOOPP the markers are placed, and in a kernel the forced loop
epilogue begins (R127, R134, R306). -/
def State.resumePreempt (s : State) (c k : Nat) : State :=
  match s.slot? c k with
  | some sl =>
    if sl.phase = .preWait ∧ sl.ctx.delay.isNone then
      match sl.ctx.pipe with
      | none => s.placeMarkers c k
      | some p =>
        if p.seg = .kernel ∧ p.forced = false then s.setSlot c k { sl with ctx := sl.ctx.clamp p } else s
    else s
  | none => s

/-- The pool has rejected a posted access of the slot, which holds back later accesses until the fault is delivered (R187). -/
def Slot.rejected (sl : Slot) : Bool := sl.deferred.any (fun d => d.blocks.isSome)

/-- The forced loop epilogue of a slot has issued its last word, and its commands have completed: the context is saved (R134). -/
def State.finishForced (s : State) (c k : Nat) : State :=
  match s.slot? c k with
  | some sl =>
    if sl.phase = .finish ∧ ((s.slotCmds c k).all (fun x => !x.inPipe || x.marker) ∨ sl.rejected) then s.saveSlot c k .requeue else s
  | none => s

/-- The slot runs a forced loop epilogue. -/
def Slot.forced (sl : Slot) : Bool := sl.ctx.pipe.any (fun p => p.forced)

/-- The instruction has issued: the slot that last issued, the context at the next word, and a waiting pre-emption. -/
def State.retire (s : State) (c k : Nat) (f : Ctx → Ctx) : State :=
  let s := s.setCore c { s.core c with last := k }
  match s.slot? c k with
  | none => s
  | some sl =>
    let sl' := sl.retire (f sl.ctx)
    if sl.forced && sl.phase == .preWait && sl'.ctx.pipe.isNone then
      (s.setSlot c k { sl' with phase := .finish }).finishForced c k
    else (s.setSlot c k sl').resumePreempt c k

/-- An instruction whose slot then saves its context has issued: the context stands at the next word. -/
def State.stepOver (s : State) (c k : Nat) : State :=
  (s.setCore c { s.core c with last := k }).modSlot c k (fun sl => sl.retire sl.ctx.stepOver)

/-- What an instruction meets that prevents it: a fault is raised, or the slot stalls while a request waits (R364). -/
def State.faultOrHold (s : State) (c k : Nat) (f : FaultRec) : State :=
  match f.due ((s.slot? c k).bind (fun sl => sl.heldAt)) s.tick with
  | some f => s.raiseFault c k f
  | none => s.modSlot c k (fun sl => { sl with stalled := true, heldAt := f.heldFrom sl.heldAt s.tick })

/-- ISSUING AN INSTRUCTION: the checks, then its body, then its retirement, its stall or its fault. -/
def issueWith (i : Instr) (s : State) (body : Slot → Body) : Host.Outcome State Fault Refusal :=
  let c := s.curCore
  let k := s.curSlot
  match s.slot? c k with
  | none => .fault .noTask
  | some sl =>
    let here := fun (f : FaultRec) => { f with word := encode i, pc := sl.ctx.pc }
    if !sl.issues then .next (s.modSlot c k (fun sl => { sl with stalled := true }))
    else
      match issueCheck s c sl (s.slotCmds c k) i with
      | .stall => .next (s.modSlot c k (fun sl => { sl with stalled := true }))
      | .fault f => .next (s.raiseFault c k (here f))
      | .deferred d => .next ((s.setSlot c k (sl.delivered d)).raiseFault c k (d.record (encode i) sl.ctx.pc))
      | .pass =>
        match body sl with
        | .done s' => .next (s'.retire c k (fun x => x.retire (sl.ctx.pc + 8)))
        | .jump s' n => .next (s'.retire c k (fun x => x.jumpTo n))
        | .stall s' => .next (s'.modSlot c k (fun sl => { sl with stalled := true }))
        | .fault f => .next (s.faultOrHold c k (here f))
        | .lost s' f => .next (s'.faultOrHold c k (here f))
        | .left s' => .next s'

/-- An instruction that only computes a new slot. -/
def issueSlot (i : Instr) (s : State) (f : Slot → Slot) : Host.Outcome State Fault Refusal :=
  issueWith i s (fun sl => .done (s.setSlot s.curCore s.curSlot (f sl)))

end Sys2Proof.Machine
end

