-- ==== Sys2Proof/Machine/Tensor.lean ====
section
/-! DEFINITION. Tensor descriptors (R147, R148), coordinates (R149), the layout unit (R150) and row accesses through a
descriptor (R151); the residency tables (R277). -/

namespace Sys2Proof.Machine

/-! ### Descriptor fields (R147) -/

/-- BOUND. -/
def Desc.bound (d : Desc) : Bool := d.w0.getLsbD 63
/-- CIDX. -/
def Desc.cidx (d : Desc) : Nat := bits d.w0 35 32
/-- The rank. -/
def Desc.rank (d : Desc) : Nat := bits d.w0 28 27 + 1
/-- LAYOUT. -/
def Desc.layout (d : Desc) : Nat := bits d.w0 26 24
/-- TAG and SCALED. -/
def Desc.tag (d : Desc) : Tag := ⟨bits d.w0 20 16, d.w0.getLsbD 21⟩
/-- HANDLE. -/
def Desc.handle (d : Desc) : Nat := bits d.w0 15 0
/-- The extent field of dimension `i`. -/
def Desc.rawExt (d : Desc) (i : Nat) : Nat :=
  match i with
  | 0 => bits d.w1 31 0
  | 1 => bits d.w1 63 32
  | 2 => bits d.w2 31 0
  | _ => bits d.w2 63 32
/-- The extent of dimension `i`: 1 at and above the rank. -/
def Desc.ext (d : Desc) (i : Nat) : Nat := if i < d.rank then d.rawExt i else 1
/-- BASE. -/
def Desc.base (d : Desc) : Nat := bits d.w3 39 0
/-- TTP as a byte address. -/
def Desc.ttp (d : Desc) : Nat := bits d.w4 47 6 * 64

/-- The width in bits of a tag's elements; 32 for EMPTY and reserved codes, which no rule reads. -/
def Tag.width (t : Tag) : Nat :=
  match tagFmt t.code with
  | some f => f.width
  | none => 32

/-- Element width in bytes. -/
def Desc.bytesPer (d : Desc) : Nat := d.tag.width / 8

/-- The refusals of R148, with their codes. -/
def Desc.refused (d : Desc) (c : Cap) : Option Nat :=
  if !d.bound || !c.valid || c.ttp != d.ttp then some 0x07
  else if (List.range d.rank).any (fun i => d.rawExt i == 0) then some 0x06
  else none

/-! ### Coordinates (R149) -/

/-- Coordinates. -/
structure Coord where
  x0 : Nat
  x1 : Nat
  x2 : Nat
  x3 : Nat
  deriving DecidableEq, Repr

/-- The coordinates of operand values a and b. -/
def coordOf (a b : Word) : Coord := ⟨a.toNat, bits b 31 0, bits b 47 32, bits b 63 48⟩

/-- Every coordinate lies below its extent. -/
def Coord.inside (c : Coord) (d : Desc) : Bool :=
  decide (c.x0 < d.ext 0) && decide (c.x1 < d.ext 1) && decide (c.x2 < d.ext 2) && decide (c.x3 < d.ext 3)

/-- The coordinates of linear element index `e`. -/
def elemCoord (d : Desc) (e : Nat) : Coord :=
  ⟨e % d.ext 0, e / d.ext 0 % d.ext 1, e / (d.ext 0 * d.ext 1) % d.ext 2, e / (d.ext 0 * d.ext 1 * d.ext 2)⟩

/-- The number of elements. -/
def Desc.elems (d : Desc) : Nat := d.ext 0 * d.ext 1 * d.ext 2 * d.ext 3

/-- Coordinate `i` advanced by `m`, on 64 bits (R208). -/
def Coord.adv (c : Coord) (i m : Nat) : Coord :=
  match i with
  | 0 => { c with x0 := (c.x0 + m) % 2 ^ 64 }
  | 1 => { c with x1 := (c.x1 + m) % 2 ^ 64 }
  | 2 => { c with x2 := (c.x2 + m) % 2 ^ 64 }
  | _ => { c with x3 := (c.x3 + m) % 2 ^ 64 }

/-- x1, x2 and x3 packed as sb in R149. -/
def Coord.high (c : Coord) : Nat := c.x1 % 2 ^ 32 + c.x2 % 2 ^ 16 * 2 ^ 32 + c.x3 % 2 ^ 16 * 2 ^ 48

/-! ### The layout unit (R150) -/

/-- The byte position of coordinates in the tensor's byte space. -/
def bytePos (d : Desc) (c : Coord) : Nat :=
  let w := d.bytesPer
  let e0 := d.ext 0
  let e1 := d.ext 1
  let q := c.x2 + d.ext 2 * c.x3
  match d.layout with
  | 0 => w * (c.x0 + e0 * (c.x1 + e1 * q))
  | 1 => w * (c.x1 + e1 * (c.x0 + e0 * q))
  | 2 =>
    let nr := cdiv e1 32
    let nc := cdiv (e0 * w) 128
    q * nr * nc * 4096 + (c.x1 / 32 * nc + c.x0 * w / 128) * 4096 + c.x1 % 32 * 128 + c.x0 * w % 128
  | 3 =>
    let nr := cdiv e1 128
    let nc := cdiv (e0 * w) 512
    q * nr * nc * 65536 + (c.x1 / 128 * nc + c.x0 * w / 512) * 65536 + c.x1 % 128 * 512 + c.x0 * w % 512
  | _ =>
    let kb := cdiv e1 32
    let nb := cdiv e0 32
    q * kb * nb * (1024 * w) + (c.x0 / 32 * kb + c.x1 / 32) * (1024 * w) + c.x0 % 32 * (32 * w) + c.x1 % 32 * w

/-- The object offset of tensor byte `p` (R151). -/
def Desc.offset (d : Desc) (p : Nat) : Nat := d.base * 65536 + p

/-! ### Accesses of engine steps -/

/-- Bytes that a step of an engine reaches through a capability: an object range, its first byte among the bytes of the step, the
coordinates that FLTINFO names (R318), and, for a tensor, its handle and its first object tile. -/
structure Span where
  cap   : Cap
  off   : Nat
  len   : Nat
  kind  : AccKind
  from_ : Nat := 0
  x0    : Nat := 0
  xhi   : Nat := 0
  tens  : Option (Nat × Nat) := none
  deriving DecidableEq, Repr

/-- A fault of an access of a span, at an object offset. -/
def Span.fault (x : Span) (f : FaultRec) (off : Nat) : FaultRec :=
  { accFault f off x.cap.oid x.kind.need.w with x0 := x.x0, xhi := x.xhi }

/-- The rights and bounds of R141 over every byte of a span. -/
def Span.refused (x : Span) : Option FaultRec :=
  if !x.cap.grants x.kind.cap then some (x.fault (walkFault 0x07 false 0) x.off)
  else if x.off < x.cap.lo ∨ x.cap.hi < x.off + x.len then some (x.fault (walkFault 0x06 false 0) x.off)
  else none

/-- An aligned block of 128 bytes of a span, and where translation takes it. -/
structure Block where
  span  : Span
  off   : Nat
  len   : Nat
  from_ : Nat
  tgt   : Except FaultRec Target

/-- The lengths of the aligned blocks of `al` bytes that [off, off + n) touches; `k` bounds their number. -/
def blockLens (al : Nat) : Nat → Nat → Nat → List Nat
  | 0, _, _ => []
  | k + 1, off, n =>
    if n = 0 then [] else
      let m := min n (al - off % al)
      m :: blockLens al k (off + m) (n - m)

/-- The blocks of a span from offset `off` on, `done` bytes into it. -/
def spanBlocks (s : State) (r p : Nat) (x : Span) : Nat → Nat → List Nat → List Block
  | _, _, [] => []
  | off, done, n :: ns =>
    { span := x, off := off, len := n, from_ := x.from_ + done, tgt := objWalk s r p x.cap off x.kind.need } ::
      spanBlocks s r p x (off + n) (done + n) ns

/-- The blocks of a span, each with its walk (R151). -/
def State.blocksOf (s : State) (r p : Nat) (x : Span) : List Block := spanBlocks s r p x x.off 0 (blockLens 128 (x.len / 128 + 2) x.off x.len)

/-- What a check answers at a block's target. -/
def Block.check (b : Block) (f : Target → Option FaultRec) : Option FaultRec :=
  match b.tgt with
  | .ok t => (f t).map (fun f => b.span.fault f b.off)
  | .error _ => none

/-- The fault of a block's translation. -/
def Block.lost (b : Block) : Option FaultRec :=
  match b.tgt with
  | .ok _ => none
  | .error f => some (b.span.fault f b.off)

/-- The Cistern write window refuses a write (R211, R251). -/
def State.cistStop (s : State) (p : Nat) (k : AccKind) (t : Target) : Option FaultRec :=
  if k.rule = .onlyCistern ∧ k.need.w ∧ (s.part p).cstOpen = false then some (walkFault 0x0C false t.gpa t.leafAt) else none

/-- Which fault of a step's accesses decides: the table of R211 and those of R241 and R251 list them in different orders. -/
inductive FaultOrder where
  | rows | transfer
  deriving DecidableEq, Repr

/-- The first fault of a step's accesses, line by line of the table of R211 or of R251; rights and bounds come first in both. -/
def State.planFault (s : State) (p : Nat) (ord : FaultOrder) (xs : List Span) (bs : List Block) : Option FaultRec :=
  let lost := bs.findSome? Block.lost
  let ap := bs.findSome? (fun b => b.check (fun t => t.apStop b.span.kind.rule))
  let lease := bs.findSome? (fun b => b.check (s.leaseStop p b.span.cap b.span.kind.bound))
  let cist := bs.findSome? (fun b => b.check (s.cistStop p b.span.kind))
  (xs.findSome? Span.refused).or
    (match ord with
     | .rows => (lost.or ap).or (lease.or cist)
     | .transfer => (lease.or ap).or (cist.or lost))

/-- A piece of an access: its target, its first byte among the bytes of the step, its length, and what a fault of it names; with
the tensor tile in which it lies. -/
structure Piece where
  tgt   : Target
  from_ : Nat
  len   : Nat
  off   : Nat := 0
  oid   : Nat := 0
  x0    : Nat := 0
  xhi   : Nat := 0
  tile  : Option (Nat × Nat) := none
  deriving DecidableEq, Repr

/-- A fault that a piece meets, as the fault of its access. -/
def Piece.mark (x : Piece) (wr : Bool) (f : FaultRec) : FaultRec :=
  { f with addr := x.off, gpa := x.tgt.gpa, leaf := x.tgt.leafAt, wr := wr, oid := x.oid, x0 := x.x0, xhi := x.xhi }

/-- The fault of a piece's data. -/
def Piece.fault (x : Piece) (code : Nat) (wr : Bool) : FaultRec := x.mark wr { code := code, addr := 0 }

/-- The piece of a block at its target. -/
def Block.piece (b : Block) (t : Target) : Piece :=
  { tgt := t, from_ := b.from_, len := b.len, off := b.span.off, oid := b.span.cap.oid, x0 := b.span.x0, xhi := b.span.xhi,
    tile := b.span.tens.map (fun h => (h.1, b.off / 65536 - h.2)) }

/-- The pieces of blocks that have passed the other checks, each LOCAL page of them in the pinned reserve (R310). -/
def pinPieces (s : State) (p : Nat) : List Note → List Block → Except FaultRec (List Piece)
  | _, [] => .ok []
  | seen, b :: bs =>
    match b.tgt with
    | .error f => .error (b.span.fault f b.off)
    | .ok t =>
      match pinned s p false { t with notes := t.notes ++ seen.filter (fun n => !t.notes.contains n) } with
      | .error f => .error (b.span.fault f b.off)
      | .ok t =>
        match pinPieces s p (t.notes.filter (fun n => match n with | .pin _ => true | _ => false)) bs with
        | .error f => .error f
        | .ok ps => .ok (b.piece t :: ps)

/-- The pieces of a step's accesses through capabilities, after every check but those of the data: they are translated with the
caches of region `r`. -/
def State.plan (s : State) (r p : Nat) (ord : FaultOrder) (xs : List Span) : Except FaultRec (List Piece) :=
  let bs := xs.flatMap (s.blocksOf r p)
  match s.planFault p ord xs bs with
  | some f => .error f
  | none => pinPieces s p [] bs

/-- The piece of `n` bytes at window address `a`, from byte `from_` of the step. -/
def Slot.windowPiece (sl : Slot) (a n from_ : Nat) : Piece := { tgt := { aper := .spad, addr := sl.winBase + a }, from_ := from_, len := n, off := a }

/-! ### How a memory step of an engine ends -/

/-- A step of an engine at memory. A fault record with `hold` says that it waits for a route (R364). -/
inductive StepRes (α : Type) where
  | ok (v : α)
  | fault (f : FaultRec)
  /-- It cannot proceed yet: a refresh (R212), a fence, an order. -/
  | wait

/-- What a piece meets on its way to a pool slice or a peer: a fault, or the reason for which its request waits (R363, R364, R374). -/
def State.pieceStop (s : State) (p scope : Nat) (wr : Bool) (x : Piece) : Option FaultRec :=
  match s.accRoute p x.tgt x.len scope wr with
  | none => none
  | some (.sent n) =>
    if s.lineBusy (if x.tgt.aper = .peer then some (leafPeer x.tgt.leaf) else none, x.tgt.addr / 128) n then
      some (x.mark wr { code := 0x12, addr := 0, hold := some .conduit })
    else none
  | some q => (q.stop 0 0).map (x.mark wr)

/-- The Cistern bank that every die refreshes at tick `t` (R212). -/
def refreshBank (t : Nat) : Nat := t / 2000 % 32

/-- A piece lies in the Cistern bank that is being refreshed (R212). -/
def refreshing (s : State) (x : Piece) : Bool :=
  x.tgt.aper == .cistern && (linesOf x.tgt.addr x.len).any (fun l => l % 32 == refreshBank s.tick)

/-- What a piece meets at a gate: writes, acquires and accesses to the Cistern pass one (R24, R328). -/
def State.pieceGate (s : State) (r p scope : Nat) (acq wr : Bool) (x : Piece) : Option FaultRec :=
  if wr || acq || x.tgt.aper == .cistern then (s.gateStop r p x.tgt scope).map (x.mark wr) else none

/-- What holds the accesses of a step of region `r` back before their data moves: a gate, a refresh, or a route (R24, R212,
R364). -/
def State.moveGate (s : State) (r p scope : Nat) (acq wr : Bool) (ps : List Piece) : StepRes Unit :=
  match ps.findSome? (s.pieceGate r p scope acq wr) with
  | some f => .fault f
  | none =>
    if ps.any (refreshing s) then .wait
    else
      match ps.findSome? (s.pieceStop p scope wr) with
      | some f => .fault f
      | none => .ok ()

/-- The messages of the pieces that need a route (R342, R366). -/
def State.sendPieces (s : State) (p scope : Nat) (wr : Bool) (token : Option Word) (ps : List Piece) : State :=
  ps.foldl (fun s x =>
    match s.accRoute p x.tgt x.len scope wr with
    | some (.sent _) => (s.sendReq p (leafKey x.tgt.leaf) wr token).2
    | _ => s) s

/-- Where a piece lies: the scratchpad of core `c`, or memory as region `r` reaches it. -/
def Piece.loc (x : Piece) (c r p : Nat) : Loc := x.tgt.loc (if x.tgt.aper = .spad then c else r) p

/-- What the read of a piece leaves in the caches: `noL2` keeps lines of a tile hinted stream out of L2 (R170). -/
def Piece.fill (x : Piece) (q : Part) (f : Fill) : Fill := { f with tile := x.tile, noL2 := f.noL2 && q.retain x.tile == .stream }

/-- The bytes of the pieces, or the fault of the first that is uncorrectable, with the state after the read. -/
def readPieces (s : State) (c r p scope : Nat) (f : Fill) : List Piece → State × Except FaultRec (List Byte)
  | [] => (s, .ok [])
  | x :: xs =>
    let l := x.loc c r p
    if s.locPoison l x.len scope then (s.dropPoisoned l x.len scope, .error (x.fault 0x0E false))
    else
      let bs := s.locBytes l x.len scope
      match readPieces ((s.keepNotes r p x.tgt.notes).afterRead l x.len scope (x.fill (s.part p) f)) c r p scope f xs with
      | (t, .ok b) => (t, .ok (bs ++ b))
      | (t, .error e) => (t, .error e)

/-- The runs of selected bytes, each with the place of its first byte. -/
def runsOf : Nat → List (Bool × Byte) → List (Nat × List Byte)
  | _, [] => []
  | i, (k, b) :: bs =>
    let rest := runsOf (i + 1) bs
    if k then
      match rest with
      | (j, run) :: more => if j = i + 1 then (i, b :: run) :: more else (i, [b]) :: rest
      | [] => [(i, [b])]
    else rest

/-- The bytes of a step written at its pieces, those that are selected (R205, R209): each run is one write, which heals the
granules that it covers (R391). -/
def writePieces (s : State) (c r p scope : Nat) (f : Fill) (bs : List (Bool × Byte)) : List Piece → State
  | [] => s
  | x :: xs =>
    let l := x.loc c r p
    let s := s.keepNotes r p x.tgt.notes
    writePieces ((runsOf 0 ((bs.drop x.from_).take x.len)).foldl (fun s (w : Nat × List Byte) =>
      s.storeAt { l with addr := l.addr + w.1 } scope (x.fill (s.part p) f) w.2) s) c r p scope f bs xs

/-- The first piece of a step's lease-bound write that the pool rejects: its request needs the pool or a peer, and its token is stale
(R373). -/
def State.stalePiece (s : State) (p scope : Nat) (c : Cap) (ps : List Piece) : Option Piece :=
  if (capToken s p c).any (fun tok => s.poolStale (s.part p).lease.name tok) then ps.find? (fun x => (s.accRoute p x.tgt x.len scope true).isSome)
  else none

/-! ### Residency tables (R277) -/

/-- What fills through a descriptor set for the tensor tiles of their pieces in the table of the core's region: L2 where SCOPE is 0
to 2, else RSV, and RSV for a tile whose lines stay out of L2; nothing for a page that neither caches (R143, R277; log entries 29
and 72). -/
def State.residFill (s : State) (c p scope : Nat) (noL2 : Bool) (ps : List Piece) : State :=
  ps.foldl (fun s x =>
    match x.tile with
    | some t =>
      if x.tgt.aper = .pool ∨ x.tgt.aper = .localPage then
        s.residSet c t.1 t.2 (if scope ≤ 2 ∧ !(noL2 && (s.part p).retain x.tile == .stream) then resL2 else resRSV) 0
      else s
    | none => s) s

end Sys2Proof.Machine
end

