-- ==== Sys2Proof/Machine/Engine.lean ====
section
/-! DEFINITION. Engine commands: what they capture at issue (R32, R88, R148, R392), the push and its rules (R29, R132,
R203), the hazards between commands (R198), rows and queue entries as operands (R57, R202), and expected formats (R89). -/

namespace Sys2Proof

/-- The instruction's output takes srcA's own tag (R392). -/
def Instr.ownTag : Instr → Bool
  | .vmov .. => true
  | .vsel .. => true
  | .vbcst .. => true
  | .vperm .. => true
  | .vrmg .. => true
  | .vand .. => true
  | .vor .. => true
  | .vxor .. => true
  | .vshl .. => true
  | .vshr .. => true
  | .vsra .. => true
  | .vpack .. => true
  | .vred .. => true
  | .vreds .. => true
  | .vscan .. => true
  | _ => false

/-- The operand values that an engine command captures: sa, sb, sc and sF, or sK as the first (R32, R236, R245). -/
def Instr.capt : Instr → Nat × Nat × Nat × Nat
  | .vld _ _ a b _ _ _ => (a, b, 0, 0)
  | .vlds _ _ a b _ _ _ _ => (a, b, 0, 0)
  | .vldt _ _ a b _ _ _ => (a, b, 0, 0)
  | .vldg _ _ a b _ _ _ => (a, b, 0, 0)
  | .vldc _ _ a b _ _ _ => (a, b, 0, 0)
  | .vst _ _ a b _ _ _ => (a, b, 0, 0)
  | .vsts _ _ a b _ _ _ _ => (a, b, 0, 0)
  | .vstt _ _ a b _ _ _ => (a, b, 0, 0)
  | .vsct _ _ a b _ _ _ => (a, b, 0, 0)
  | .vstc _ _ a b _ _ _ => (a, b, 0, 0)
  | .pref _ a b _ _ _ _ => (a, b, 0, 0)
  | .hint _ a b _ _ => (a, b, 0, 0)
  | .bget _ a b c f _ _ => (a, b, c, f)
  | .bput _ a b c f _ => (a, b, c, f)
  | .bcpy _ a b c f _ => (a, b, c, f)
  | .bfill _ a c f _ _ => (a, 0, c, f)
  | .xflag f _ => (0, 0, 0, f)
  | .bcan f _ => (0, 0, 0, f)
  | .rlpub _ a b c f _ _ => (a, b, c, f)
  | .rlstp a f _ => (a, 0, 0, f)
  | .rlqry b f _ => (0, b, 0, f)
  | .cbind b f _ _ _ => (0, b, 0, f)
  | .crel f _ _ _ => (0, 0, 0, f)
  | .ccoll _ a b c f _ => (a, b, c, f)
  | .ccmp _ a b c f _ _ => (a, b, c, f)
  | .cdcp _ a b c f _ _ => (a, b, c, f)
  | .cstat b f _ => (0, b, 0, f)
  | i => match i.mma? with | some a => (a.sK, 0, 0, 0) | none => (0, 0, 0, 0)

/-- The descriptor register whose copy the command takes (R148). -/
def Instr.descReg? : Instr → Option Nat
  | .vld _ (.desc d) _ _ _ _ _ => some d
  | .vlds _ (.desc d) _ _ _ _ _ _ => some d
  | .vldt _ (.desc d) _ _ _ _ _ => some d
  | .vldg _ (.desc d) _ _ _ _ _ => some d
  | .vldc _ d _ _ _ _ _ => some d
  | .vst _ (.desc d) _ _ _ _ _ => some d
  | .vsts _ (.desc d) _ _ _ _ _ _ => some d
  | .vstt _ (.desc d) _ _ _ _ _ => some d
  | .vsct _ (.desc d) _ _ _ _ _ => some d
  | .vstc _ d _ _ _ _ _ => some d
  | .pref d _ _ _ _ _ _ => some d
  | .hint d _ _ _ _ => some d
  | .bget (.desc d) _ _ _ _ _ _ => some d
  | .bput (.desc d) _ _ _ _ _ => some d
  | _ => none

/-- The capability register whose copy the command takes. -/
def Instr.capReg? : Instr → Option Nat
  | .bget (.cap c) _ _ _ _ _ _ => some c
  | .bput (.cap c) _ _ _ _ _ => some c
  | .bcpy (.object c) _ _ _ _ _ => some c
  | .bfill (.object c) _ _ _ _ _ => some c
  | .rlpub c _ _ _ _ _ _ => some c
  | .ccoll c _ _ _ _ _ => some c
  | .ccmp c _ _ _ _ _ _ => some c
  | .cdcp c _ _ _ _ _ _ => some c
  | _ => none

end Sys2Proof

namespace Sys2Proof.Machine

/-! ### Tags at issue -/

/-- The tag of the first row that an operand supplies, if it is known; none for the broadcast (R88, R392). -/
def issueTag (x : Ctx) : WOp → Option Tag
  | .q n => knownTag x n
  | .bcast => none
  | o => some (o.tileTag x)

/-- UINT32, unscaled. -/
def tagU32 : Tag := ⟨11, false⟩
/-- INT32, unscaled. -/
def tagI32 : Tag := ⟨10, false⟩
/-- FP32, unscaled. -/
def tagF32 : Tag := ⟨0, false⟩

/-- The tag of a broadcast source in an own-tag position (R204): that of the other source, or UINT32. -/
def bcastTag (x : Ctx) : List WOp → Option Tag
  | o :: os => if o.isBcast then bcastTag x os else issueTag x o
  | [] => some tagU32

/-- The captured tag of srcA: none when R392 needs it and it is unknown. -/
def tagOfA (i : Instr) (x : Ctx) : Option Tag :=
  match (i.ins 1).map (fun p => p.op) with
  | [] => some {}
  | a :: os => if a.isBcast then bcastTag x os else issueTag x a

/-- The captured tag of source number `k`. -/
def tagOfSrc (i : Instr) (x : Ctx) (k : Nat) : Tag :=
  match ((i.ins 1).map (fun p => p.op))[k]? with
  | some o => (issueTag x o).getD {}
  | none => {}

/-- A tag that R392 demands at issue is unknown. -/
def tagUnknown (i : Instr) (x : Ctx) : Bool :=
  match i with
  | .vcvts .. => (tagOfA i x).isNone
  | i => i.ownTag && (tagOfA i x).isNone

/-- The output tag that a command's entry fixes (R88), from srcA's tag, the descriptor's and SPTAG. -/
def outTag (i : Instr) (a d sp : Tag) : Tag :=
  match i with
  | .vld _ .spad _ _ _ _ _ => sp
  | .vlds _ .spad _ _ _ _ _ _ => sp
  | .vldt _ .spad _ _ _ _ _ => sp
  | .vldg _ .spad _ _ _ _ _ => sp
  | .vld .. => d
  | .vlds .. => d
  | .vldt .. => d
  | .vldg .. => d
  | .vldc .. => d
  | .viadd _ _ _ _ _ _ m => if m = .satu then tagU32 else tagI32
  | .visub _ _ _ _ _ _ m => if m = .satu then tagU32 else tagI32
  | .vimul _ _ _ _ _ _ m => if m = .satu then tagU32 else tagI32
  | .vimin _ _ _ _ _ _ u => if u then tagU32 else tagI32
  | .vimax _ _ _ _ _ _ u => if u then tagU32 else tagI32
  | .vidx .. => tagI32
  | .vcvt _ _ cw _ _ _ => ⟨cw.target.tag, false⟩
  | .vcvts _ _ cw _ _ _ => ⟨cw.target.tag, true⟩
  | .vunpk _ _ cw _ _ => ⟨cw.target.tag, false⟩
  | .vqln .. => ⟨5, false⟩
  | i => if i.ownTag then a else tagF32

/-- The output tag of a command. -/
def Cmd.outTag (c : Cmd) : Tag := Machine.outTag c.instr c.tagA c.desc.tag (tagOfByte c.sptag)

/-! ### Capture at issue -/

/-- The capability that a descriptor names (R148). -/
def Ctx.descCap (x : Ctx) (d : Desc) : Cap := x.cap d.cidx

/-- The tags of all tiles that the command's sources name (R88). -/
def srcTagMap (i : Instr) (x : Ctx) : Map Tag :=
  let f := i.perStep x
  let srcs := (i.ins f).flatMap (fun p => if p.op.tile?.isSome then spanTiles (p.op.pos, p.total i.steps) else [])
  let mm := match i.mma? with | some _ => i.tiles x | none => []
  (srcs ++ mm).foldl (fun m t => mset m t (x.tag t)) []

/-- A command as its instruction issues it: every value, tag and copy that it captures. -/
def capture (i : Instr) (k : Nat) (lvl : Level) (sl : Slot) (e : Eng) : Cmd :=
  let x := sl.ctx
  let (a, b, c, f) := i.capt
  let d := match i.descReg? with | some n => x.desc n | none => {}
  let cap := match i.descReg?, i.capReg? with
    | some _, _ => x.descCap d
    | none, some n => x.cap n
    | none, none => {}
  let m := i.mma?
  let d2 := match i with | .bget _ _ _ _ _ _ .cist => x.desc (bits (x.reg b) 63 60) | _ => {}
  { eng := e, slot := k, seq := sl.seq, instr := i, word := encode i, pc := x.pc,
    va := x.reg a, vb := x.reg b, vc := x.reg c, vf := x.reg f, bval := x.reg i.bus,
    seg := (x.pipe.map (fun p => p.iter)).getD 0, inPipe := x.pipe.isSome,
    tagA := (tagOfA i x).getD {}, tagB := tagOfSrc i x 1, tagC := tagOfSrc i x 2, srcTags := srcTagMap i x,
    fmtmode := x.fmtmode, sptag := x.sptag, desc := d, cap := cap, desc2 := d2,
    cap2 := if d2 = {} then {} else x.descCap d2, capF := if f = 0 then {} else x.cap (bits (x.reg f) 63 60),
    ma := (m.map (fun a => mget {} x.ma a.ma)).getD {}, mb := (m.map (fun a => mget {} x.mb a.mb)).getD {},
    ms := (m.map (fun a => a.image x)).getD 0, level := lvl }

/-! ### Queue balances and known tags at issue (R203, R392) -/

/-- Some (tag) entries appended to a queue's unclaimed tags: those that no earlier consumer has claimed already. -/
def produceTags (x : Ctx) (q n : Nat) (t : Tag) : Ctx :=
  let b := x.balance q
  let free := n - (max 0 (-b)).toNat
  { x with bal := mput 0 x.bal q (b + n), unclaimed := mput [] x.unclaimed q (mget [] x.unclaimed q ++ List.replicate free t) }

/-- Entries of a queue claimed, the oldest first. -/
def claimTags (x : Ctx) (q n : Nat) : Ctx :=
  { x with bal := mput 0 x.bal q (x.balance q - n), unclaimed := mput [] x.unclaimed q ((mget [] x.unclaimed q).drop n) }

/-- The tiles that a command's destinations touch. -/
def outTiles (i : Instr) : List Nat :=
  i.outs.flatMap (fun p => if p.op.tile?.isSome then spanTiles (p.op.pos, p.total i.steps) else [])

/-- The context after an engine instruction has issued: queue balances and claims, and the tags of the tiles it writes, the
scale row of a VCVTS and the accumulator of an MMA among them (R88, R99, R203, R224, R392). -/
def Ctx.issued (x : Ctx) (i : Instr) (cmd : Cmd) : Ctx :=
  let f := i.perStep x
  let x' := (i.claims f).foldl (fun y qn => claimTags y qn.1 qn.2) x
  let x' := i.makes.foldl (fun y qn => produceTags y qn.1 qn.2 cmd.outTag) x'
  let x' := match i with
    | .vcvts _ _ _ sN _ _ => x'.setTag (scaleField (x.reg sN) / 32) ⟨9, false⟩
    | _ => x'
  let x' := (outTiles i).foldl (fun y t => y.setTag t cmd.outTag) x'
  match i.mma? with
  | some a => x'.setTag a.acc tagF32
  | none => x'

/-- A queue balance would leave −128 to 127 (R203). -/
def balanceBad (x : Ctx) (i : Instr) : Bool :=
  let y := i.makes.foldl (fun y qn => produceTags y qn.1 qn.2 {}) ((i.claims (i.perStep x)).foldl (fun y qn => claimTags y qn.1 qn.2) x)
  y.bal.any (fun p => decide (p.2 < -128) || decide (127 < p.2))

/-! ### Push (R29, R132) -/

/-- Queue entries of an engine (R28). -/
def engCap : Eng → Nat
  | .vl => 64
  | .va => 64
  | .vs => 32
  | .mx => 16
  | .xf => 16

/-- An engine's place in the order VL, VA, VS, MX, XF. -/
def engIx : Eng → Nat
  | .vl => 0
  | .va => 1
  | .vs => 2
  | .mx => 3
  | .xf => 4

/-- The push of one entry is accepted (R29). -/
def State.pushOk (s : State) (c k : Nat) (e : Eng) : Bool :=
  let co := s.core c
  let mine := co.cmds.filter (fun x => x.eng == e && !x.preMark)
  let others := (co.slots.filter (fun p => p.1 != k)).length
  decide (mine.length < engCap e) && decide ((mine.filter (fun x => x.slot == k)).length + 1 + others ≤ engCap e)

/-- The push would exceed the reserve of a LOOPP segment (rule 3 of R132). -/
def segmentFull (x : Ctx) (e : Eng) : Bool :=
  match x.pipe with
  | some p => decide (engCap e - 3 ≤ p.pushes.getD (engIx e) 0)
  | none => false

/-- A push counted in the current segment. -/
def Ctx.countPush (x : Ctx) (e : Eng) : Ctx :=
  { x with pipe := x.pipe.map (fun p => { p with pushes := p.pushes.set (engIx e) (p.pushes.getD (engIx e) 0 + 1) }) }

/-- The state with a command behind the others. -/
def State.addCmd (s : State) (c : Nat) (cmd : Cmd) : State := s.setCore c { s.core c with cmds := (s.core c).cmds ++ [cmd] }

/-- Pushing an engine instruction: its protocol checks, the push, and what issue changes in the slot. -/
def State.pushEngine (s : State) (i : Instr) (e : Eng) (f : Ctx → Ctx) (sl : Slot) : Body :=
  let x := sl.ctx
  if segmentFull x e || balanceBad x i || tagUnknown i x then .fault (ctlFault 0x0F sl)
  else if !s.pushOk s.curCore s.curSlot e then .stall s
  else
    let cmd := capture i s.curSlot (slotLevel s.curCore sl) sl e
    .done ((s.addCmd s.curCore cmd).setSlot s.curCore s.curSlot { sl with ctx := f ((x.issued i cmd).countPush e) })

/-- ISSUING AN ENGINE INSTRUCTION. `bad` says that the instruction's own rule raises 0x02, and `f` is what it does to the
context besides. -/
def issueEngineWith (i : Instr) (e : Eng) (bad : Ctx → Bool) (f : Ctx → Ctx) (s : State) : Host.Outcome State Fault Refusal :=
  issueWith i s (fun sl => if bad sl.ctx then .fault (ctlFault 0x02 sl) else s.pushEngine i e f sl)

/-- Issuing an engine instruction that has no rule of its own at issue. -/
def issueEngine (i : Instr) (e : Eng) (s : State) : Host.Outcome State Fault Refusal :=
  issueEngineWith i e (fun _ => false) (fun x => x) s

/-! ### Rows as operands (R57) -/

/-- The cells that an operand names, as keys of the tile file. -/
def opCells : WOp → List Nat
  | .h t i => (List.range 32).map (fun j => t * 1024 + i * 32 + j)
  | .v t i => (List.range 32).map (fun j => t * 1024 + j * 32 + i)
  | .d t i => (List.range 32).map (fun j => t * 1024 + j * 32 + (j + i) % 32)
  | _ => []

/-- The row that an operand names. -/
def Core.row (co : Core) (o : WOp) : Row := cellsRow ((opCells o).map (mget 0 co.cells))

/-- Some cell of the operand is uncorrectable (R391). -/
def Core.rowBad (co : Core) (o : WOp) : Bool := (opCells o).any (fun k => co.tileErr.contains (k / 2))

/-- The bytes that a predicate selects when elements are `w` bits wide (R205). -/
def byteMask (p : Pred) (w : Nat) : Pred :=
  BitVec.ofNat 128 ((List.range 128).foldl (fun n i => if p.getLsbD (i / (w / 8) * (w / 8)) then n + 2 ^ i else n) 0)

/-- The cells of an operand with the selected bytes of a row written; a granule whose cells are all written whole is healed
(R391). -/
def Core.putRow (co : Core) (o : WOp) (m : Pred) (r : Row) : Core :=
  let new := mergeBytes m r (co.row o)
  let whole := ((opCells o).zipIdx.filter (fun kj => m.extractLsb' (4 * kj.2) 4 == 15)).map (fun kj => kj.1)
  { co with
    cells := ((opCells o).zipIdx).foldl (fun cs kj => mput 0 cs kj.1 (new.extractLsb' (32 * kj.2) 32)) co.cells
    tileErr := co.tileErr.filter (fun g => !(whole.contains (2 * g) && whole.contains (2 * g + 1))) }

/-- A source as a step reads it: a row with its tag, or the broadcast. -/
inductive Src where
  | row (r : Row) (t : Tag) (bad : Bool)
  | bus
  deriving DecidableEq, Repr

/-- The tag that a command attached to a tile of a source at its issue; `a` stands for a tile that it did not list. -/
def Cmd.tileTag (c : Cmd) (a : Tag) (t : Nat) : Tag := (mfind c.srcTags t).getD a

/-- The rows that one port supplies at step `m`; none while its queue does not hold them (R202). -/
def portRows (c : Cmd) (co : Core) (x : Ctx) (a : Tag) (p : Port) (m : Nat) : Option (List Src) :=
  match p.op with
  | .bcast => some [.bus]
  | .q n => if (x.queue n).length < p.per then none else some (((x.queue n).take p.per).map (fun e => .row e.row e.tag false))
  | _ => some ((p.at m).map (fun o => .row (co.row o) (c.tileTag a (o.tile?.getD 0)) (co.rowBad o)))

/-- The sources of a command at step `m`, port by port. -/
def stepSources (c : Cmd) (co : Core) (x : Ctx) (f m : Nat) : Option (List (List Src)) :=
  let tags := [c.tagA, c.tagB, c.tagC]
  ((c.instr.ins f).zipIdx).foldr (fun pk acc =>
    match portRows c co x (tags.getD pk.2 {}) pk.1 m, acc with
    | some r, some rs => some (r :: rs)
    | _, _ => none) (some [])

/-- Rows per step of a VCVTS command, from the tag fixed at issue (R99). -/
def Cmd.per (c : Cmd) : Nat :=
  match c.instr with
  | .vcvts .. => if c.tagA.width = 32 then 4 else 2
  | _ => 1

/-- The queues of a slot can take the entries of a step (R202). -/
def queueRoom (c : Cmd) (x : Ctx) : Bool :=
  c.instr.outs.all (fun p =>
    match p.op with
    | .q n => decide ((x.queue n).length + (if p.per = 0 then (if c.mpc + 1 = c.instr.steps then 1 else 0) else p.per) ≤ 8)
    | _ => true)

/-- The queue entries that a step consumes leave; a queue named twice loses them once. -/
def popQueues (c : Cmd) (x : Ctx) : Ctx :=
  (((c.instr.ins c.per).filterMap (fun p => match p.op with | .q n => some (n, p.per) | _ => none)).eraseDups).foldl
    (fun y qn => y.setQueue qn.1 ((y.queue qn.1).drop qn.2)) x

/-- The rows of a step written to a destination port: tile cells under the mask, or entries with zero where it is 0 (R205). -/
def putPort (c : Cmd) (p : Port) (m : Nat) (mask : Pred) (rows : List Row) (cox : Core × Ctx) : Core × Ctx :=
  match p.op with
  | .q n => (cox.1, cox.2.setQueue n (cox.2.queue n ++ rows.map (fun r => { row := mergeBytes mask r 0, tag := c.outTag })))
  | _ => (((p.at m).zip rows).foldl (fun co or => co.putRow or.1 mask or.2) cox.1, cox.2)

/-! ### Expected formats (R89) -/

/-- The elements of a row in its own tag as exact values. -/
def tagValues (f : Fmt) (r : Row) : List Ex := (rowElems r f.width).map f.value

/-- A source read in an expected format: its elements' encodings, or the fault code. `trap` is FMTTRAP at issue, and the
broadcast value is `bv`. -/
def readAs (exp : Tag) (trap : Bool) (bv : Word) (v : Src) : Except Nat (List Nat) :=
  match tagFmt exp.code with
  | none => .error 0x05
  | some e =>
    match v with
    | .bus => .ok (List.replicate e.count (bv.toNat % 2 ^ e.width))
    | .row r t bad =>
      match tagFmt t.code with
      | none => .error 0x05
      | some f =>
        if t = exp then (if bad then .error 0x0E else .ok (rowElems r e.width))
        else if t.scaled ≠ exp.scaled ∨ f.width ≠ e.width ∨ trap then .error 0x05
        else if bad then .error 0x0E
        else .ok (e.convRow .rne false f.isInt ((tagValues f r).map some))

/-- A source read in its own format; `scaled` says that the entry accepts scaled operands. -/
def readOwn (scaled : Bool) (v : Src) : Except Nat (Fmt × Tag × Row) :=
  match v with
  | .bus => .error 0x05
  | .row r t bad =>
    match tagFmt t.code with
    | none => .error 0x05
    | some f => if t.scaled && !scaled then .error 0x05 else if bad then .error 0x0E else .ok (f, t, r)

/-! ### Hazards (R198) -/

/-- The ranges of row resources that a port's steps from `m` on touch: one row a step in direction h, whole tiles in the
others. -/
def portSpan (p : Port) (n m : Nat) : List (Nat × Nat) :=
  let lo := p.op.pos + p.per * m
  let hi := if p.per = 0 then p.op.pos + 1 else p.op.pos + p.per * n
  match p.op with
  | .h .. => [(lo, hi)]
  | .v .. => [(lo / 32 * 32, (hi + 31) / 32 * 32)]
  | .d .. => [(lo / 32 * 32, (hi + 31) / 32 * 32)]
  | _ => []

/-- The resource of a predicate. -/
def predSpan (n : Nat) : Nat × Nat := (1024 + n, 1025 + n)

/-- The spans that an MMA command reads. -/
def Cmd.mmaReads (c : Cmd) : List (Nat × Nat) :=
  match c.instr.mma? with
  | some a => (mmaSpans a c.ma c.mb c.ms (mmaK a.sK c.va a.fa c.ms)).map (fun s => (s.1, s.1 + s.2))
  | none => []

/-- The resources that steps [m, n) of a command read. -/
def Cmd.readSpans (c : Cmd) (n m : Nat) : List (Nat × Nat) :=
  (c.instr.ins c.per).flatMap (fun p => portSpan p n m) ++ c.instr.predIn.map predSpan ++ c.mmaReads ++
    (match c.instr.mma? with | some a => [(32 * a.acc, 32 * a.acc + 32)] | none => [])

/-- The resources that steps [m, n) of a command write. -/
def Cmd.writeSpans (c : Cmd) (n m : Nat) : List (Nat × Nat) :=
  c.instr.outs.flatMap (fun p => portSpan p n m) ++ c.instr.predOut.map predSpan ++
    (match c.instr with | .vcvts .. => [(scaleField c.bval, scaleField c.bval + 1)] | _ => []) ++
    (match c.instr.mma? with | some a => [(32 * a.acc, 32 * a.acc + 32)] | none => [])

/-- Two lists of ranges share a resource. -/
def spansMeet (a b : List (Nat × Nat)) : Bool := a.any (fun x => b.any (fun y => decide (x.1 < y.2) && decide (y.1 < x.2)))

/-- The next step of a command waits for no earlier command of its slot (R198). -/
def hazardFree (cmds : List Cmd) (c : Cmd) : Bool :=
  let r := c.readSpans (c.mpc + 1) c.mpc
  let w := c.writeSpans (c.mpc + 1) c.mpc
  cmds.all (fun e =>
    decide (c.seq ≤ e.seq) || e.marker ||
      (!spansMeet r (e.writeSpans e.instr.steps e.mpc) && !spansMeet w (e.writeSpans e.instr.steps e.mpc) &&
        !spansMeet w (e.readSpans e.instr.steps e.mpc)))

/-! ### Which command an engine may step -/

/-- The first command of a slot in an engine. -/
def State.head? (s : State) (c k : Nat) (e : Eng) : Option Cmd :=
  (s.core c).cmds.find? (fun x => x.slot == k && x.eng == e && !x.preMark)

/-- A command's segment has been released (rule 2 of R132). -/
def released (x : Ctx) (c : Cmd) : Bool := !c.inPipe || x.pipe.all (fun p => p.iter != c.seg)

/-- An engine may work on a command: its slot is not being saved, its segment is released, no broken segment before it is
still being cleared away, and no fence and no rejected store holds its accesses back. -/
def mayWork (sl : Slot) (cmds : List Cmd) (c : Cmd) : Bool :=
  !c.marker && sl.saving.isNone && released sl.ctx c && sl.breaks.all (fun b => decide (c.seq < b)) &&
    (isHintCmd c.instr || (fencesPass sl cmds (cmdPaths c) (cmdOrd c.instr).1 c.seq &&
      sl.noReject (cmdPaths c) c.seq (cmdOrd c.instr).1 (cmdOrd c.instr).2))

/-- A command replaced by its next form. -/
def State.putCmd (s : State) (c : Nat) (cmd : Cmd) : State :=
  s.setCore c { s.core c with cmds := (s.core c).cmds.map (fun x => if x.slot = cmd.slot ∧ x.seq = cmd.seq ∧ x.eng = cmd.eng ∧ !x.preMark then cmd else x) }

/-- A command leaves its queue, and its units of work their resource. -/
def State.dropCmd (s : State) (c : Nat) (cmd : Cmd) : State :=
  let s := if cmd.eng = .xf then s.dropUnits (fun u => u.core == c && u.slot == cmd.slot && u.seq == cmd.seq) else s
  s.setCore c { s.core c with cmds := (s.core c).cmds.filter (fun x => !(x.slot == cmd.slot && x.seq == cmd.seq && x.eng == cmd.eng && x.preMark == cmd.preMark)) }

/-! ### Which command an engine starts (R29, R223, R243) -/

/-- XF and MX run several commands of a slot at a time, which start in program order (R223, R243). -/
def Eng.overlaps : Eng → Bool
  | .mx => true
  | .xf => true
  | _ => false

/-- The command is the head of its slot in its engine: every earlier one has completed, or in XF and MX has started. -/
def isHead (cmds : List Cmd) (c : Cmd) : Bool :=
  !c.marker && cmds.all (fun e => e.eng != c.eng || e.preMark || e.slot != c.slot || decide (c.seq ≤ e.seq) || (Eng.overlaps c.eng && e.started))

/-- A head command has its operands available: its next step could be made (R29). -/
def State.cmdReady (s : State) (c : Nat) (sl : Slot) (cmd : Cmd) : Bool :=
  let mine := s.slotCmds c cmd.slot
  let go := !cmd.marker && sl.saving.isNone && released sl.ctx cmd && sl.breaks.all (fun b => decide (cmd.seq < b))
  match cmd.eng with
  | .vl => mayWork sl mine cmd && hazardFree mine cmd && queueRoom cmd sl.ctx
  | .va => mayWork sl mine cmd && hazardFree mine cmd && queueRoom cmd sl.ctx && (stepSources cmd (s.core c) sl.ctx cmd.per cmd.mpc).isSome
  | .vs => mayWork sl mine cmd && hazardFree mine cmd && (stepSources cmd (s.core c) sl.ctx 1 cmd.mpc).isSome
  | .mx => mayWork sl mine cmd && hazardFree mine cmd
  | .xf => go && (match cmd.instr with | .xflag .. => mine.all (fun e => e.eng != .xf || e.preMark || decide (cmd.seq ≤ e.seq)) | _ => true)

/-- The command that an engine starts next: the oldest head command, in the order of pushes, that has not started and has its
operands available (R29, rule 4). -/
def State.firstReady (s : State) (c : Nat) (e : Eng) : Option Cmd :=
  let cmds := (s.core c).cmds
  cmds.find? (fun x => x.eng == e && !x.started && isHead cmds x &&
    (match s.slot? c x.slot with | some sl => s.cmdReady c sl x | none => false))

/-- The command has started, or is the one that its engine starts next. -/
def State.mayStart (s : State) (c : Nat) (cmd : Cmd) : Bool :=
  cmd.started || (s.firstReady c cmd.eng).any (fun x => x.slot == cmd.slot && x.seq == cmd.seq)

/-- A command that may start, or has started, makes its next step, where that is possible now. -/
def State.startStep (s : State) (c : Nat) (cmd : Cmd) (f : Cmd → Option State) : Option State :=
  if s.mayStart c cmd then some ((f { cmd with started := true }).getD (s.putCmd c { cmd with started := true })) else none

/-- ENG of a fault (R295). -/
def engCode (e : Eng) : Nat := engKind e

/-- The fault of an engine command at its step: ENG, the micro-program counter, the word and its offset. -/
def Cmd.faultRec (c : Cmd) (f : FaultRec) (eng : Nat) : FaultRec :=
  { f with eng := eng, mpc := c.mpc, word := c.word, pc := c.pc }

/-- A fault of an engine command without an access. -/
def Cmd.plainFault (c : Cmd) (code : Nat) : FaultRec := { code := code, addr := c.pc }

end Sys2Proof.Machine
end

