-- ==== Sys2Proof/Machine/Weir.lean ====
section
/-! DEFINITION. Tasks: triggers and edges (R282), groups and barriers (R278 to R280), the end of a
task (R270), the Weir (R272 to R275), dispatch (R108, R137, R201) and the restore of a frame (R305), the end of commands
(R133, R200) and pre-emption (R306). -/

namespace Sys2Proof.Machine

/-! ### Triggers (R282) -/

/-- JOIN of a dependant falls by one; at zero a Pending task becomes Ready. -/
def State.decJoin (s : State) (p id : Nat) : State :=
  match s.task? p id with
  | none => s
  | some t =>
    let s := s.putTask p { t with join := t.join - 1 }
    if t.join ≤ 1 ∧ t.state = .pending then s.makeReady p id else s

/-- The task triggers, if it has not: its edges are removed and each dependant's JOIN falls (R282). -/
def State.triggerTask (s : State) (p id : Nat) : State :=
  match s.task? p id with
  | none => s
  | some t => if t.trig then s else t.edges.foldl (fun s d => s.decJoin p d) (s.putTask p { t with trig := true, edges := [] })

/-! ### Groups (R278 to R280) -/

/-- The phase releases when every member has arrived: members parked in it become Ready (R280); one whose context still waits
for a frame slot becomes Ready once it is saved. -/
def State.releaseGroup (s : State) (p g : Nat) : State :=
  let v := s.group p g
  if v.members ≠ [] ∧ v.arrived.length = v.members.length then
    v.members.foldl (fun s id =>
      match s.task? p id with
      | some t =>
        if t.wait = some (.barrier g) then
          (if t.state = .parkedWait then s.makeReady p id else s.putTask p { t with wait := none })
        else s
      | none => s) (s.setGroup p g { v with arrived := [], phase := (v.phase + 1) % 2 ^ 64 })
  else s

/-- The task becomes a member (R279). -/
def State.joinGroup (s : State) (p id g : Nat) : State :=
  let v := s.group p g
  (s.setGroup p g { v with members := v.members ++ [id] }).modTask p id (fun t => { t with groups := t.groups ++ [g] })

/-- The task leaves a group, which may release the phase (R280). -/
def State.leaveGroup (s : State) (p id g : Nat) : State :=
  let v := s.group p g
  ((s.setGroup p g { v with members := v.members.filter (fun x => x != id), arrived := v.arrived.filter (fun x => x != id) }).modTask p id
    (fun t => { t with groups := t.groups.filter (fun x => x != g) })).releaseGroup p g

/-- What a join answers before it is made: 1 already a member, 2 at the task's limit, 3 at the group's limit, else 0. -/
def State.joinCheck (s : State) (p : Nat) (t : Task) (g : Nat) : Nat :=
  if t.groups.contains g then 1
  else if 8 ≤ t.groups.length then 2
  else if 65535 ≤ (s.group p g).members.length then 3
  else 0

/-! ### The end of a task (R270) -/

/-- A window is released: the residency table of its region forgets the tiles it held (R277). -/
def State.dropWindow (s : State) (t : Task) : State :=
  match t.window with
  | some (c, _, _) => s.residClear c resSP (fun e => e.own == t.id)
  | none => s

/-- A mailbox slot is free again (R345). -/
def State.freeMailbox (s : State) (t : Task) : State :=
  match t.mailbox with
  | some (e, n) =>
    s.modGrotto (fun g =>
      let v := mget {} g.filter e
      { g with filter := mput {} g.filter e { v with used := v.used.filter (fun x => x != n) } })
  | none => s

/-- The task is Ended: its window, frame slot and task entry are released; no trigger (R299, R331). -/
def State.removeTask (s : State) (p id : Nat) : State :=
  match s.task? p id with
  | none => s
  | some t =>
    let s := (s.dropWindow t).freeMailbox t
    let s := t.groups.foldl (fun s g => s.leaveGroup p id g) s
    (s.dropTask p id).steer p

/-- The task ends as TEND ends it: it triggers if it has not, and leaves every group (R270). -/
def State.endTask (s : State) (p id : Nat) : State := (s.triggerTask p id).removeTask p id

/-- The two conditions of a TOKP hold: every command pushed before it is done, and every P0 access issued before it is performed
(R195). -/
def tokenMet (sl : Slot) (cmds : List Cmd) (t : TokpRec) : Bool :=
  cmds.all (fun x => x.marker || decide (t.seq ≤ x.seq)) && sl.p0.all (fun a => decide (t.seq ≤ a.seq)) &&
    sl.deferred.all (fun d => d.redo.isNone || decide (t.seq ≤ d.seq))

/-- A TOKP whose conditions have come to hold. -/
def tokenNew (sl : Slot) (cmds : List Cmd) (t : TokpRec) : Bool := t.met.isNone && tokenMet sl cmds t

/-- The TOKPs of a slot whose conditions have come to hold take their place in the order of such moments (R195). -/
def State.markTokens (s : State) (c k : Nat) : State :=
  match s.slot? c k with
  | some sl =>
    let new := tokenNew sl (s.slotCmds c k)
    if sl.tokps.any new then
      (s.setSlot c k { sl with tokps := sl.tokps.map (fun t => if new t then { t with met := some s.clock } else t) }).bump
    else s
  | none => s

/-- The token that enters a sluice of a core next, with its slot: the tokens of a slot enter in the order of issue, and those of
different slots in the order in which their conditions were met (R195). -/
def Core.dueToken (co : Core) : Option (Nat × TokpRec) :=
  co.slots.foldl (fun b ks =>
    match ks.2.tokps with
    | t :: _ => if t.reserved && t.met.isSome && b.all (fun x => decide (t.met.getD 0 < x.2.met.getD 0)) then some (ks.1, t) else b
    | [] => b) none

/-- The token of a slot's oldest pending TOKP enters its sluice. -/
def State.enterToken (s : State) (c : Nat) (kt : Nat × TokpRec) : State :=
  let co := s.core c
  (s.setCore c { co with sluices := mput [] co.sluices kt.2.sluice (mget [] co.sluices kt.2.sluice ++ [kt.2.value]) }).modSlot c kt.1
    (fun sl => { sl with tokps := sl.tokps.drop 1 })

/-- Up to `n` tokens of a core enter, as they are due. -/
def State.enterTokens (s : State) (c : Nat) : Nat → State
  | 0 => s
  | n + 1 =>
    match (s.core c).dueToken with
    | some kt => (s.enterToken c kt).enterTokens c n
    | none => s

/-- The task of a slot ends: its pending tokens enter, each in its turn, and the slot, window and banks are released (R195, R200). -/
def State.finishTask (s : State) (c k : Nat) : State :=
  match s.slot? c k with
  | none => s
  | some sl => (((s.markTokens c k).enterTokens c 32).freeSlot c k sl.banks).endTask sl.part sl.task

/-! ### Entering records (R270, R271) -/

/-- Task entries of a partition: CQSIZE.COUNT, or 1,024 for the fontanier. -/
def State.entryCount (s : State) (p : Nat) : Nat := if p = fontanier then 1024 else bits (s.part p).cqsize 16 0

/-- A task entry is free. -/
def State.hasEntry (s : State) (p : Nat) : Bool := decide ((s.part p).tasks.length < s.entryCount p)

/-- A record entered: it takes the next id, and is Ready when its JOIN is zero (R270). -/
def State.enterTask (s : State) (t : Task) : State :=
  let q := s.part t.part
  let t := { t with id := q.nextId, state := if t.join = 0 then .ready else .pending, order := s.clock, readyAt := s.clock }
  (s.setPart t.part { q with nextId := q.nextId + 1, tasks := q.tasks ++ [t] }).bump

/-- The handler record of a template (R299). -/
def handlerTask (w : Word) (p : Nat) (fromHndl : Bool) (flt : FltRegs) : Task :=
  { id := 0, part := p, code := bits w 47 0, frame := 0, join := 0, prio := bits w 62 60, banks := bits w 59 56, fmttrap := false,
    sup := true, spkib := 4 * bits w 55 48, group := 0xFF, pin := 0x7F, handler := fromHndl, flt := flt }

/-- The FLT registers of a handler for a fault of task `id` of partition `p` (R295). -/
def fltOf (f : FaultRec) (p id : Nat) : FltRegs :=
  { code := f.fltcode, addr := toW f.addr, gpa := toW (f.gpa % 2 ^ 48), task := toW (p % 64 * 2 ^ 48 + id) }

/-- The first handler record that finds a task entry is entered (R299). -/
def State.enterHandler (s : State) : State :=
  match s.grotto.pend.find? (fun h => s.hasEntry h.part) with
  | none => s
  | some h =>
    let w := if h.hv then s.grotto.hvhndl else (s.part h.part).hndl
    (s.modGrotto (fun g => { g with pend := g.pend.erase h })).enterTask
      (handlerTask w h.part (!h.hv) (fltOf h.fault h.fpart h.ftask))

/-! ### Eligible pairs and scores (R273, R274) -/

/-- Windows on a core, as (base, size). -/
def State.windowsOn (s : State) (c : Nat) : List (Nat × Nat) :=
  s.parts.flatMap (fun kp => kp.2.tasks.filterMap (fun t => t.window.bind (fun w => if w.1 = c then some w.2 else none)))

/-- The bytes of a window request (R145). -/
def windowBytesOf (spkib : Nat) : Nat := cdiv spkib 4 * 4096

/-- The lowest free block of a core's scratchpad for a request (R273, R275). -/
def State.freeBlock (s : State) (c n : Nat) : Option Nat :=
  ((List.range 128).map (fun i => 4096 * i)).find? (fun b =>
    decide (b + n ≤ 524288) && (s.windowsOn c).all (fun w => decide (b + n ≤ w.1) || decide (w.1 + w.2 ≤ b)))

/-- The regions in which the tasks of a partition may be placed. -/
def State.places (s : State) (p : Nat) : List Nat :=
  if p = fontanier then [64] else s.regionsOf p (fun g => g.state == .owned)

/-- The core suits the task: its pin, its banks and its window (R273). -/
def State.coreFits (s : State) (t : Task) (c : Nat) : Bool :=
  (t.pin == 0x7F || t.pin == c) && (s.core c).slots.all (fun p => Nat.land p.2.banks t.banks == 0) &&
    (match t.window with
     | some w => w.1 == c
     | none => t.spkib == 0 || (s.freeBlock c (windowBytesOf t.spkib)).isSome)

/-- The eligible pairs of a task (R273); while the Cistern write window is open only SUP = 1 is dispatched (R323). -/
def State.pairs (s : State) (t : Task) : List (Nat × Nat) :=
  if (s.part t.part).cstOpen && !t.sup then []
  else ((s.places t.part).filter (s.coreFits t)).flatMap (fun c =>
    ((List.range 4).filter (fun k => (s.slot? c k).isNone)).map (fun k => (c, k)))

/-- The level factor of a tile on a region (R274). -/
def State.factor (s : State) (r h t : Nat) : Nat :=
  match (s.region r).entry? h t with
  | none => 0
  | some e =>
    let f := resFlags e.word
    if f.testBit 5 || f.testBit 2 then 4 else if f.testBit 4 || f.testBit 1 then 2 else if f.testBit 3 || f.testBit 0 then 1 else 0

/-- The score of a task on a region (R274). -/
def State.score (s : State) (t : Task) (r : Nat) : Nat := (t.reads.map (fun e => e.weight * s.factor r e.handle e.tile)).sum

/-- The effective priority (R272). -/
def Task.effPrio (t : Task) : Nat := min 7 (t.prio + t.age / 4096)

/-- The order of pairs in steps 2 and 3 of R275: score, Running tasks, region, time of becoming Ready, slot. -/
def State.pairBefore (s : State) (a b : Task × Nat × Nat) : Bool :=
  let key := fun (x : Task × Nat × Nat) =>
    [10 ^ 9 - s.score x.1 x.2.1, (s.running x.2.1).length, x.2.1, x.1.readyAt, x.2.2]
  decide (key a ≤ key b)

/-- The least pair of a list. -/
def State.bestPair (s : State) : List (Task × Nat × Nat) → Option (Task × Nat × Nat)
  | [] => none
  | x :: xs =>
    match s.bestPair xs with
    | none => some x
    | some y => if s.pairBefore x y then some x else some y

/-- The choice of a dispatch decision (R272, R275). -/
def State.choose (s : State) (p : Nat) : Option (Task × Nat × Nat) :=
  let ready := sortBy (fun (a b : Task) => decide (a.order ≤ b.order))
    ((s.part p).tasks.filter (fun t => t.state == .ready && !(s.pairs t).isEmpty))
  let overdue := sortBy (fun (a b : Task) => decide (a.readyAt ≤ b.readyAt)) (ready.filter (fun t => decide (32768 ≤ t.age)))
  let cands : List Task := match overdue with
    | t :: _ => [t]
    | [] =>
      let top := (ready.map Task.effPrio).foldl max 0
      (ready.filter (fun t => t.effPrio == top)).take 16
  s.bestPair (cands.flatMap (fun t => (s.pairs t).map (fun ck => (t, ck.1, ck.2))))

/-! ### Dispatch (R88, R108, R137, R145, R201) -/

/-- A capability-table entry as dispatch reads it, none when it is not valid, and the notes of its read (R137). -/
def State.tableEntry (s : State) (r p i : Nat) : Except FaultRec (Option Cap × List Note) :=
  if bits (s.part p).captn 16 0 ≤ i then .ok (none, [])
  else
    match s.gread r p 2 (bits (s.part p).captb 47 12 * 4096 + 32 * i) 32 with
    | .error f => .error f
    | .ok (b, ns) => .ok (if (Cap.ofBytes b).valid && (Cap.ofBytes b).formed then some (Cap.ofBytes b) else none, ns)

/-- The window of a task on a core: the one it keeps, or the lowest block that fits. -/
def State.placeWindow (s : State) (t : Task) (c : Nat) : Option (Nat × Nat × Nat) :=
  match t.window with
  | some w => some w
  | none =>
    if t.spkib = 0 then none
    else (s.freeBlock c (windowBytesOf t.spkib)).map (fun b => (c, b, windowBytesOf t.spkib))

/-- The core with the declared banks active and zero (R88, R201, R391). -/
def Core.zeroBanks (co : Core) (banks : Nat) : Core :=
  { co with cells := otherCells co.cells banks, tileErr := co.tileErr.filter (fun g => !banks.testBit (g / 4096)) }

/-- The window's bytes before a task's first word: zero where its contents were lost, the image of an import (R319, R331). -/
def State.fillWindow (s : State) (t : Task) (w : Option (Nat × Nat × Nat)) : State :=
  match w with
  | some (c, base, size) =>
    if t.winLost then s.writeLoc { aper := .spad, addr := base, core := c, part := t.part } (zeros size)
    else if t.winImage ≠ [] then
      s.writeLoc { aper := .spad, addr := base, core := c, part := t.part } (rdBytes t.winImage 0 size)
    else s
  | none => s

/-- What the fetch of the first word raises: a table entry that could not be read, or a refused first join (R137, R270). -/
def firstFault (pc : Nat) (e0 e1 : Except FaultRec (Option Cap × List Note)) (joinFail : Bool) : Option FaultRec :=
  match e0, e1 with
  | .error f, _ => some { f with addr := pc, walk := false }
  | _, .error f => some { f with addr := pc, walk := false }
  | _, _ => if joinFail then some { code := 0x0F, addr := pc } else none

/-- The capability of a table entry that may have failed. -/
def entryCap (e : Except FaultRec (Option Cap × List Note)) : Cap :=
  match e with
  | .ok (some c, _) => c
  | _ => {}

/-- The read of a table entry failed. -/
def entryFails (e : Except FaultRec (Option Cap × List Note)) : Bool :=
  match e with
  | .error _ => true
  | .ok _ => false

/-- The notes of the reads of table entries. -/
def entryNotes (es : List (Except FaultRec (Option Cap × List Note))) : List Note :=
  es.flatMap (fun e => match e with | .ok (_, ns) => ns | .error _ => [])

/-- A read of a dispatch or restore as it stands now: a request that has waited its 1 ms has failed (R364). -/
def readDue {α : Type} (t : Task) (tick : Nat) (e : Except FaultRec α) : Except FaultRec α :=
  match e with
  | .error f => .error ((f.due t.heldAt tick).getD f)
  | .ok v => .ok v

/-- The record of a read that still waits. -/
def readWaits {α : Type} (e : Except FaultRec α) : Option FaultRec :=
  match e with
  | .error f => if f.hold.isSome then some f else none
  | .ok _ => none

/-- A dispatch or restore that waits for a request of its own. -/
def State.waitDispatch (s : State) (t : Task) (f : FaultRec) : State := s.putTask t.part { t with heldAt := f.heldFrom t.heldAt s.tick }

/-- The context of a fresh dispatch (R90, R108, R137). -/
def freshCtx (t : Task) (c1 : Cap) : Ctx :=
  let x : Ctx := { pc := t.code % 2 ^ 48, fmtmode := if t.fmttrap then 1 else 0 }
  (x.setReg 1 t.frame).setCap 1 c1

/-- The slice budget of a partition (R307). -/
def State.budget (s : State) (p : Nat) : Nat := bits (s.part p).sliceb 31 0

/-- A dispatch gates the banks that parked tasks retain on its core and that it needs (R201). -/
def State.gateBanks (s : State) (t : Task) (c : Nat) : State :=
  s.setPart t.part { s.part t.part with
    tasks := (s.part t.part).tasks.map (fun u =>
      if u.retained = some c ∧ Nat.land u.banks t.banks ≠ 0 then { u with retained := none } else u) }

/-- A task Running in a slot. -/
def State.occupy (s : State) (t : Task) (c k : Nat) (w : Option (Nat × Nat × Nat)) (sl : Slot) : State :=
  let sl := { sl with
    part := t.part, task := t.id, sup := t.sup, banks := t.banks, flt := t.flt, sliceAt := s.cycles c,
    winBase := (w.map (fun x => x.2.1)).getD 0, winSize := (w.map (fun x => x.2.2)).getD 0 }
  (((s.gateBanks t c).setSlot c k sl).setTask
    { t with state := .running, core := c, window := w, fresh := false, frameAt := none, retained := none, winLost := false,
             winImage := [], priv := [], p0 := [], deferred := [], wait := none, passed := none, rebind := false, heldAt := none, bound := false }).steer t.part

/-- The read of a table entry at a dispatch or restore. -/
def State.entryDue (s : State) (t : Task) (c i : Nat) : Except FaultRec (Option Cap × List Note) :=
  readDue t s.tick (s.tableEntry c t.part i)

/-- A record dispatched to a slot for the first time. A running task fetches what its core's instruction cache holds, and a task
dispatched later fetches anew (R156). -/
def State.dispatchFresh (s : State) (t : Task) (c k : Nat) : State :=
  let w := s.placeWindow t c
  let bad := t.group != 0xFF && s.joinCheck t.part t t.group != 0
  let e0 := s.entryDue t c 0
  let e1 := s.entryDue t c 1
  let s := if t.group ≠ 0xFF ∧ bad = false then s.joinGroup t.part t.id t.group else s
  let t := (s.task? t.part t.id).getD t
  let s := s.keepNotes c t.part (entryNotes [e0, e1])
  let s := (s.setCore c { (s.core c).zeroBanks t.banks with icache := [] }).fillWindow t w
  s.occupy t c k w
    { part := t.part, task := t.id, ctx := freshCtx t (entryCap e1), codeCap := entryCap e0,
      first := firstFault t.code e0 e1 bad, slice := s.budget t.part, rebind := entryFails e0 || entryFails e1 }

/-! ### Restore (R305) -/

/-- The code word at an offset, zero where it cannot be fetched. -/
def State.codeWord (s : State) (c p : Nat) (cap : Cap) (off : Nat) : Nat :=
  match objAccess s c p cap off 8 8 kFetch with
  | .ok t => leNat (s.locBytes (t.loc c p) 8 0)
  | .error _ => 0

/-- Rows that a command still produces into queue `q`, and claims from it. -/
def Cmd.remain (c : Cmd) (q : Nat) (ports : List Port) : Nat :=
  match ports.find? (fun p => p.op == .q q) with
  | some p => if p.per = 0 then (if c.mpc < c.instr.steps then 1 else 0) else p.per * (c.instr.steps - c.mpc)
  | none => 0

/-- The tags that R392 keeps, from the queues' entries and the commands still queued. -/
def unclaimedOf (x : Ctx) (cmds : List Cmd) : Map (List Tag) :=
  mapOf [] 8 (fun q =>
    let made := cmds.flatMap (fun c => List.replicate (c.remain q c.instr.outs) c.outTag)
    (((x.queue q).map (fun e => e.tag)) ++ made).drop ((cmds.map (fun c => c.remain q (c.instr.ins c.per))).sum))

/-- What a saved item keeps beside its image: the task's own record, or free values for an imported frame, whose commands count
as pushed inside the LOOPP where one is active (log entry 12). -/
def privOf (s : State) (t : Task) (n i : Nat) (pipe : Bool) : Priv :=
  if t.priv.length = n then t.priv.getD i { seq := i, va := 0, vb := 0, vc := 0, vf := 0 }
  else
    let v := fun j => Config.free (s.free + 4 * i + j)
    { seq := i + 1, va := v 0, vb := v 1, vc := v 2, vf := v 3, level := if t.sup then .s else .u, inPipe := pipe }

/-- An operand image with the copies that its MXSA or MXSB took, where the task kept them; for an import those of the frame's
own registers (log entry 12). -/
def restoreMa (kept : Map MaImage) (x : Ctx) (i : Nat) (m : MaImage) : MaImage :=
  if m.src = .desc then
    match mfind kept i with
    | some k => { m with desc := k.desc, cap := k.cap }
    | none => { m with desc := x.desc (maLoc m % 16), cap := x.descCap (x.desc (maLoc m % 16)) }
  else m

/-- An access that is repeated on resume goes under the step lease as it stands (R162). -/
def P0Acc.renewed (a : P0Acc) (tok : Word) : P0Acc :=
  if a.req = .fresh ∧ a.token.isSome ∧ a.op.returns then { a with token := some tok } else a

/-- A repeated lease-bound access finds no live step lease (R144, R162). -/
def P0Acc.unleased (a : P0Acc) (live : Bool) : Bool := a.req == .fresh && a.token.isSome && a.op.returns && !live

/-- The deferred fault of such an access. -/
def P0Acc.leaseFault (a : P0Acc) : Deferred := { seq := a.seq, fault := a.fault 0x0D, sd := a.op.target, redo := some a }

/-- The saved context of a task goes on after a TLWAIT that was satisfied while it was parked: sd has the value, and the word has issued
(R290). -/
def passedCtx (passed : Option (Nat × Word)) (x : Ctx) : Ctx :=
  match passed with
  | some (sd, v) => (x.setReg sd v).stepOver
  | none => x

/-- A frame whose bytes have passed the checks of R305 is restored whole into a slot. -/
def State.restoreFrame (s : State) (t : Task) (c k : Nat) (b : List Byte) : State :=
  let w := s.placeWindow t c
  let e0 := s.entryDue t c 0
  let e1 := if t.rebind then s.entryDue t c 1 else .ok (none, [])
  let cap := entryCap e0
  let x := (passedCtx t.passed (frameCtx b (s.codeWord c t.part cap) t.pushes)).settleDelay
  let x := { x with ma := x.ma.map (fun p => (p.1, restoreMa t.ma x p.1 p.2)), mb := x.mb.map (fun p => (p.1, restoreMa t.mb x p.1 p.2)) }
  let x := if t.rebind then x.setCap 1 (entryCap e1) else x
  let live := s.leaseLive t.part
  let n := imgTotal b
  let nc := imgCount b 0
  let imgs := (frameImages b).zipIdx
  let ctl := imgs.take nc
  let cmds := (imgs.drop nc).filterMap (fun p => p.1.cmd b k x (privOf s t n p.2 x.pipe.isSome))
  let fences := ctl.filterMap (fun p => p.1.fence (privOf s t n p.2 false).seq)
  let tokps := ctl.filterMap (fun p => p.1.tokp (privOf s t n p.2 false).seq)
  let s := if t.priv.length = n then s else { s with free := s.free + 4 * n }
  let s := s.keepNotes c t.part (entryNotes [e0, e1])
  let co := (s.core c).zeroBanks t.banks
  let s := s.setCore c { co with
    icache := []
    cells := (frameCells b).foldl (fun m p => mput 0 m p.1 p.2) co.cells
    cmds := co.cmds ++ cmds
    sluiceRq := co.sluiceRq ++ tokps.map (fun q => { sluice := q.sluice, slot := k, seq := q.seq : SluiceReq }) }
  let s := s.fillWindow t w
  (s.occupy t c k w
    { part := t.part, task := t.id, ctx := { x with unclaimed := unclaimedOf x cmds }, codeCap := cap,
      first := firstFault x.pc e0 e1 false, slice := if (fget b 7 1).testBit 3 then s.budget t.part else fget b 0x2F0 8,
      seq := max t.seq (n + 8),
      p0 := (t.p0.filter (fun a => !a.unleased live)).map (fun a => a.renewed (s.part t.part).lease.token),
      deferred := t.deferred ++ (t.p0.filter (fun a => a.unleased live)).map P0Acc.leaseFault, fences := fences, tokps := tokps, effect := t.effect, unmaps := t.unmaps,
      hsel := t.hsel, rsel := t.rsel, breaks := t.breaks, rebind := entryFails e0 || entryFails e1, trigAt := t.trigAt }).markTokens c k

/-- The held requests of a slot meet the conduits as they are now (R364). -/
def State.retrySlot (s : State) (c k : Nat) : State :=
  match s.slot? c k with
  | some sl => sl.p0.foldl (fun s a => s.retryHeld c k sl.part a) s
  | none => s

/-- PIN of a frame names no region outside the loading partition (R305). -/
def State.pinOk (s : State) (p pin : Nat) : Bool := pin == 0x7F || (decide (pin < 64) && s.holds p pin)

/-- The frame slot from which a task restarts, if it has run before. -/
def Task.savedAt (t : Task) : Option Nat := if t.fresh then none else t.frameAt

/-- The read of a saved context. -/
def State.frameDue (s : State) (t : Task) (c i : Nat) : Except FaultRec (List Byte × List Note) :=
  readDue t s.tick (s.gread c t.part 3 (s.frameAddr t.part i) (frameSize t.banks))

/-- A saved context restored: the frame is read through stage 2 and checked; a frame that fails leaves the task Failed with
0x13, and one that cannot be read raises the fault of its read (R300, R305). -/
def State.dispatchSaved (s : State) (t : Task) (c k i : Nat) : State :=
  match s.frameDue t c i with
  | .error f => s.raiseParked t.part t.id c { f with addr := s.frameAddr t.part i }
  | .ok (b, ns) =>
    let s := s.keepNotes c t.part ns
    if frameOk s.host.accepted (t.part == fontanier) (s.pinOk t.part) b [] then (s.restoreFrame t c k b).retrySlot c k
    else s.raiseParked t.part t.id c { code := 0x13, addr := 0 }

/-- The request for which a dispatch or restore of a task on core `c` waits, if one of its reads cannot go out yet (R364). -/
def State.dispatchWaits (s : State) (t : Task) (c : Nat) : Option FaultRec :=
  let e0 := readWaits (s.entryDue t c 0)
  let e1 := readWaits (s.entryDue t c 1)
  match t.savedAt with
  | some i => (readWaits (s.frameDue t c i)).or (e0.or (if t.rebind then e1 else none))
  | none => e0.or e1

/-- The decision for a task, a core and a slot is made: DECN and the AGE of every other Ready task of the partition rise by one
(R272, R275). -/
def State.countDecision (s : State) (p id : Nat) : State :=
  let q := s.part p
  s.setPart p { q with
    decn := q.decn + 1
    tasks := q.tasks.map (fun u => if u.state = .ready ∧ u.id ≠ id then { u with age := u.age + 1 } else u) }

/-- One dispatch decision of a partition, if some task has an eligible pair (R275). While a read of the dispatch waits for a route the
decision is not made. -/
def State.decision (s : State) (p : Nat) : State :=
  match s.choose p with
  | none => s
  | some (t, c, k) =>
    match s.dispatchWaits t c with
    | some f => s.waitDispatch t f
    | none =>
      let s := s.countDecision p t.id
      match t.savedAt with
      | some i => s.dispatchSaved t c k i
      | none => s.dispatchFresh t c k

/-! ### The end of commands -/

/-- The oldest broken segment is cleared away once every command before its BRK has completed: the queues are emptied, and
later commands go on (R133). -/
def State.settleBreak (s : State) (c k : Nat) : State :=
  match s.slot? c k with
  | some sl =>
    match sl.breaks with
    | b :: bs =>
      if (s.slotCmds c k).all (fun x => x.marker || decide (b < x.seq)) then
        s.setSlot c k { sl with breaks := bs, ctx := { sl.ctx with queues := [] } }
      else s
    | [] => s
  | none => s

/-- The engine commands of a slot, without pre-emption markers. -/
def State.queued (s : State) (c k : Nat) : List Cmd := (s.slotCmds c k).filter (fun x => !x.preMark)

/-- A TEND that waits for the commands and accesses before it ends the task, or delivers the deferred fault whose access issued first;
a store that the pool rejected is reported at once, since what is ordered behind it never completes (R156, R187, R200, R297). -/
def State.settleEnd (s : State) (c k : Nat) : State :=
  match s.slot? c k with
  | some sl =>
    if sl.phase = .ending ∧ sl.saving = none ∧
        ((s.queued c k).all (fun x => x.marker) ∧ sl.p0 = [] ∧ sl.breaks = [] ∨ sl.rejected = true) then
      match firstIssued sl.deferred with
      | some d => (s.setSlot c k (sl.delivered d)).raiseFault c k (d.record (encode .tend) sl.ctx.pc)
      | none => s.finishTask c k
    else s
  | none => s

/-- Pre-emption markers have all retired: the context is saved (R306). -/
def State.settleDrain (s : State) (c k : Nat) : State :=
  match s.slot? c k with
  | some sl =>
    match sl.phase with
    | .drain _ => if (s.slotCmds c k).any (fun x => x.preMark) then s else s.saveSlot c k .requeue
    | _ => s
  | none => s

/-- Every access that a slot issued before `n`, on every path, is performed (R185). -/
def quietBefore (sl : Slot) (cmds : List Cmd) (n : Nat) : Bool :=
  sl.p0.all (fun a => decide (n ≤ a.seq)) &&
    cmds.all (fun x => x.marker || isHintCmd x.instr || cmdPaths x == 0 || decide (n ≤ x.seq))

/-- A TTRIG whose earlier accesses are all performed takes effect (R185, R282). -/
def State.settleTrig (s : State) (c k : Nat) : State :=
  match s.slot? c k with
  | some sl =>
    match sl.trigAt with
    | some n => if quietBefore sl (s.slotCmds c k) n then (s.setSlot c k { sl with trigAt := none }).triggerTask sl.part sl.task else s
    | none => s
  | none => s

/-- What follows a completed command, access or marker of a slot. -/
def State.settle (s : State) (c k : Nat) : State :=
  let s := ((((s.settleBreak c k).settleBreak c k).dropFences c k).settleTrig c k).markTokens c k
  ((s.settleEnd c k).finishForced c k).settleDrain c k

/-- A command has completed: it leaves its queue. -/
def State.completeCmd (s : State) (c : Nat) (cmd : Cmd) : State := (s.dropCmd c cmd).settle c cmd.slot

/-- A command has completed one more of its `n` steps (R199). -/
def State.advanceCmd (s : State) (c : Nat) (cmd : Cmd) (n : Nat) : State :=
  if n ≤ cmd.mpc + 1 then s.completeCmd c cmd else s.putCmd c { cmd with mpc := cmd.mpc + 1, heldAt := none }

/-- ENG of a fault of a command (R295): 6 where a commons engine or the Rill acts for the task, which is the work on path P5. -/
def Cmd.engNow (cmd : Cmd) : Nat := if cmd.eng = .xf ∧ cmd.paid = false ∧ xfPath cmd.instr = 32 then 6 else engCode cmd.eng

/-- What a step of a command meets: an engine fault, precise to its step (R297), or a request that waits for a route, at most 1 ms
while a conduit trains (R364). -/
def State.engineFault (s : State) (c : Nat) (cmd : Cmd) (f : FaultRec) : State :=
  match f.due cmd.heldAt s.tick with
  | some f => s.raiseFault c cmd.slot (cmd.faultRec f cmd.engNow)
  | none => s.putCmd c { cmd with heldAt := f.heldFrom cmd.heldAt s.tick }

/-! ### Pre-emption (R306) -/

/-- A pre-emption request reaches a slot. It waits for a pending transfer, a prologue or an epilogue, and lapses when the
slot is already leaving. -/
def State.preempt (s : State) (c k : Nat) : State :=
  match s.slot? c k with
  | some sl =>
    if sl.phase = .run ∧ sl.saving = none then (s.setSlot c k { sl with phase := .preWait }).resumePreempt c k else s
  | none => s

end Sys2Proof.Machine
end

