-- ==== Sys2Proof/Machine/World.lean ====
section
/-! DEFINITION. The fetch of an instruction (R39, R40) with the fates of words that are none (R42, R43); what other packages
and physics do to memory; and which step comes next where the agenda names none (log entry 4). -/

namespace Sys2Proof.Machine

/-! ### Fetch -/

/-- Lines of an instruction cache: 64 KiB (R28). -/
def icacheRoom : Nat := 512

/-- The instruction cache with a line that it has fetched; the one fetched longest ago leaves a full cache. -/
def Core.addLine (co : Core) (l : ILine) : Core :=
  { co with icache := (if co.icache.length < icacheRoom then co.icache else co.icache.drop 1) ++ [l] }

/-- The 8 bytes at offset `a` of a row. -/
def rowWord (r : Row) (a : Nat) : Nat := (r.extractLsb' (8 * a) 64).toNat

/-- The whole line of a fetch, as the piece of an access at partition scope: a store that has completed there is fetched by every
task dispatched after it (R156). -/
def fetchPiece (sl : Slot) (t : Target) : Piece :=
  { tgt := { t with addr := t.addr / 128 * 128 }, from_ := 0, len := 128, off := sl.ctx.pc, oid := sl.codeCap.oid }

/-- What the fetch of a line meets: a gate, a route, or uncorrectable data anywhere in the line (R40). -/
def State.lineStop (s : State) (c : Nat) (sl : Slot) (x : Piece) : Option FaultRec :=
  ((s.gateStop c sl.part x.tgt 3).map (x.mark false)).or
    ((s.pieceStop sl.part 3 false x).or (if s.locPoison (x.loc c c sl.part) 128 3 then some (x.fault 0x0E false) else none))

/-- The fetch of a word at its target: from the instruction cache of the core, or with its line from memory. -/
def State.fetchAt (s : State) (c : Nat) (sl : Slot) (t : Target) : Except FaultRec (Nat × State) :=
  let x := fetchPiece sl t
  match (s.core c).icache.find? (fun l => l.aper == t.aper && l.line == t.addr / 128) with
  | some l => .ok (rowWord l.data (t.addr % 128), s.keepNotes c sl.part t.notes)
  | none =>
    match s.lineStop c sl x with
    | some f => .error f
    | none =>
      let row := bytesRow (s.locBytes (x.loc c c sl.part) 128 3)
      let u := ((s.sendPieces sl.part 3 false none [x]).keepNotes c sl.part t.notes).afterRead (x.loc c c sl.part) 128 3 {}
      .ok (rowWord row (t.addr % 128), u.setCore c ((u.core c).addLine { aper := t.aper, line := t.addr / 128, data := row }))

/-- The instruction word at a slot's offset, with what its fetch leaves in the caches, or the fault of its fetch: first what dispatch
left for the first word (R137), then the checks of R40. -/
def State.fetch (s : State) (c : Nat) (sl : Slot) : Except FaultRec (Nat × State) :=
  match sl.first with
  | some f => .error f
  | none =>
    match objAccess s c sl.part sl.codeCap sl.ctx.pc 8 8 kFetch with
    | .error f => .error f
    | .ok t => s.fetchAt c sl t

/-- A line fetched as uncorrectable is invalidated in the package (R391). -/
def State.fetchLost (s : State) (c : Nat) (sl : Slot) : State :=
  match objAccess s c sl.part sl.codeCap sl.ctx.pc 8 8 kFetch with
  | .ok t => s.dropPoisoned ((fetchPiece sl t).loc c c sl.part) 128 3
  | .error _ => s

/-- The fault of a word that its class, its opcode or its encoding refuses, by the order of R43. -/
def wordFault (s : State) (c : Nat) (sl : Slot) (w : Nat) : Nat :=
  let absent := match wordFeature w with | some b => !s.feature b | none => false
  match decode w with
  | .illegal => 0x01
  | _ =>
    if absent then 0x01
    else if (wordTransfer w && sl.ctx.delay.isSome) || (wordBranch w && nearLoopEnd sl.ctx sl.ctx.pc) then 0x03
    else if (slotLevel c sl).rank < (wordLevel w).rank then 0x10
    else 0x02

/-! ### Other packages and physics -/

/-- Conduits of a pool slice carry its recalls and their acknowledgements (R358, R368); with the rails off none does (R390). -/
def State.carries (s : State) (dest : Nat) : Bool :=
  !s.off && (s.maskOfDest dest).any (fun n => (s.conduit n).state == .up || (s.conduit n).state == .draining)

/-- A recall arrives: every line in the range is invalidated with its lease, and the recall is acknowledged, which ends the leases at the
pool (R368, R369). -/
def State.recallLines (s : State) (base size2 : Nat) : State :=
  (s.dropResAll (fun line => decide (base < line * 128 + 128) && decide (line * 128 < base + 2 ^ size2))).modLinks
    (fun l => { l with
      past := l.past.filter (fun x => !(decide (base < x.1 * 128 + 128) && decide (x.1 * 128 < base + 2 ^ size2)))
      acks := l.acks ++ [(base, size2)] })

/-- The read leases of the package as the pool counts them: line and pool lease end (R369). -/
def State.poolLeases (s : State) : List (Nat × Nat) :=
  s.links.past ++ s.parts.flatMap (fun kp => kp.2.lines.map (fun l => (l.line, l.ends)))

/-- The package, or an earlier incarnation of it, holds a line of the range under a read lease that has not ended at the pool (R369). -/
def State.shares (s : State) (a n : Nat) : Bool :=
  s.poolLeases.any (fun x => (linesOf a n).contains x.1 && decide (s.tick < x.2))

/-- A write of another package performed at the pool. -/
def State.poolApply (s : State) (a : Nat) (bs : List Byte) : State :=
  { s with mem := wrBytes s.mem a bs, memErr := healed s.memErr a bs.length }

/-- A write of another package that waits at the pool slice: it is performed once no read lease of this package stands in its way, and
where a conduit carries it the recall ends that lease at once (R369). -/
def State.poolTry (s : State) (a : Nat) (bs : List Byte) : State :=
  if s.shares a bs.length = false then s.poolApply a bs
  else if s.carries (s.sliceOf (a / 2 ^ 21)) then ((linesOf a bs.length).foldl (fun s k => s.recallLines (k * 128) 7) s).poolApply a bs
  else s.modLinks (fun l => { l with waits := l.waits ++ [(a, bs)] })

/-- The writes that wait at the pool slice go on, in their order (R369). -/
def State.poolRetry (s : State) : State :=
  s.links.waits.foldl (fun s w => s.poolTry w.1 w.2) (s.modLinks (fun l => { l with waits := [] }))

/-- A write by another package reaches the pool behind those that wait there (R183, R369). -/
def State.poolWrite (s : State) (a : Nat) (bs : List Byte) : State := s.poolRetry.poolTry a bs

/-- A granule joins a list once. -/
def addOnce (l : List Nat) (g : Nat) : List Nat := if l.contains g then l else l ++ [g]

/-- The uncorrectable error of a region is logged (R388). -/
def State.logEcc (s : State) (r block addr : Nat) : State :=
  s.logError 1 r block (if (s.region r).assigned then (s.region r).part else 0xFF) addr 0x0E

/-- A granule becomes uncorrectable (R391); one in the package is logged (R388). -/
def State.poison (s : State) (store core g : Nat) : State :=
  match store with
  | 0 => { s with memErr := addOnce s.memErr g }
  | 1 => ({ s with cistErr := addOnce s.cistErr g }).logEcc (g / 2 ^ 25) 3 (8 * g)
  | 2 => (s.setCore core { s.core core with spadErr := addOnce (s.core core).spadErr g }).logEcc core 1 (8 * g)
  | 3 => (s.setCore core { s.core core with tileErr := addOnce (s.core core).tileErr g }).logEcc core 0 (8 * g)
  | 4 => ({ s with resErr := addOnce s.resErr g }).logEcc 65 4 (8 * g)
  | _ => (s.setRegion core { s.region core with l2Err := addOnce (s.region core).l2Err g }).logEcc core 2 (8 * g)

/-- A single-bit error that a read of a granule met and corrected is logged (R388, R391). -/
def State.correctedAt (s : State) (store core g : Nat) : State :=
  let at_ := fun (r block : Nat) => s.logError 0 r block (if (s.region r).assigned then (s.region r).part else 0xFF) (8 * g) 0
  match store with
  | 0 => s
  | 1 => at_ (g / 2 ^ 25) 3
  | 2 => at_ core 1
  | 3 => at_ core 0
  | 4 => at_ 65 4
  | _ => at_ core 2

/-- The pool may grant a name: it has no holder, or its end has passed (R372). -/
def State.grantable (s : State) (row : PoolLease) : Bool := row.holder.isNone || decide (row.till ≤ s.tick)

/-- Another package is granted a lease name at the pool, renews it, or gives it up (R371, R372). -/
def State.otherLease (s : State) (pkg inc : Nat) (name : Word) (hold : Bool) (len : Nat) : State :=
  let row := s.leaseRow name
  let me := Holder.other pkg inc
  if row.holder = some me ∧ s.tick < row.till then
    s.setRow (if hold then { row with till := max row.till (s.tick + len + 2000) } else { row with holder := none })
  else if hold && s.grantable row then s.setRow { row with holder := some me, token := row.token + 1, till := s.tick + len + 2000 }
  else s

/-! ### What comes next without an agenda -/

/-- A slot is ready (R30). -/
def Core.ready (co : Core) (k : Nat) : Bool :=
  match mfind co.slots k with
  | some sl => sl.issues && !sl.stalled
  | none => false

/-- The slots of a core in the cyclic order in which they are visited (R30). -/
def Core.visits (co : Core) : List Nat := (List.range 4).map (fun i => (co.last + 1 + i) % 4)

/-- The slot whose turn it is on a core (R30): the first ready one after the slot that last issued. -/
def Core.turn (co : Core) : Option Nat := co.visits.find? co.ready

/-- No ready slot is visited before slot `k` (R30). A slot whose stall may have ended is visited in its place. -/
def Core.mayIssue (co : Core) (k : Nat) : Bool := (co.visits.takeWhile (fun j => j != k)).all (fun j => !co.ready j)

/-- The first core with a ready slot, and the slot. -/
def State.nextIssue (s : State) : Option (Nat × Nat) :=
  s.cores.findSome? (fun kc => kc.2.turn.map (fun k => (kc.1, k)))

/-- The stalled slots try again. -/
def State.wake (s : State) : State :=
  { s with cores := s.cores.map (fun kc =>
      (kc.1, { kc.2 with slots := kc.2.slots.map (fun ks => (ks.1, { ks.2 with stalled := false })) })) }

/-! ### The load of a program (log entry 14) -/

/-- Where the loaded instruction lies: an object of one tile whose table is at 0x1000. -/
def loadTtp : Nat := 0x1000
/-- The node of that table. -/
def loadNode : Nat := 0x2000
/-- The frame of its one tile. -/
def loadFrame : Nat := 0x10000

/-- The code capability of the loaded program. -/
def loadCap : Cap := { w0 := toW (2 ^ 63 + 2 ^ 61), w2 := 65536, w3 := toW loadTtp }

/-- The task of the loaded program: on the fontanier, with every bank. -/
def loadTask : Task :=
  { id := 1, part := 64, code := 0, frame := 0, join := 0, prio := 0, banks := 15, fmttrap := false, sup := true, spkib := 0, group := 0xFF,
    pin := 0x7F, state := .running, fresh := false, core := 64 }

/-- The slot of the loaded program. -/
def loadSlot : Slot := { part := 64, task := 1, sup := true, banks := 15, codeCap := loadCap }

/-- The links that carry the fetch: conduit 0 UP, a map that gives it the one pool slice, and Join accepted (R358, R362, R374). -/
def loadLinks (l : Links) : Links :=
  { l with conduits := mput {} l.conduits 0 { state := .up }, firstRsm := true, topo := some { seq := 1, nsm1 := 0, masks := [(0, 1)] },
           joined := [0], fenced := false }

/-- A program of one word loaded into slot 0 of the fontanier, which issues next. -/
def State.load (s : State) (w : Nat) : State :=
  let s := (s.modHost (fun h => { h with accepted := 0xFF })).modLinks loadLinks
  let s := (s.writeSys loadTtp (leBytes 8 loadNode ++ leBytes 8 1 ++ leBytes 48 0)).writeSys loadNode (leBytes 8 (2 ^ 63 + loadFrame))
  let s := s.writeSys loadFrame (leBytes 8 w)
  let s := s.setRegion 64 { s.region 64 with tileTlb := [], nestTlb := [], nodes := [] }
  let s := s.setPart 64 { s.part 64 with tasks := loadTask :: (s.part 64).tasks.filter (fun t => t.id != 1) }
  let s := (s.setCore 64 { s.core 64 with icache := [], last := 3 }).setSlot 64 0 loadSlot
  { s with off := false, agenda := { act := .issue 64 0 } :: s.agenda }

end Sys2Proof.Machine
end

