-- ==== Sys2Proof/Machine/Special.lean ====
section
/-! DEFINITION. The special registers that MFS and MTS reach (R111 to R115), for every chapter that assigns some. -/

namespace Sys2Proof.Machine

/-- A special register: levels for MFS and MTS, its RW and RO bits, and whether it exists for partitions alone (R293). -/
structure SReg where
  rd   : Level
  wr   : Level
  rw   : Nat
  ro   : Nat
  part : Bool := false

/-- The bits [hi:lo]. -/
def fieldMask (hi lo : Nat) : Nat := (2 ^ (hi + 1 - lo) - 1) * 2 ^ lo

/-- A register whose fields are all RO. -/
def roReg (l : Level) (mask : Nat) : SReg := { rd := l, wr := l, rw := 0, ro := mask }

/-- Every bit of a register. -/
def allBits : Nat := 2 ^ 64 - 1

/-- The register at an index; none where no chapter assigns it (R111). -/
def sreg? (idx : Nat) : Option SReg :=
  match idx with
  | 0x000 => some (roReg .u allBits)
  | 0x001 => some (roReg .u allBits)
  | 0x002 => some (roReg .u (fieldMask 1 0))
  | 0x003 => some (roReg .u (fieldMask 47 0))
  | 0x004 => some (roReg .u (fieldMask 5 0))
  | 0x005 => some (roReg .u (fieldMask 5 0))
  | 0x006 => some (roReg .u (fieldMask 11 0))
  | 0x007 => some (roReg .u (fieldMask 31 0))
  | 0x008 => some { rd := .u, wr := .u, rw := allBits, ro := 0 }
  | 0x009 => some { rd := .u, wr := .u, rw := allBits, ro := 0 }
  | 0x00A => some { rd := .u, wr := .u, rw := allBits, ro := 0 }
  | 0x00B => some { rd := .u, wr := .u, rw := allBits, ro := 0 }
  | 0x00C => some (roReg .u (fieldMask 47 0))
  | 0x00D => some (roReg .u (fieldMask 47 0))
  | 0x00E => some (roReg .u (fieldMask 47 0))
  | 0x00F => some (roReg .u (fieldMask 47 0))
  | 0x010 => some { rd := .u, wr := .u, rw := fieldMask 7 1, ro := 1 }
  | 0x011 => some (roReg .u (fieldMask 39 0))
  | 0x040 => some { rd := .s, wr := .h, rw := fieldMask 47 12, ro := 0 }
  | 0x041 => some { rd := .s, wr := .h, rw := fieldMask 16 0, ro := 0 }
  | 0x042 => some (roReg .u (fieldMask 19 0))
  | 0x080 => some { rd := .u, wr := .u, rw := fieldMask 7 4 + 1, ro := 0 }
  | 0x081 => some { rd := .u, wr := .u, rw := fieldMask 5 0, ro := 0 }
  | 0x082 => some (roReg .u (fieldMask 60 0))
  | 0x083 => some (roReg .u allBits)
  | 0x084 => some { rd := .s, wr := .h, rw := fieldMask 31 0, ro := 0, part := true }
  | 0x0C0 => some (roReg .u (fieldMask 23 3))
  | 0x0C1 => some { rd := .s, wr := .h, rw := fieldMask 47 12, ro := 0, part := true }
  | 0x0C2 => some { rd := .s, wr := .h, rw := fieldMask 16 0, ro := 0, part := true }
  | 0x0C3 => some (roReg .u allBits)
  | 0x100 => some (roReg .s (fieldMask 31 10 + fieldMask 7 0))
  | 0x101 => some (roReg .s allBits)
  | 0x102 => some (roReg .s (fieldMask 47 0))
  | 0x103 => some (roReg .s (fieldMask 53 0))
  | 0x104 => some { rd := .s, wr := .s, rw := allBits, ro := 0, part := true }
  | 0x105 => some { rd := .s, wr := .h, rw := fieldMask 47 16, ro := 0 }
  | 0x106 => some { rd := .s, wr := .h, rw := fieldMask 15 0, ro := 0 }
  | 0x107 => some { rd := .s, wr := .h, rw := fieldMask 31 0, ro := 0 }
  | 0x108 => some { rd := .h, wr := .h, rw := 2 ^ 63 + fieldMask 47 12, ro := 0, part := true }
  | 0x109 => some { rd := .h, wr := .h, rw := allBits, ro := 0 }
  | 0x10A => some { rd := .h, wr := .h, rw := fieldMask 6 0, ro := 0 }
  | 0x200 => some (roReg .h (fieldMask 63 40 + fieldMask 31 0))
  | 0x201 => some { rd := .h, wr := .h, rw := fieldMask 6 0, ro := 0 }
  | 0x202 => some (roReg .h allBits)
  | 0x203 => some { rd := .s, wr := .h, rw := 1, ro := 0, part := true }
  | 0x204 => some { rd := .s, wr := .s, rw := 0, ro := fieldMask 15 0, part := true }
  | 0x205 => some (roReg .h (fieldMask 47 0))
  | 0x206 => some (roReg .h (2 ^ 63 + fieldMask 20 0))
  | 0x207 => some { rd := .s, wr := .s, rw := 0, ro := allBits, part := true }
  | 0x208 => some (roReg .u allBits)
  | 0x300 => some (roReg .u (fieldMask 63 60 + fieldMask 55 0))
  | 0x301 => some (roReg .u (fieldMask 31 0))
  | 0x302 => some (roReg .u (fieldMask 31 0))
  | 0x303 => some (roReg .u (fieldMask 31 0))
  | 0x304 => some { rd := .s, wr := .h, rw := fieldMask 13 0, ro := 0, part := true }
  | 0x380 => some (roReg .u (fieldMask 15 0))
  | 0x381 => some (roReg .u (2 ^ 63 + fieldMask 15 0))
  | 0x382 => some (roReg .s (2 ^ 63 + fieldMask 55 0))
  | _ => none

/-! ### Values -/

/-- The code of a region state (R326). -/
def RState.code : RState → Nat
  | .dirty => 0
  | .clean => 1
  | .owned => 2
  | .held => 3
  | .quiesce => 4
  | .scrub => 5
  | .sign => 6
  | .reset => 7

/-- PART of SCRPROG (R335): the owner, the departing partition, or 0xFF. -/
def Region.shownPart (g : Region) : Nat :=
  match g.state with
  | .owned => g.part
  | .held => g.part
  | .quiesce => g.part
  | .scrub => g.part
  | .sign => g.part
  | .reset => if g.ret == .scrub then g.part else 0xFF
  | _ => 0xFF

/-- The units of a scrub phase (R336); phase 6 has one in the region that clears the keys. -/
def phaseUnits (phase : Nat) (keys : Bool) : Nat :=
  match phase with
  | 1 => 128
  | 2 => 256
  | 3 => 256
  | 4 => 192
  | 6 => if keys then 1 else 0
  | _ => 1

/-- SCRPROG (R335). -/
def Region.scrprog (g : Region) : Word :=
  toW (g.state.code * 2 ^ 60 + (if g.state = .scrub then g.phase else 0) * 2 ^ 56 + g.shownPart % 256 * 2 ^ 48 +
    min 255 g.restarts * 2 ^ 40 + g.done)

/-- TOKSEQ (R335, R338): the sequence number in the stored token. -/
def Region.tokseq (g : Region) : Word :=
  match g.token with
  | some t => toW (leNat ((t.body.drop 8).take 8))
  | none => 0

/-- PWST (R281). -/
def Region.pwst (g : Region) : Word := toW (g.base * 2 ^ 16 + g.cur * 2 ^ 8 + g.recv * 16 + if g.donor then 8 else 0)

/-- CSTREF at a tick (R206, R212). -/
def cstref (t : Nat) : Word := toW (refreshBank t * 2 ^ 56 + (t / 2000 + 1) * 2000 % 2 ^ 56)

/-- LSTATE (R360). -/
def State.lstate (s : State) : Word :=
  toW (s.mapst * 2 ^ 60 + (s.conduitsIn .down).length * 2 ^ 48) ||| maskOf (s.conduitsIn .up)

/-- SEQ of the installed topology map (R360). -/
def State.lmap (s : State) : Nat := match s.links.topo with | some t => t.seq | none => 0

/-- FEATACC (R386). -/
def State.featacc (s : State) : Word := toW ((if s.host.lock then 2 ^ 63 else 0) + s.host.accepted % 2 ^ 16)

/-- REPAIRMAP (R384, R386). -/
def State.repairmap (s : State) : Word :=
  if s.host.repaired then
    let b := s.host.image
    toW (2 ^ 63 + ((b.drop 64).take 48).countP (fun x => x != 0xFF) * 2 ^ 48 +
      ((b.drop 48).take 16).countP (fun x => x != 0xFF) * 2 ^ 40 +
      ((List.range 5).map (fun i => b.getD i 0 * 256 ^ i)).sum)
  else 0

/-- STATUS of a slot (R112). -/
def State.status (s : State) (sl : Slot) : Word :=
  statusWord sl.ctx sl.banks ((s.task? sl.part sl.task).map (fun t => t.prio) |>.getD 0) sl.sup

/-- The value of a special register for a slot. REGION and PART have no stated value on the fontanier (R112, R293); there
`v` stands for it (log entry 3). -/
def State.sregValue (s : State) (c k : Nat) (sl : Slot) (v : Word) (idx : Nat) : Word :=
  let p := selPart c sl
  let q := s.part p
  match idx with
  | 0x000 => toW (s.cycles c)
  | 0x001 => toW s.tick
  | 0x002 => toW k
  | 0x003 => toW (sl.task % 2 ^ 48)
  | 0x004 => if c = fontanier then toW (v.toNat % 64) else toW c
  | 0x005 => if c = fontanier then toW (v.toNat % 64) else toW sl.part
  | 0x006 => s.status sl
  | 0x007 => toW (s.sliceLeft c sl)
  | 0x008 => sl.ctx.lcv 0
  | 0x009 => sl.ctx.lcv 1
  | 0x00A => sl.ctx.lcv 2
  | 0x00B => sl.ctx.lcv 3
  | 0x00C => toW (sl.ctx.btv 0)
  | 0x00D => toW (sl.ctx.btv 1)
  | 0x00E => toW (sl.ctx.btv 2)
  | 0x00F => toW (sl.ctx.btv 3)
  | 0x010 => sl.ctx.kregWord
  | 0x011 => sl.ctx.lpst
  | 0x040 => q.captb
  | 0x041 => q.captn
  | 0x042 => toW sl.winSize
  | 0x080 => toW sl.ctx.fmtmode
  | 0x081 => toW sl.ctx.sptag
  | 0x082 => cstref s.tick
  | 0x083 => sl.ctx.qbal
  | 0x084 => q.xwgt
  | 0x0C0 => (s.region c).pwst
  | 0x0C1 => q.cqbase
  | 0x0C2 => q.cqsize
  | 0x0C3 => toW q.decn
  | 0x100 => sl.flt.code
  | 0x101 => sl.flt.addr
  | 0x102 => sl.flt.gpa
  | 0x103 => sl.flt.task
  | 0x104 => q.hndl
  | 0x105 => q.frmbase
  | 0x106 => q.frmcnt
  | 0x107 => q.sliceb
  | 0x108 => q.s2tb
  | 0x109 => s.grotto.hvhndl
  | 0x10A => toW sl.hsel
  | 0x200 => (s.region sl.rsel).scrprog
  | 0x201 => toW sl.rsel
  | 0x202 => (s.region sl.rsel).tokseq
  | 0x203 => q.pcfg
  | 0x204 => maskOf ((List.range 16).filter (fun i => (mget none q.keys i).isSome))
  | 0x205 => toW (s.grotto.scrubQ.length * 2 ^ 32 + s.grotto.clean.length)
  | 0x206 => toW ((if s.exh then 2 ^ 63 else 0) + s.sigLeft)
  | 0x207 => maskOf (s.rgnMap p)
  | 0x208 => if c = fontanier then 0 else maskOf (s.windowGroup c)
  | 0x300 => s.lstate
  | 0x301 => toW s.lmap
  | 0x302 => toW Config.pkgId.toNat
  | 0x303 => toW (epochOf s.boots)
  | 0x304 => q.lscfg
  | 0x380 => toW Config.featOff.toNat
  | 0x381 => s.featacc
  | 0x382 => s.repairmap
  | _ => 0

/-! ### Writes -/

/-- A value that KREG accepts: no reserved bit (R12, R113). -/
def kregOk (v : Nat) : Bool := decide (v < 256)

/-- A handler template without a reserved window size (R295). -/
def hndlOk (v : Nat) : Bool := decide (nbits v 55 48 ≤ 128)

/-- The fault with which a write is refused once its level and its reserved bits have passed: a reserved value (R13), or the
state in which the register may not change (R271, R294, R335). -/
def State.sregRefuse (s : State) (c : Nat) (sl : Slot) (idx v : Nat) : Option Nat :=
  let p := selPart c sl
  let live := (s.part p).tasks != []
  let no := fun (b : Bool) (code : Nat) => if b then some code else none
  match idx with
  | 0x041 => no (decide (65536 < v)) 0x02
  | 0x080 => no (!fmtmodeOk s.feature v) 0x02
  | 0x081 => no (!sptagOk s.feature v) 0x02
  | 0x084 => no (nbits v 7 0 == 0 || nbits v 15 8 == 0 || nbits v 23 16 == 0 || nbits v 31 24 == 0) 0x02
  | 0x0C1 => no live 0x0F
  | 0x0C2 => if 65536 < v then some 0x02 else no live 0x0F
  | 0x104 => no (!hndlOk v) 0x02
  | 0x105 => no live 0x0F
  | 0x106 => no live 0x0F
  | 0x109 => no (!hndlOk v) 0x02
  | 0x10A => no (decide (0x40 < v)) 0x02
  | 0x201 => no (decide (0x3F < v)) 0x02
  | 0x203 => if v % 2 = 1 ∧ !s.feature 6 then some 0x02 else no (s.placement p != []) 0x0F
  | 0x304 => no (v == 0 || decide (16000 < v)) 0x02
  | _ => none

/-- A special register written with the RW bits of a value. -/
def State.sregWrite (s : State) (c k : Nat) (sl : Slot) (idx : Nat) (w : Word) : State :=
  let p := selPart c sl
  let q := s.part p
  let x := sl.ctx
  let ctx := fun (y : Ctx) => s.setSlot c k { sl with ctx := y }
  match idx with
  | 0x008 => ctx (x.setLc 0 w)
  | 0x009 => ctx (x.setLc 1 w)
  | 0x00A => ctx (x.setLc 2 w)
  | 0x00B => ctx (x.setLc 3 w)
  | 0x010 => ctx { x with kreg := w.toNat % 256 / 2 * 2 }
  | 0x040 => s.setPart p { q with captb := w }
  | 0x041 => s.setPart p { q with captn := w }
  | 0x080 => ctx { x with fmtmode := w.toNat }
  | 0x081 => ctx { x with sptag := w.toNat }
  | 0x084 => s.setPart p { q with xwgt := w }
  | 0x0C1 => s.setPart p { q with cqbase := w }
  | 0x0C2 => s.setPart p { q with cqsize := w }
  | 0x104 => s.setPart p { q with hndl := w }
  | 0x105 => s.setPart p { q with frmbase := w }
  | 0x106 => s.setPart p { q with frmcnt := w }
  | 0x107 => s.setPart p { q with sliceb := w }
  | 0x108 => s.setPart p { q with s2tb := w }
  | 0x109 => s.modGrotto (fun g => { g with hvhndl := w })
  | 0x10A => s.setSlot c k { sl with hsel := w.toNat }
  | 0x201 => s.setSlot c k { sl with rsel := w.toNat }
  | 0x203 => s.setPart p { q with pcfg := w }
  | 0x304 => s.setPart p { q with lscfg := w }
  | _ => s

/-- The fault with which MFS or MTS of a register is refused before its value matters: an unassigned index, the level, or a
register that the fontanier does not have (R111, R293). -/
def sregGate (c : Nat) (sl : Slot) (idx : Nat) (wr : Bool) : Option Nat :=
  match sreg? idx with
  | none => some 0x02
  | some r =>
    if (slotLevel c sl).rank < (if wr then r.wr else r.rd).rank then some 0x10
    else if r.part && c == fontanier && sl.hsel == 0x40 then some 0x06
    else none

end Sys2Proof.Machine
end

