-- ==== Sys2Proof/Machine/Control.lean ====
section
/-! DEFINITION. Control-core instructions (R108 to R135): scalar arithmetic, conditions, special registers, transfers of
control and loops. -/

namespace Sys2Proof.Machine

/-! ### Shared forms -/

/-- An instruction that writes one scalar register from the context. -/
def issueReg (i : Instr) (s : State) (sd : Nat) (f : Ctx → Word) : Host.Outcome State Fault Refusal :=
  issueSlot i s (fun sl => sl.writeReg sd (f sl.ctx))

/-- An instruction that changes the context alone. -/
def issueCtx (i : Instr) (s : State) (f : Ctx → Ctx) : Host.Outcome State Fault Refusal :=
  issueSlot i s (fun sl => { sl with ctx := f sl.ctx })

/-- An instruction that writes one condition register. -/
def issueCond (i : Instr) (s : State) (kd : Nat) (f : Ctx → Bool) : Host.Outcome State Fault Refusal :=
  issueCtx i s (fun x => x.setK kd (f x))

/-- The shift count of R116: bits [5:0]. -/
def shiftCount (b : Word) : Nat := b.toNat % 64

/-! ### Scalar arithmetic (R116 to R120) -/

/-- NOP (R118). -/
def execNop (s : State) : Host.Outcome State Fault Refusal := issueCtx .nop s (fun x => x)
/-- MOV (R118). -/
def execMov (sd sa : Nat) (s : State) : Host.Outcome State Fault Refusal := issueReg (.mov sd sa) s sd (fun x => x.reg sa)
/-- SEL (R119). -/
def execSel (sd sa sb k : Nat) (s : State) : Host.Outcome State Fault Refusal :=
  issueReg (.sel sd sa sb k) s sd (fun x => if x.k k then x.reg sa else x.reg sb)
/-- LEA (R119). -/
def execLea (sd sa sb shift : Nat) (s : State) : Host.Outcome State Fault Refusal :=
  issueReg (.lea sd sa sb shift) s sd (fun x => x.reg sa + (x.reg sb <<< shift))
/-- ADD (R116, R117). -/
def execAdd (sd sa sb : Nat) (mode : Sat) (s : State) : Host.Outcome State Fault Refusal :=
  issueReg (.add sd sa sb mode) s sd (fun x => addWord mode (x.reg sa) (x.reg sb))
/-- SUB (R116, R117). -/
def execSub (sd sa sb : Nat) (mode : Sat) (s : State) : Host.Outcome State Fault Refusal :=
  issueReg (.sub sd sa sb mode) s sd (fun x => subWord mode (x.reg sa) (x.reg sb))
/-- MUL (R116, R117). -/
def execMul (sd sa sb : Nat) (mode : Sat) (s : State) : Host.Outcome State Fault Refusal :=
  issueReg (.mul sd sa sb mode) s sd (fun x => mulWord mode (x.reg sa) (x.reg sb))
/-- MULH (R116). -/
def execMulh (sd sa sb : Nat) (s : State) : Host.Outcome State Fault Refusal :=
  issueReg (.mulh sd sa sb) s sd (fun x => mulhWord (x.reg sa) (x.reg sb))
/-- MULHU (R116). -/
def execMulhu (sd sa sb : Nat) (s : State) : Host.Outcome State Fault Refusal :=
  issueReg (.mulhu sd sa sb) s sd (fun x => mulhuWord (x.reg sa) (x.reg sb))
/-- DIV (R116). -/
def execDiv (sd sa sb : Nat) (s : State) : Host.Outcome State Fault Refusal :=
  issueReg (.div sd sa sb) s sd (fun x => divWord (x.reg sa) (x.reg sb))
/-- DIVU (R116). -/
def execDivu (sd sa sb : Nat) (s : State) : Host.Outcome State Fault Refusal :=
  issueReg (.divu sd sa sb) s sd (fun x => divuWord (x.reg sa) (x.reg sb))
/-- REM (R116). -/
def execRem (sd sa sb : Nat) (s : State) : Host.Outcome State Fault Refusal :=
  issueReg (.rem sd sa sb) s sd (fun x => remWord (x.reg sa) (x.reg sb))
/-- REMU (R116). -/
def execRemu (sd sa sb : Nat) (s : State) : Host.Outcome State Fault Refusal :=
  issueReg (.remu sd sa sb) s sd (fun x => remuWord (x.reg sa) (x.reg sb))
/-- MIN (R116). -/
def execMin (sd sa sb : Nat) (s : State) : Host.Outcome State Fault Refusal :=
  issueReg (.min sd sa sb) s sd (fun x => minWord (x.reg sa) (x.reg sb))
/-- MAX (R116). -/
def execMax (sd sa sb : Nat) (s : State) : Host.Outcome State Fault Refusal :=
  issueReg (.max sd sa sb) s sd (fun x => maxWord (x.reg sa) (x.reg sb))
/-- MINU (R116). -/
def execMinu (sd sa sb : Nat) (s : State) : Host.Outcome State Fault Refusal :=
  issueReg (.minu sd sa sb) s sd (fun x => minuWord (x.reg sa) (x.reg sb))
/-- MAXU (R116). -/
def execMaxu (sd sa sb : Nat) (s : State) : Host.Outcome State Fault Refusal :=
  issueReg (.maxu sd sa sb) s sd (fun x => maxuWord (x.reg sa) (x.reg sb))
/-- AND (R116). -/
def execAnd (sd sa sb : Nat) (s : State) : Host.Outcome State Fault Refusal :=
  issueReg (.and sd sa sb) s sd (fun x => x.reg sa &&& x.reg sb)
/-- OR (R116). -/
def execOr (sd sa sb : Nat) (s : State) : Host.Outcome State Fault Refusal :=
  issueReg (.or sd sa sb) s sd (fun x => x.reg sa ||| x.reg sb)
/-- XOR (R116). -/
def execXor (sd sa sb : Nat) (s : State) : Host.Outcome State Fault Refusal :=
  issueReg (.xor sd sa sb) s sd (fun x => x.reg sa ^^^ x.reg sb)
/-- ANDN (R116). -/
def execAndn (sd sa sb : Nat) (s : State) : Host.Outcome State Fault Refusal :=
  issueReg (.andn sd sa sb) s sd (fun x => x.reg sa &&& ~~~x.reg sb)
/-- SHL (R116). -/
def execShl (sd sa sb : Nat) (s : State) : Host.Outcome State Fault Refusal :=
  issueReg (.shl sd sa sb) s sd (fun x => shlWord (x.reg sa) (shiftCount (x.reg sb)))
/-- SHR (R116). -/
def execShr (sd sa sb : Nat) (s : State) : Host.Outcome State Fault Refusal :=
  issueReg (.shr sd sa sb) s sd (fun x => shrWord (x.reg sa) (shiftCount (x.reg sb)))
/-- SRA (R116). -/
def execSra (sd sa sb : Nat) (s : State) : Host.Outcome State Fault Refusal :=
  issueReg (.sra sd sa sb) s sd (fun x => sraWord (x.reg sa) (shiftCount (x.reg sb)))
/-- ROL (R116). -/
def execRol (sd sa sb : Nat) (s : State) : Host.Outcome State Fault Refusal :=
  issueReg (.rol sd sa sb) s sd (fun x => rolWord (x.reg sa) (shiftCount (x.reg sb)))
/-- CLZ (R118). -/
def execClz (sd sa : Nat) (s : State) : Host.Outcome State Fault Refusal :=
  issueReg (.clz sd sa) s sd (fun x => clzWord (x.reg sa))
/-- CTZ (R118). -/
def execCtz (sd sa : Nat) (s : State) : Host.Outcome State Fault Refusal :=
  issueReg (.ctz sd sa) s sd (fun x => ctzWord (x.reg sa))
/-- POPC (R118). -/
def execPopc (sd sa : Nat) (s : State) : Host.Outcome State Fault Refusal :=
  issueReg (.popc sd sa) s sd (fun x => popcWord (x.reg sa))
/-- BREV (R118). -/
def execBrev (sd sa : Nat) (s : State) : Host.Outcome State Fault Refusal :=
  issueReg (.brev sd sa) s sd (fun x => brevWord (x.reg sa))
/-- SEXT (R118). -/
def execSext (sd sa : Nat) (size : ExtSize) (s : State) : Host.Outcome State Fault Refusal :=
  issueReg (.sext sd sa size) s sd (fun x => sextWord (x.reg sa) size)
/-- ZEXT (R118). -/
def execZext (sd sa : Nat) (size : ExtSize) (s : State) : Host.Outcome State Fault Refusal :=
  issueReg (.zext sd sa size) s sd (fun x => zextWord (x.reg sa) size)
/-- ADDI (R120). -/
def execAddi (sd sa : Nat) (mode : Sat) (imm : Int) (s : State) : Host.Outcome State Fault Refusal :=
  issueReg (.addi sd sa mode imm) s sd (fun x => addiWord mode (x.reg sa) imm)
/-- MULI (R120). -/
def execMuli (sd sa : Nat) (mode : Sat) (imm : Int) (s : State) : Host.Outcome State Fault Refusal :=
  issueReg (.muli sd sa mode imm) s sd (fun x => muliWord mode (x.reg sa) imm)
/-- ANDI (R120). -/
def execAndi (sd sa imm : Nat) (s : State) : Host.Outcome State Fault Refusal :=
  issueReg (.andi sd sa imm) s sd (fun x => x.reg sa &&& toW imm)
/-- ORI (R120). -/
def execOri (sd sa imm : Nat) (s : State) : Host.Outcome State Fault Refusal :=
  issueReg (.ori sd sa imm) s sd (fun x => x.reg sa ||| toW imm)
/-- XORI (R120). -/
def execXori (sd sa imm : Nat) (s : State) : Host.Outcome State Fault Refusal :=
  issueReg (.xori sd sa imm) s sd (fun x => x.reg sa ^^^ toW imm)
/-- SHLI (R120). -/
def execShli (sd sa imm : Nat) (s : State) : Host.Outcome State Fault Refusal :=
  issueReg (.shli sd sa imm) s sd (fun x => shlWord (x.reg sa) imm)
/-- SHRI (R120). -/
def execShri (sd sa imm : Nat) (s : State) : Host.Outcome State Fault Refusal :=
  issueReg (.shri sd sa imm) s sd (fun x => shrWord (x.reg sa) imm)
/-- SRAI (R120). -/
def execSrai (sd sa imm : Nat) (s : State) : Host.Outcome State Fault Refusal :=
  issueReg (.srai sd sa imm) s sd (fun x => sraWord (x.reg sa) imm)
/-- LDI (R120). -/
def execLdi (sd : Nat) (imm : Int) (s : State) : Host.Outcome State Fault Refusal :=
  issueReg (.ldi sd imm) s sd (fun _ => BitVec.ofInt 64 imm)
/-- LDIH (R120). -/
def execLdih (sd imm : Nat) (s : State) : Host.Outcome State Fault Refusal :=
  issueReg (.ldih sd imm) s sd (fun x => ldihWord (x.reg sd) imm)

/-! ### Conditions (R121 to R123) -/

/-- CMP (R121). -/
def execCmp (kd sa sb : Nat) (cond : Cond) (s : State) : Host.Outcome State Fault Refusal :=
  issueCond (.cmp kd sa sb cond) s kd (fun x => cond.holds 64 (x.reg sa).toNat (x.reg sb).toNat)
/-- CMPI (R121). -/
def execCmpi (kd sa : Nat) (cond : Cond) (imm : Int) (s : State) : Host.Outcome State Fault Refusal :=
  issueCond (.cmpi kd sa cond imm) s kd (fun x => cond.holds 64 (x.reg sa).toNat (BitVec.ofInt 64 imm).toNat)
/-- KAND (R122). -/
def execKand (kd ka kb : Nat) (s : State) : Host.Outcome State Fault Refusal :=
  issueCond (.kand kd ka kb) s kd (fun x => x.k ka && x.k kb)
/-- KOR (R122). -/
def execKor (kd ka kb : Nat) (s : State) : Host.Outcome State Fault Refusal :=
  issueCond (.kor kd ka kb) s kd (fun x => x.k ka || x.k kb)
/-- KXOR (R122). -/
def execKxor (kd ka kb : Nat) (s : State) : Host.Outcome State Fault Refusal :=
  issueCond (.kxor kd ka kb) s kd (fun x => x.k ka != x.k kb)
/-- KNOT (R122). -/
def execKnot (kd ka : Nat) (s : State) : Host.Outcome State Fault Refusal := issueCond (.knot kd ka) s kd (fun x => !x.k ka)

/-- A command that an instruction waits for belongs to the current segment of an active LOOPP (rule 4 of R132). -/
def inSegment (x : Ctx) (c : Cmd) : Bool := x.pipe.any (fun p => c.inPipe && c.seg == p.iter)

/-- A test of a predicate, once every VA command of the slot that writes it has completed (R123, R132). -/
def issuePred (i : Instr) (s : State) (kd p : Nat) (f : Pred → Bool) : Host.Outcome State Fault Refusal :=
  issueWith i s (fun sl =>
    let busy := (s.slotCmds s.curCore s.curSlot).filter (fun c => c.eng == .va && !c.marker && c.instr.predOut.contains p)
    if p = 0 ∨ busy = [] then
      .done (s.setSlot s.curCore s.curSlot { sl with ctx := sl.ctx.setK kd (f (sl.ctx.pred p)) })
    else if busy.any (inSegment sl.ctx) then .fault (ctlFault 0x0F sl)
    else .stall s)

/-- VANY (R123). -/
def execVany (kd p : Nat) (s : State) : Host.Outcome State Fault Refusal := issuePred (.vany kd p) s kd p (fun v => v != 0)
/-- VALL (R123). -/
def execVall (kd p : Nat) (s : State) : Host.Outcome State Fault Refusal :=
  issuePred (.vall kd p) s kd p (fun v => v == BitVec.allOnes 128)

/-! ### Special registers (R111, R115) -/

/-- MFS (R111, R115). -/
def execMfs (sd spec : Nat) (s : State) : Host.Outcome State Fault Refusal :=
  issueWith (.mfs sd spec) s (fun sl =>
    match sregGate s.curCore sl spec false with
    | some code => .fault (ctlFault code sl)
    | none =>
      let (v, t) := if s.curCore = fontanier ∧ (spec = 0x004 ∨ spec = 0x005) then s.takeFree else (0, s)
      .done (t.setSlot s.curCore s.curSlot (sl.writeReg sd (s.sregValue s.curCore s.curSlot sl v spec))))

/-- MTS (R11 to R13, R111, R115). -/
def execMts (sa spec : Nat) (s : State) : Host.Outcome State Fault Refusal :=
  issueWith (.mts sa spec) s (fun sl =>
    match sregGate s.curCore sl spec true, sreg? spec with
    | some code, _ => .fault (ctlFault code sl)
    | none, none => .fault (ctlFault 0x02 sl)
    | none, some r =>
      let v := (sl.ctx.reg sa).toNat
      if Nat.land v (allBits - Nat.lor r.rw r.ro) ≠ 0 then .fault (ctlFault 0x02 sl)
      else
        match s.sregRefuse s.curCore sl spec (Nat.land v r.rw) with
        | some code => .fault (ctlFault code sl)
        | none => .done (s.sregWrite s.curCore s.curSlot sl spec (toW (Nat.land v r.rw))))

/-! ### Transfers of control (R124 to R127, R130, R132) -/

/-- PREP (R124). -/
def execPrep (bd : Nat) (disp : Int) (s : State) : Host.Outcome State Fault Refusal :=
  issueCtx (.prep bd disp) s (fun x => x.setBt bd (((x.pc : Int) + 8 * disp) % 2 ^ 48).toNat)
/-- PREPR (R124). -/
def execPrepr (bd sa : Nat) (s : State) : Host.Outcome State Fault Refusal :=
  issueCtx (.prepr bd sa) s (fun x => x.setBt bd (bits (x.reg sa) 47 0))

/-- Rule 5 of R132: a target outside the span of an active LOOPP, from the LOOPP through its last epilogue word. -/
def outOfSpan (x : Ctx) (target : Nat) : Bool := x.pipe.any (fun p => decide (target < p.off) || decide (p.endWord ≤ target))

/-- A transfer with two delay slots that issue (R125, R126): the slot after it, with a transfer to `target` pending. -/
def Slot.transfer (sl : Slot) (target : Nat) : Slot := { sl with ctx := { sl.ctx with delay := some ⟨target, 2⟩ } }

/-- BR, BRA, CALL and RET (R125): `link` writes s63 and `annul` skips the delay slots when the condition is 0. -/
def issueTransfer (i : Instr) (s : State) (k : Nat) (target : Ctx → Nat) (link annul : Bool) :
    Host.Outcome State Fault Refusal :=
  issueWith i s (fun sl =>
    let x := sl.ctx
    let put := fun (v : Slot) => s.setSlot s.curCore s.curSlot v
    if x.k k then
      if outOfSpan x (target x) then .fault (ctlFault 0x0F sl)
      else
        let sl := if link then sl.writeReg 63 (toW (x.pc + 24)) else sl
        .jump (put (sl.transfer (target x))) (x.pc + 8)
    else if annul then .jump s (x.pc + 24)
    else .jump (put (sl.transfer (x.pc + 24))) (x.pc + 8))

/-- BR (R125). -/
def execBr (bd k : Nat) (s : State) : Host.Outcome State Fault Refusal :=
  issueTransfer (.br bd k) s k (fun x => x.btv bd) false false
/-- BRA (R125). -/
def execBra (bd k : Nat) (s : State) : Host.Outcome State Fault Refusal :=
  issueTransfer (.bra bd k) s k (fun x => x.btv bd) false true
/-- CALL (R125). -/
def execCall (bd k : Nat) (s : State) : Host.Outcome State Fault Refusal :=
  issueTransfer (.call bd k) s k (fun x => x.btv bd) true false
/-- RET (R125). -/
def execRet (k : Nat) (s : State) : Host.Outcome State Fault Refusal :=
  issueTransfer (.ret k) s k (fun x => bits (x.reg 63) 47 0) false false

/-! ### Loops (R128 to R135) -/

/-- The trip count of LOOP and LOOPP: a register, or the literal when it is s0 (R61, R128). -/
def tripCount (x : Ctx) (sa count : Nat) : Nat := if sa = 0 then count else (x.reg sa).toNat

/-- The loops and the LOOPP that use another counter than `lc`. -/
def Ctx.dropCounter (x : Ctx) (lc : Nat) : Ctx :=
  { x with loops := x.loops.filter (fun l => l.lc != lc), pipe := x.pipe.filter (fun p => p.lc != lc) }

/-- LOOP (R128): a counter already active is replaced, and its loop is last in the order of starts. -/
def execLoop (lc sa body count : Nat) (s : State) : Host.Outcome State Fault Refusal :=
  issueWith (.loop lc sa body count) s (fun sl =>
    let x := sl.ctx
    let n := tripCount x sa count
    let stop := x.pc + 8 * body
    let put := fun (y : Ctx) => s.setSlot s.curCore s.curSlot { sl with ctx := y }
    if n = 0 then .jump (put (x.setLc lc 0)) (stop + 8)
    else
      let y := (x.dropCounter lc).setLc lc (toW n)
      .done (put { y with loops := { lc := lc, start := x.pc + 8, stop := stop, pipe := false, ord := sl.seq } :: y.loops }))

/-- The commands of a slot leave the LOOPP in which they were pushed: it is over. -/
def State.unpipe (s : State) (c k : Nat) : State :=
  s.setCore c { s.core c with cmds := (s.core c).cmds.map (fun m => if m.slot = k then { m with inPipe := false } else m) }

/-- LOOPP (R131, R134, R135). After a forced loop epilogue it runs the passes that were removed; where none was, control continues
after the epilogue, and the loops that end at its last word go back as they would have there (R129; log entry 81). -/
def execLoopp (lc depth sa p k count e : Nat) (s : State) : Host.Outcome State Fault Refusal :=
  issueWith (.loopp lc depth sa p k count e) s (fun sl =>
    let x := sl.ctx
    let last := if e = 0 then x.pc + 8 + 8 * (p + k) else x.pc + 8 * (p + k + e)
    if x.pipe.isSome then .fault (ctlFault 0x0F sl)
    else if last < sl.codeCap.lo ∨ sl.codeCap.hi < last + 8 then .fault (ctlFault 0x06 sl)
    else
      let n := if x.remIter = 0 then tripCount x sa count else x.rem
      let y := { x with rem := 0, remIter := 0 }
      let put := fun (z : Ctx) => s.setSlot s.curCore s.curSlot { sl with ctx := z }
      let after := x.pc + 8 + 8 * (p + k + e)
      if n = 0 then
        let r := if x.remIter = 0 then (y, y.loops, none) else loopBack (after - 8) y.loops y []
        .jump (put { r.1 with loops := r.2.1 }) ((r.2.2.map (fun l => l.start)).getD after)
      else
        let q : Pipe := { lc := lc, depth := depth + 1, off := x.pc, p := p, k := k, e := e, seg := .prologue, iter := x.remIter,
                          pushes := [0, 0, 0, 0, 0], ord := sl.seq }
        let y := (y.dropCounter lc).setLc lc (toW n)
        let l : LoopRec := { lc := lc, start := q.kernel, stop := q.kernelEnd, pipe := true, ord := sl.seq }
        .done ((put { y with loops := l :: y.loops, pipe := some q }).unpipe s.curCore s.curSlot))

/-- The place of the active loop on a counter in the order of starts, and the word after it; none when it is inactive. -/
def Ctx.loopOn (x : Ctx) (lc : Nat) : Option (Nat × Nat) :=
  match x.pipe.filter (fun p => p.lc == lc) with
  | some p => some (p.ord, p.endWord)
  | none => (x.loops.find? (fun l => l.lc == lc)).map (fun l => (l.ord, l.stop + 8))

/-- The loops started before a place in the order. -/
def Ctx.startedBefore (x : Ctx) (ord : Nat) : Ctx :=
  { x with loops := x.loops.filter (fun l => decide (l.ord < ord)), pipe := x.pipe.filter (fun p => decide (p.ord < ord)) }

/-- The segment of a LOOPP is broken (R133): its commands are discarded, the balances and claims are zero, and the queues
are emptied once the commands before the BRK have completed. -/
def State.breakSegment (s : State) (c k : Nat) (tag : Nat) : State :=
  let s := s.setCore c { s.core c with cmds := (s.core c).cmds.filter (fun m => !(m.slot == k && m.inPipe && !m.preMark && m.seg == tag)) }
  (s.unpipe c k).modSlot c k (fun sl =>
    { sl with breaks := sl.breaks ++ [sl.seq], ctx := { sl.ctx with bal := [], unclaimed := [], rem := 0, remIter := 0 } })

/-- BRK (R133). A LOOP that was started before an active LOOPP takes the LOOPP with it, and the current segment of that LOOPP is
then broken as by a BRK on it: the rule does not say so, and its commands could otherwise never be released (log entry 82,
DESIGN CHOICE). -/
def execBrk (lc k : Nat) (s : State) : Host.Outcome State Fault Refusal :=
  issueWith (.brk lc k) s (fun sl =>
    let x := sl.ctx
    if x.k k then
      match x.loopOn lc with
      | none => .fault (ctlFault 0x0F sl)
      | some (ord, next) =>
        let y := x.startedBefore ord
        let t := s.setSlot s.curCore s.curSlot { sl with ctx := y }
        match x.pipe with
        | some p =>
          if y.pipe.isNone then .jump ((t.breakSegment s.curCore s.curSlot p.iter).settle s.curCore s.curSlot) next
          else .jump t next
        | none => .jump t next
    else .done s)

end Sys2Proof.Machine
end

