-- ==== Sys2Proof/Machine/Memory.lean ====
section
/-! DEFINITION. Memory-access instructions (R136 to R171): scalar loads and stores, atomics, capabilities and descriptors,
PREF and HINT, and the events that perform an outstanding P0 access. -/

namespace Sys2Proof

/-- The bytes of a Size. -/
def Size.bytes (z : Size) : Nat := 2 ^ z.code

end Sys2Proof

namespace Sys2Proof.Machine

/-! ### Issuing a P0 access -/

/-- What an access carries beside its target: the operation, its size and ordering fields, the offset and object id for a
fault, the coordinates and the tensor tile of a descriptor access, and its capability's key and lease token. -/
structure AccArgs where
  op    : P0Op
  size  : Nat
  cls   : Nat
  ord   : Ord2
  scope : Nat
  off   : Nat
  evict : Nat := 0
  cap   : Cap := {}
  coord : Option Coord := none
  tile  : Option (Nat × Nat) := none
  /-- The instruction that makes it. -/
  instr : Instr := .nop

/-- The fault of an access at its issue. -/
def AccArgs.fault (a : AccArgs) (f : FaultRec) : FaultRec :=
  match a.coord with
  | some x => { f with x0 := x.x0, xhi := x.high }
  | none => f

/-- The accesses of the store buffer (R156). -/
def Slot.posted (sl : Slot) : List P0Acc := sl.p0.filter (fun a => a.op.target.isNone)

/-- An access is served at a home L2 slice: a write, or an acquire load (R155, R182). -/
def AccArgs.atHome (a : AccArgs) : Bool := a.op.writes || Ord2.acquires a.ord

/-- The access as it joins the slot's outstanding accesses at its target, not sent yet. -/
def State.newAcc (s : State) (sl : Slot) (t : Target) (a : AccArgs) : P0Acc :=
  { seq := sl.seq, op := a.op, addr := t.addr, aper := t.aper, size := a.size, cls := a.cls, ord := a.ord, scope := a.scope,
    off := a.off, oid := a.cap.oid, key := leafKey t.leaf, token := if a.op.writes then capToken s sl.part a.cap else none,
    lname := (s.part sl.part).lease.name, peer := leafPeer t.leaf, lcls := leafLcls t.leaf, first := s.tick, gpa := t.gpa,
    leaf := t.leafAt, word := encode a.instr, pc := sl.ctx.pc, evict := a.evict, x0 := (a.coord.map (fun x => x.x0)).getD 0,
    xhi := (a.coord.map (fun x => x.high)).getD 0, cap := a.cap, till := t.till, tile := a.tile }

/-- The slot with one more outstanding access, whose result takes the place of one still on its way to the same register (R109). -/
def Slot.pushed (sl : Slot) (a : P0Acc) : Slot :=
  let sl := match a.op.target with
    | some n => sl.claimReg n
    | none => sl
  { sl with p0 := sl.p0 ++ [a] }

/-- What an access that has passed its checks meets at its issue, a closed gate or no route (R24, R364). -/
def State.accStop (s : State) (sl : Slot) (t : Target) (a : AccArgs) : Option FaultRec :=
  let gate := if a.atHome then s.gateStop s.curCore sl.part t a.scope else none
  let way := (s.accRoute sl.part t a.size a.scope a.op.writes).bind (fun q => q.stop t.gpa t.leafAt)
  ((gate.filter (fun f => f.hold.isNone)).or (way.filter (fun f => f.hold.isNone))).map (fun f => a.fault (accFault f a.off a.cap.oid a.op.writes))

/-- An access that nothing before it holds back makes its request at once, where it needs one (R364). -/
def State.sendNew (s : State) (sl : Slot) (a : P0Acc) : State :=
  let c := s.curCore
  let k := s.curSlot
  if p0Free sl (s.slotCmds c k) a.seq a.cls a.ord && s.p0Needs sl.part a then s.sendP0 c k sl.part a else s

/-- An access that has passed its checks joins the slot's outstanding accesses, sent or held where it needs a route (R156,
R158, R161, R364). -/
def State.pushAcc (s : State) (sl : Slot) (t : Target) (a : AccArgs) : Body :=
  match s.accStop sl t a with
  | some f => .fault f
  | none =>
    if a.op.target.isNone ∧ 16 ≤ sl.posted.length then .stall s
    else
      let acc := s.newAcc sl t a
      .done (((s.keepNotes s.curCore sl.part t.notes).setSlot s.curCore s.curSlot (sl.pushed acc)).sendNew sl acc)

/-- A scalar access or an atomic through a capability (R141 to R144). -/
def State.objectAcc (s : State) (sl : Slot) (kind : AccKind) (a : AccArgs) : Body :=
  match objAccess s s.curCore sl.part a.cap a.off a.size a.size kind with
  | .error f => .fault (a.fault f)
  | .ok t => s.pushAcc sl t a

/-- A scalar access or an atomic in the scratchpad window, whose low address bits are ignored (R145, R153). -/
def State.windowAcc (s : State) (sl : Slot) (a : AccArgs) : Body :=
  let base := a.off - a.off % a.size
  if sl.winSize < base + a.size then .fault { code := 0x06, addr := a.off, wr := a.op.writes }
  else s.pushAcc sl { aper := .spad, addr := sl.winBase + base } { a with scope := min a.scope 1 }

/-- The offset of a scalar access: trunc(a + sext(imm20), 64) (R141). -/
def dispOff (a : Word) (imm : Int) : Nat := (a + BitVec.ofInt 64 imm).toNat

/-- An element access through a descriptor (R148, R149, R151, R157, R159). -/
def State.elementAcc (s : State) (sl : Slot) (kind : AccKind) (d : Nat) (e : Nat) (a : AccArgs) : Body :=
  let x := sl.ctx
  let desc := x.desc d
  let cap := x.descCap desc
  let none_ := fun code => Body.fault { code := code, addr := x.pc, oid := cap.oid }
  match desc.refused cap with
  | some code => none_ code
  | none =>
    let co := elemCoord desc e
    let a := { a with cap := cap, coord := some co }
    if desc.elems ≤ e then .fault (a.fault { code := 0x06, addr := x.pc, oid := cap.oid })
    else if a.size ≠ desc.bytesPer then .fault (a.fault { code := 0x05, addr := x.pc, oid := cap.oid })
    else
      let off := desc.offset (bytePos desc co)
      s.objectAcc sl kind { a with off := off, tile := some (desc.handle, off / 65536 - desc.base) }

/-! ### Scalar loads and stores (R157 to R159) -/

/-- LDS. -/
def execLds (sd c sa : Nat) (o : AccOrd) (size : Size) (imm : Int) (s : State) : Host.Outcome State Fault Refusal :=
  issueWith (.lds sd c sa o size imm) s (fun sl =>
    s.objectAcc sl kLoad { instr := .lds sd c sa o size imm,
                           op := .load sd, size := size.bytes, cls := o.cls, ord := o.ord, scope := o.scope, evict := o.evict,
                           off := dispOff (sl.ctx.reg sa) imm, cap := sl.ctx.cap c })

/-- STS. -/
def execSts (sd c sa : Nat) (o : AccOrd) (size : Size) (imm : Int) (s : State) : Host.Outcome State Fault Refusal :=
  issueWith (.sts sd c sa o size imm) s (fun sl =>
    s.objectAcc sl kStore { instr := .sts sd c sa o size imm,
                            op := .store ((sl.ctx.reg sd).toNat % 2 ^ (8 * size.bytes)), size := size.bytes, cls := o.cls,
                            ord := o.ord, scope := o.scope, evict := o.evict, off := dispOff (sl.ctx.reg sa) imm, cap := sl.ctx.cap c })

/-- LDP. -/
def execLdp (sd sa : Nat) (o : AccOrd) (imm : Int) (s : State) : Host.Outcome State Fault Refusal :=
  issueWith (.ldp sd sa o imm) s (fun sl =>
    s.windowAcc sl { instr := .ldp sd sa o imm,
                     op := .load sd, size := 8, cls := o.cls, ord := o.ord, scope := o.scope, evict := o.evict,
                      off := dispOff (sl.ctx.reg sa) imm })

/-- STP. -/
def execStp (sd sa : Nat) (o : AccOrd) (imm : Int) (s : State) : Host.Outcome State Fault Refusal :=
  issueWith (.stp sd sa o imm) s (fun sl =>
    s.windowAcc sl { instr := .stp sd sa o imm,
                     op := .store (sl.ctx.reg sd).toNat, size := 8, cls := o.cls, ord := o.ord, scope := o.scope,
                     off := dispOff (sl.ctx.reg sa) imm })

/-- LDE. -/
def execLde (sd d sa : Nat) (o : AccOrd) (size : Size) (imm : Int) (s : State) : Host.Outcome State Fault Refusal :=
  issueWith (.lde sd d sa o size imm) s (fun sl =>
    s.elementAcc sl kLoad d (dispOff (sl.ctx.reg sa) imm)
      { instr := .lde sd d sa o size imm,
        op := .load sd, size := size.bytes, cls := o.cls, ord := o.ord, scope := o.scope, evict := o.evict, off := 0 })

/-- STE. -/
def execSte (sd d sa : Nat) (o : AccOrd) (size : Size) (imm : Int) (s : State) : Host.Outcome State Fault Refusal :=
  issueWith (.ste sd d sa o size imm) s (fun sl =>
    s.elementAcc sl kStore d (dispOff (sl.ctx.reg sa) imm)
      { instr := .ste sd d sa o size imm,
        op := .store ((sl.ctx.reg sd).toNat % 2 ^ (8 * size.bytes)), size := size.bytes, cls := o.cls, ord := o.ord,
        scope := o.scope, evict := o.evict, off := 0 })

/-! ### Atomics (R160 to R162) -/

/-- The low bytes of a register as an operand. -/
def lowBytes (w : Word) (z : Nat) : Nat := w.toNat % 2 ^ (8 * z)

/-- An atomic in its space. -/
def State.atomic (s : State) (sl : Slot) (space : ASpace) (kind : AccKind) (a : AccArgs) : Body :=
  match space with
  | .object => s.objectAcc sl kind a
  | .spad => s.windowAcc sl a

/-- ATOM. -/
def execAtom (c sa : Nat) (o : AccOrd) (op : Aop) (size : Size) (space : ASpace) (sb : Nat) (s : State) :
    Host.Outcome State Fault Refusal :=
  issueWith (.atom c sa o op size space sb) s (fun sl =>
    let x := sl.ctx
    s.atomic sl space kAtom { instr := .atom c sa o op size space sb,
                              op := .rmw op (lowBytes (x.reg sb) size.bytes) none, size := size.bytes, cls := o.cls,
                              ord := o.ord, scope := o.scope, evict := o.evict, off := (x.reg sa).toNat, cap := x.cap c })

/-- ATOMF. -/
def execAtomf (sd c sa : Nat) (o : AccOrd) (op : Aop) (size : Size) (space : ASpace) (sb : Nat) (s : State) :
    Host.Outcome State Fault Refusal :=
  issueWith (.atomf sd c sa o op size space sb) s (fun sl =>
    let x := sl.ctx
    s.atomic sl space kAtomf { instr := .atomf sd c sa o op size space sb,
                               op := .rmw op (lowBytes (x.reg sb) size.bytes) (some sd), size := size.bytes, cls := o.cls,
                               ord := o.ord, scope := o.scope, evict := o.evict, off := (x.reg sa).toNat, cap := x.cap c })

/-- ACAS. -/
def execAcas (sd c sa : Nat) (o : AccOrd) (size : Size) (space : ASpace) (sb sc : Nat) (s : State) :
    Host.Outcome State Fault Refusal :=
  issueWith (.acas sd c sa o size space sb sc) s (fun sl =>
    let x := sl.ctx
    s.atomic sl space kAtomf
      { instr := .acas sd c sa o size space sb sc,
        op := .cas (lowBytes (x.reg sb) size.bytes) (lowBytes (x.reg sc) size.bytes) (some sd), size := size.bytes,
        cls := o.cls, ord := o.ord, scope := o.scope, evict := o.evict, off := (x.reg sa).toNat, cap := x.cap c })

/-! ### Capabilities (R163 to R166) -/

/-- The fault of CAPSEL for an entry that was read (R163). -/
def capselRefuse (c : Cap) (user : Bool) : Option Nat :=
  if !c.valid then some 0x07 else if c.sbit && user then some 0x10 else if !c.formed then some 0x02 else none

/-- CAPSEL: the table is read on P0 with acquire at partition scope, while the slot stalls (R140, R163). -/
def execCapsel (cd sa imm : Nat) (s : State) : Host.Outcome State Fault Refusal :=
  issueWith (.capsel cd sa imm) s (fun sl =>
    let c := s.curCore
    let i := ((sl.ctx.reg sa).toNat + imm) % 2 ^ 32
    if !p0Free sl (s.slotCmds c s.curSlot) sl.seq 0 .acq then .stall s
    else if bits (s.part sl.part).captn 16 0 ≤ i then .fault (ctlFault 0x06 sl)
    else
      match s.gread c sl.part 2 (bits (s.part sl.part).captb 47 12 * 4096 + 32 * i) 32 with
      | .error f => .fault { f with addr := sl.ctx.pc }
      | .ok (b, ns) =>
        match capselRefuse (Cap.ofBytes b) (slotLevel c sl == .u) with
        | some code => .fault (ctlFault code sl)
        | none => .done ((s.keepNotes c sl.part ns).setSlot c s.curSlot { sl with ctx := sl.ctx.setCap cd (Cap.ofBytes b) }))

/-- CAPNAR's result (R164). -/
def narrow (c : Cap) (b : Word) (form : NarForm) : Except Nat Cap :=
  if !c.valid then .error 0x07
  else
    match form with
    | .rights => .ok { c with w0 := c.w0 &&& (toW (2 ^ 64 - 1 - 15 * 2 ^ 58) ||| toW (bits b 3 0 * 2 ^ 58)) }
    | .lo => if c.lo ≤ b.toNat ∧ b.toNat ≤ c.hi then .ok { c with w1 := b } else .error 0x06
    | .hi => if c.lo ≤ b.toNat ∧ b.toNat ≤ c.hi then .ok { c with w2 := b } else .error 0x06

/-- CAPNAR (R164). -/
def execCapnar (cd ca sb : Nat) (form : NarForm) (s : State) : Host.Outcome State Fault Refusal :=
  issueWith (.capnar cd ca sb form) s (fun sl =>
    match narrow (sl.ctx.cap ca) (sl.ctx.reg sb) form with
    | .error code => .fault (ctlFault code sl)
    | .ok v => .done (s.setSlot s.curCore s.curSlot { sl with ctx := sl.ctx.setCap cd v }))

/-- The field that CAPINF returns (R165). -/
def Cap.item (c : Cap) (i : CapItem) : Word :=
  match i with
  | .oid => toW c.oid
  | .lo => toW c.lo
  | .hi => toW c.hi
  | .attr => toW (bits c.w0 63 52)
  | .ttp => toW c.ttp

/-- CAPINF (R165). -/
def execCapinf (sd ca : Nat) (item : CapItem) (s : State) : Host.Outcome State Fault Refusal :=
  issueReg (.capinf sd ca item) s sd (fun x => (x.cap ca).item item)

/-- CAPCLR (R166). -/
def execCapclr (cd : Nat) (s : State) : Host.Outcome State Fault Refusal := issueCtx (.capclr cd) s (fun x => x.setCap cd {})

/-! ### Descriptors (R167, R168) -/

/-- TDSET: the descriptor with a field written from `a`, or none where it raises 0x02 (R167). -/
def Desc.set (d : Desc) (feat : Nat → Bool) (f : TdField) (a : Word) : Option Desc :=
  let n := a.toNat
  let ok := fun (b : Bool) (v : Desc) => if b then some v else none
  let ext := fun (b : Bool) (v : Desc) => ok (decide (n < 2 ^ 32) && decide (n ≠ 0) && b) v
  match f with
  | .handle => ok (decide (n < 2 ^ 16)) { d with w0 := setBits d.w0 15 0 n }
  | .fmt => ok (decide (n < 64) && tagLegal feat (n % 32) (n.testBit 5)) { d with w0 := setBits d.w0 21 16 n }
  | .layout => ok (decide (n < 5)) { d with w0 := setBits d.w0 26 24 n }
  | .rank => ok (decide (1 ≤ n) && decide (n ≤ 4)) { d with w0 := setBits d.w0 28 27 (n - 1) }
  | .e0 => ext true { d with w1 := setBits d.w1 31 0 n }
  | .e1 => ext true { d with w1 := setBits d.w1 63 32 n }
  | .e2 => ext true { d with w2 := setBits d.w2 31 0 n }
  | .e3 => ext true { d with w2 := setBits d.w2 63 32 n }
  | .base => ok (decide (n < 2 ^ 40)) { d with w3 := a }
  | .w0 =>
    ok (nbits n 23 22 == 0 && decide (nbits n 26 24 < 5) && tagLegal feat (nbits n 20 16) (n.testBit 21))
      { d with w0 := setBits (setBits d.w0 21 0 n) 28 24 (nbits n 28 24) }
  | .w1 => ok (nbits n 31 0 != 0 && nbits n 63 32 != 0) { d with w1 := a }
  | .w2 => ok (nbits n 31 0 != 0 && nbits n 63 32 != 0) { d with w2 := a }
  | .ttp => none

/-- TDSET (R167). -/
def execTdset (dd sa : Nat) (f : TdField) (s : State) : Host.Outcome State Fault Refusal :=
  issueWith (.tdset dd sa f) s (fun sl =>
    match (sl.ctx.desc dd).set s.feature f (sl.ctx.reg sa) with
    | none => .fault (ctlFault 0x02 sl)
    | some v => .done (s.setSlot s.curCore s.curSlot { sl with ctx := sl.ctx.setDesc dd v }))

/-- What TDGET returns (R167). -/
def Desc.get (d : Desc) (f : TdField) : Word :=
  match f with
  | .handle => toW d.handle
  | .fmt => toW (bits d.w0 21 16)
  | .layout => toW d.layout
  | .rank => toW d.rank
  | .e0 => toW (d.rawExt 0)
  | .e1 => toW (d.rawExt 1)
  | .e2 => toW (d.rawExt 2)
  | .e3 => toW (d.rawExt 3)
  | .base => toW d.base
  | .w0 => d.w0
  | .w1 => d.w1
  | .w2 => d.w2
  | .ttp => toW d.ttp

/-- TDGET (R167). -/
def execTdget (sd da : Nat) (f : TdField) (s : State) : Host.Outcome State Fault Refusal :=
  issueReg (.tdget sd da f) s sd (fun x => (x.desc da).get f)

/-- The descriptor bound to a capability (R168). -/
def Desc.bind (d : Desc) (ca : Nat) (c : Cap) : Desc :=
  { d with w0 := setBits (setBits d.w0 63 63 1) 35 32 ca, w4 := setBits d.w4 47 6 (bits c.w3 47 6) }

/-- TDCAP (R168). -/
def execTdcap (dd ca : Nat) (s : State) : Host.Outcome State Fault Refusal :=
  issueWith (.tdcap dd ca) s (fun sl =>
    let c := sl.ctx.cap ca
    if !c.valid then .fault (ctlFault 0x07 sl)
    else .done (s.setSlot s.curCore s.curSlot { sl with ctx := sl.ctx.setDesc dd ((sl.ctx.desc dd).bind ca c) }))

/-! ### Hints (R169, R170) -/

/-- PREF: it runs in VL (R71). -/
def execPref (d sa sb cls scope evict rep : Nat) (s : State) : Host.Outcome State Fault Refusal :=
  issueEngine (.pref d sa sb cls scope evict rep) .vl s

/-- HINT: it runs in VL (R71). -/
def execHint (d sa sb rep : Nat) (cls : Retain) (s : State) : Host.Outcome State Fault Refusal :=
  issueEngine (.hint d sa sb rep cls) .vl s

/-! ### Outstanding accesses are performed -/

/-- An event of a slot: `f` answers the new state, or none while the event is not due. -/
def slotEvent (s : State) (c k : Nat) (f : Slot → Option State) : Host.Outcome State Fault Refusal :=
  if 64 < c ∨ 3 < k then .fault .noUnit
  else
    match s.slot? c k with
    | none => .next s
    | some sl =>
      match f sl with
      | some t => .next t
      | none => .next s

/-- An outstanding access whose turn it is makes its request, or is performed. -/
def State.finishAcc (s : State) (c k : Nat) (sl : Slot) (a : P0Acc) : State := (s.stepP0 c k sl a).settle c k

/-- An access of a slot that may go on now. -/
def accDue (s : State) (c k : Nat) (sl : Slot) (idx : Nat) (returns : Bool) : Option P0Acc :=
  match sl.p0[idx]? with
  | some a => if a.op.returns == returns && sl.saving.isNone && s.accFree c k sl a then some a else none
  | none => none

/-- LOAD_DATA_RETURN: the data of a load, or the old value of an atomic, arrives (R158, R161). -/
def execLoadDataReturn (core slot idx : Nat) (s : State) : Host.Outcome State Fault Refusal :=
  slotEvent s core slot (fun sl => (accDue s core slot sl idx true).map (s.finishAcc core slot sl))

/-- POSTED_ACCESS_ACK: a posted access has been performed (R156). -/
def execPostedAccessAck (core slot idx : Nat) (s : State) : Host.Outcome State Fault Refusal :=
  slotEvent s core slot (fun sl => (accDue s core slot sl idx false).map (s.finishAcc core slot sl))

end Sys2Proof.Machine
end

