-- ==== Sys2Proof/Machine/Ordering.lean ====
section
/-! DEFINITION. Fences, markers, waits and sluices (R188 to R197), with their events. -/

namespace Sys2Proof.Machine

/-! ### FENCE, FENCEM, JOINM, WAITC (R188 to R192) -/

/-- FENCE: the slot goes on; at most 8 FENCEs are unsatisfied (R188, R189). -/
def execFence (paths scope classes : Nat) (s : State) : Host.Outcome State Fault Refusal :=
  issueWith (.fence paths scope classes) s (fun sl =>
    let c := s.curCore
    let k := s.curSlot
    let s := s.dropFences c k
    match s.slot? c k with
    | none => .stall s
    | some x =>
      if 8 ≤ x.fences.length then .stall s
      else
        let f : FenceRec := { seq := sl.seq, paths := paths, scope := scope, classes := classes,
                              word := encode (.fence paths scope classes) }
        .done ((s.setSlot c k { x with fences := x.fences ++ [f] }).dropFences c k))

/-- The engines of a mask, bit 0 VL, 1 VA, 2 VS, 3 MX, 4 XF (R190). -/
def maskEngines (m : Nat) : List Eng :=
  ([(0, Eng.vl), (1, .va), (2, .vs), (3, .mx), (4, .xf)].filter (fun p => m.testBit p.1)).map (fun p => p.2)

/-- A marker that FENCEM pushes (R190). -/
def fenceMarker (x : Ctx) (k seq : Nat) (e : Eng) : Cmd :=
  { eng := e, slot := k, seq := seq, instr := .nop, marker := true, seg := (x.pipe.map (fun p => p.iter)).getD 0,
    inPipe := x.pipe.isSome }

/-- FENCEM (R190): every named queue accepts the push, or none takes a marker. -/
def execFencem (engines : Nat) (s : State) : Host.Outcome State Fault Refusal :=
  issueWith (.fencem engines) s (fun sl =>
    let es := maskEngines engines
    if es.any (segmentFull sl.ctx) then .fault (ctlFault 0x0F sl)
    else if !es.all (s.pushOk s.curCore s.curSlot) then .stall s
    else
      let t := es.foldl (fun t e => t.addCmd s.curCore (fenceMarker sl.ctx s.curSlot sl.seq e)) s
      .done (t.setSlot s.curCore s.curSlot { sl with ctx := es.foldl Ctx.countPush sl.ctx }))

/-- JOINM (R191). -/
def execJoinm (s : State) : Host.Outcome State Fault Refusal :=
  issueWith .joinm s (fun sl =>
    let ms := (s.slotCmds s.curCore s.curSlot).filter (fun c => c.marker && !c.preMark)
    if ms = [] then .done s
    else if ms.any (inSegment sl.ctx) then .fault (ctlFault 0x0F sl)
    else .stall s)

/-- The kind of work that WAITC counts a command as: 0 loads, 1 stores, 2 copies, 3 tile operations; none for a marker, PREF
and HINT (R192). -/
def waitKind (c : Cmd) : Option Nat :=
  if c.marker || isHintCmd c.instr then none
  else
    match c.eng with
    | .vl => some 0
    | .vs => some 1
    | .xf => some 2
    | .va => some 3
    | .mx => some 3

/-- The outstanding P0 accesses of a kind. -/
def waitP0 (sl : Slot) (kind : Nat) : Nat :=
  match kind with
  | 0 => sl.p0.countP (fun a => a.op.returns)
  | 1 => sl.p0.countP (fun a => !a.op.returns)
  | _ => 0

/-- WAITC (R192). -/
def execWaitc (loads stores copies tileops : Nat) (s : State) : Host.Outcome State Fault Refusal :=
  issueWith (.waitc loads stores copies tileops) s (fun sl =>
    let cmds := s.slotCmds s.curCore s.curSlot
    let bounds := [(0, loads), (1, stores), (2, copies), (3, tileops)]
    let ofKind := fun (k : Nat) (c : Cmd) => waitKind c == some k
    if bounds.any (fun b => decide (b.2 < cmds.countP (fun c => ofKind b.1 c && inSegment sl.ctx c))) then .fault (ctlFault 0x0F sl)
    else if bounds.all (fun b => decide (cmds.countP (ofKind b.1) + waitP0 sl b.1 ≤ b.2)) then .done s
    else .stall s)

/-- The first entry of a slot in an engine's queue, pre-emption markers among them. -/
def State.first? (s : State) (c k : Nat) (e : Eng) : Option Cmd :=
  (s.core c).cmds.find? (fun x => x.slot == k && x.eng == e)

/-- MARKER_RETIRE: a marker at the head of its queue retires (R190, R306). -/
def execMarkerRetire (core slot : Nat) (eng : Eng) (s : State) : Host.Outcome State Fault Refusal :=
  slotEvent s core slot (fun sl =>
    match s.first? core slot eng with
    | some m => if m.marker && sl.saving.isNone then some (s.completeCmd core m) else none
    | none => none)

/-! ### Reads that the control core waits for -/

/-- How a read that the slot waits for ends. -/
inductive ReadNow where
  | ok (s : State) (v : Nat)
  | stall (s : State)
  | fault (s : State) (f : FaultRec)

/-- How an access of many bytes that the slot waits for ends: with the bytes read, none for a write. -/
inductive BytesNow where
  | ok (s : State) (b : List Byte)
  | stall (s : State)
  | fault (s : State) (f : FaultRec)

/-- The value of the bytes read. -/
def BytesNow.value : BytesNow → ReadNow
  | .ok s b => .ok s (leNat b)
  | .stall s => .stall s
  | .fault s f => .fault s f

/-- An access for which the slot waits, as a piece at its target. -/
def nowPiece (t : Target) (n off oid : Nat) : Piece := { tgt := t, from_ := 0, len := n, off := off, oid := oid }

/-- What an access for which the slot of region `r` waits meets before its target: a gate, or a route that is not there, which it
waits for where it may come (R24, R364, R374). -/
def State.nowGate (s : State) (r p : Nat) (x : Piece) (scope : Nat) (write : Bool) : Option FaultRec :=
  ((s.gateStop r p x.tgt scope).map (x.mark write)).or (s.pieceStop p scope write x)

/-- The requests of such an access leave the package, one for each line it touches (R366). -/
def State.sendLines (s : State) (p : Nat) (t : Target) (n scope : Nat) (write : Bool) (token : Option Word) : State :=
  if s.needsRoute p t n scope write then
    (linesOf t.addr n).foldl (fun s _ => (s.sendReq p (leafKey t.leaf) write token).2) s
  else s

/-- The reading at its target of `n` bytes for which the slot waits, at a SCOPE with acquire (R182, R364). -/
def State.readBytesNow (s : State) (sl : Slot) (t : Target) (n scope off oid : Nat) (evict : Nat := 0) : BytesNow :=
  let c := s.curCore
  let x := nowPiece t n off oid
  let l := t.loc c sl.part
  match s.nowGate c sl.part x scope false with
  | some f => .fault s f
  | none =>
    let s := (s.sendLines sl.part t n scope false none).keepNotes c sl.part t.notes
    if s.locPoison l n scope then .fault (s.dropPoisoned l n scope) (x.fault 0x0E false)
    else .ok (s.afterRead l n scope { evict := evict }) (s.locBytes l n scope)

/-- Such a read of a value. -/
def State.readNow (s : State) (sl : Slot) (t : Target) (n scope off oid : Nat) (evict : Nat := 0) : ReadNow :=
  (s.readBytesNow sl t n scope off oid evict).value

/-- WAITA's read (R193). -/
def State.waitaRead (s : State) (sl : Slot) (c sa : Nat) (o : AccOrd) (size : Size) (space : ASpace) (imm : Int) : ReadNow :=
  let off := dispOff (sl.ctx.reg sa) imm
  let z := size.bytes
  match space with
  | .object =>
    match objAccess s s.curCore sl.part (sl.ctx.cap c) off z z kLoad with
    | .error f => .fault s f
    | .ok t => s.readNow sl t z o.scope off (sl.ctx.cap c).oid o.evict
  | .spad =>
    let base := off - off % z
    if sl.winSize < base + z then .fault s { code := 0x06, addr := off }
    else s.readNow sl { aper := .spad, addr := sl.winBase + base } z (min o.scope 1) off 0

/-- WAITA (R193). -/
def execWaita (sd c sa : Nat) (o : AccOrd) (size : Size) (space : ASpace) (imm : Int) (s : State) :
    Host.Outcome State Fault Refusal :=
  issueWith (.waita sd c sa o size space imm) s (fun sl =>
    if !p0Free sl (s.slotCmds s.curCore s.curSlot) sl.seq o.cls .acq then .stall s
    else
      match s.waitaRead sl c sa o size space imm with
      | .fault t f => .lost t f
      | .stall t => .stall t
      | .ok t v => if lowBytes (sl.ctx.reg sd) size.bytes ≤ v then .done t else .stall t)

/-- The word that a slot issues next is a WAITA. -/
def State.atWaita (s : State) (c : Nat) (sl : Slot) : Bool :=
  match s.fetch c sl with
  | .ok (w, _) => match decodeWord w with | some (.waita ..) => true | _ => false
  | .error _ => false

/-- WAITA_REPOLL: the test of a waiting WAITA is repeated when it next issues (R193). -/
def execWaitaRepoll (core slot : Nat) (s : State) : Host.Outcome State Fault Refusal :=
  slotEvent s core slot (fun sl =>
    if sl.stalled && s.atWaita core sl then some (s.setSlot core slot { sl with stalled := false }) else none)

/-! ### Sluices (R194 to R196) -/

/-- The tokens of a sluice, the head first. -/
def Core.tokens (co : Core) (n : Nat) : List Nat := mget [] co.sluices n

/-- Entries of a sluice that TOKPs have reserved. -/
def Core.reserved (co : Core) (n : Nat) : Nat :=
  (co.slots.map (fun ks => ks.2.tokps.countP (fun t => t.reserved && t.sluice == n))).sum

/-- An entry of a sluice is free (R195). -/
def Core.roomIn (co : Core) (n : Nat) : Bool := decide ((co.tokens n).length + co.reserved n < 32)

/-- The first request for an entry of a sluice. -/
def Core.firstReq (co : Core) (n : Nat) : Option SluiceReq := co.sluiceRq.find? (fun r => r.sluice == n)

/-- TOKP: it reserves an entry, in the order of the requests, or stalls (R195). A ninth whose token would be pending waits for the
oldest to enter (R301). -/
def execTokp (sluice sa : Nat) (s : State) : Host.Outcome State Fault Refusal :=
  issueWith (.tokp sluice sa) s (fun sl =>
    let c := s.curCore
    let k := s.curSlot
    let co := s.core c
    let me : SluiceReq := { sluice := sluice, slot := k, seq := sl.seq }
    let mine := match co.firstReq sluice with | some r => r == me | none => true
    if 8 ≤ sl.tokps.length then .stall s
    else if mine && co.roomIn sluice then
      let t : TokpRec := { seq := sl.seq, sluice := sluice, value := bits (sl.ctx.reg sa) 15 0, reserved := true,
                           word := encode (.tokp sluice sa) }
      .done (((s.setCore c { co with sluiceRq := co.sluiceRq.filter (fun r => r != me) }).setSlot c k
        { sl with tokps := sl.tokps ++ [t] }).markTokens c k)
    else if co.sluiceRq.contains me then .stall s
    else .stall (s.setCore c { co with sluiceRq := co.sluiceRq ++ [me] }))

/-- The head token of a sluice is removed. -/
def State.popToken (s : State) (c n : Nat) : State :=
  let co := s.core c
  s.setCore c { co with sluices := mput [] co.sluices n ((co.tokens n).drop 1) }

/-- TOKG (R196). -/
def execTokg (sd sluice : Nat) (s : State) : Host.Outcome State Fault Refusal :=
  issueWith (.tokg sd sluice) s (fun _ =>
    match (s.core s.curCore).tokens sluice with
    | [] => .stall s
    | v :: _ => .done ((s.popToken s.curCore sluice).writeReg s.curCore s.curSlot sd (toW v)))

/-- TOKN (R196). -/
def execTokn (sd sluice : Nat) (s : State) : Host.Outcome State Fault Refusal :=
  issueWith (.tokn sd sluice) s (fun _ =>
    match (s.core s.curCore).tokens sluice with
    | [] => .done (s.writeReg s.curCore s.curSlot sd 0)
    | v :: _ => .done ((s.popToken s.curCore sluice).writeReg s.curCore s.curSlot sd (toW (0x10000 + v))))

/-- TOKEN_ENTRY: the token of a slot's oldest pending TOKP enters its sluice, when its turn among the tokens of the core has come
(R195). -/
def execTokenEntry (core slot : Nat) (s : State) : Host.Outcome State Fault Refusal :=
  slotEvent s core slot (fun _ => ((s.core core).dueToken.filter (fun kt => kt.1 == slot)).map (s.enterToken core))

/-- SLUICE_RESERVATION_GRANT: the first request for an entry of a sluice is granted when one is free. A restored TOKP takes
the entry here, and a TOKP that stalled at its issue takes it when it issues again (R195). -/
def execSluiceReservationGrant (core sluice : Nat) (s : State) : Host.Outcome State Fault Refusal :=
  if 64 < core ∨ 15 < sluice then .fault .noUnit
  else
    let co := s.core core
    match co.firstReq sluice with
    | none => .next s
    | some r =>
      match mfind co.slots r.slot with
      | none => .next s
      | some sl =>
        if co.roomIn sluice then
          if sl.tokps.any (fun t => t.seq == r.seq) then
            .next ((s.setCore core { co with sluiceRq := co.sluiceRq.filter (fun x => x != r) }).setSlot core r.slot
              { sl with tokps := sl.tokps.map (fun t => if t.seq = r.seq then { t with reserved := true } else t), stalled := false })
          else .next (s.setSlot core r.slot { sl with stalled := false })
        else .next s

end Sys2Proof.Machine
end

