-- ==== Sys2Proof/Machine/Vector.lean ====
section
/-! DEFINITION. The vector engines (R198 to R221): row loads and stores in VL and VS, arithmetic, compares, moves and
reductions in VA, and the conversions of R96 to R106, with the steps of the three engines. -/

namespace Sys2Proof

/-! ### Row accesses as syntax (R207, R208) -/

/-- How the steps of a VL or VS instruction address their rows. -/
inductive RowForm where
  | plain | strided (dim : Nat) | tile | gather
  deriving DecidableEq, Repr

/-- The fields of a VL or VS instruction. `cist` stands for space 10. -/
structure RowArgs where
  op    : WOp
  desc  : Bool
  cist  : Bool
  scope : Nat
  evict : Nat
  acq   : Bool
  pN    : Nat
  form  : RowForm

/-- The fields of a row access in space 00 or 01. -/
def rowArgs (op : WOp) (sp : VSpace) (o : AccOrd) (pN : Nat) (form : RowForm) : RowArgs :=
  match sp with
  | .spad => ⟨op, false, false, min o.scope 1, 0, o.ord == .acq, pN, form⟩
  | .desc _ => ⟨op, true, false, o.scope, o.evict, o.ord == .acq, pN, form⟩

/-- The fields of a VL or VS instruction, if it is one. -/
def Instr.rowArgs? : Instr → Option RowArgs
  | .vld op sp _ _ o _ pN => some (rowArgs op sp o pN .plain)
  | .vlds op sp _ _ o _ pN dim => some (rowArgs op sp o pN (.strided dim))
  | .vldt op sp _ _ o _ pN => some (rowArgs op sp o pN .tile)
  | .vldg op sp _ _ o _ pN => some (rowArgs op sp o pN .gather)
  | .vldc op _ _ _ _ _ pN => some ⟨op, true, true, 0, 0, false, pN, .plain⟩
  | .vst op sp _ _ o _ pN => some (rowArgs op sp o pN .plain)
  | .vsts op sp _ _ o _ pN dim => some (rowArgs op sp o pN (.strided dim))
  | .vstt op sp _ _ o _ pN => some (rowArgs op sp o pN .tile)
  | .vsct op sp _ _ o _ pN => some (rowArgs op sp o pN .gather)
  | .vstc op _ _ _ _ _ pN => some ⟨op, true, true, 0, 0, false, pN, .plain⟩
  | _ => none

end Sys2Proof

namespace Sys2Proof.Machine

/-! ### Elements and predicates (R205) -/

/-- The elements of `w` bits that a predicate makes active. -/
def activeElems (p : Pred) (w : Nat) : List Bool := (List.range (1024 / w)).map (fun j => p.getLsbD (w / 8 * j))

/-- Values of active elements; the others are not rounded (R93). -/
def maskOut {α : Type} (act : List Bool) (vs : List α) : List (Option α) :=
  (vs.zip act).map (fun p => if p.2 then some p.1 else none)

/-- A predicate of 32 elements of 32 bits, each set in full (R218). -/
def predOf (bs : List Bool) : Pred := BitVec.ofNat 128 (packElems 4 (bs.map (fun b => if b then 15 else 0)))

/-- RND of FMTMODE (R90). -/
def modeRnd (f : Nat) : Rnd := (Rnd.ofCode (nbits f 6 4)).getD .rne
/-- SAT of FMTMODE. -/
def modeSat (f : Nat) : Bool := f.testBit 7
/-- FMTTRAP of FMTMODE. -/
def modeTrap (f : Nat) : Bool := f.testBit 0

/-- What a VA step leaves: rows for the destination with the bytes that are written, a predicate, the scale bytes of R99, and
the rows that a VREDS keeps. -/
structure VaOut where
  rows  : List Row := []
  mask  : Pred := BitVec.allOnes 128
  pred  : Option Pred := none
  scale : List Nat := []
  keep  : List Row := []

/-! ### Sources of a VA step (R89, R204) -/

/-- The first row of source `k` of a step; the broadcast where the step reads no such row. -/
def srcAt (src : List (List Src)) (k : Nat) : Src := ((src.getD k []).head?).getD .bus

/-- Two sources read together: a tag that is refused comes before data that is uncorrectable. -/
def both {α β : Type} (a : Except Nat α) (b : Except Nat β) : Except Nat (α × β) :=
  match a, b with
  | .ok x, .ok y => .ok (x, y)
  | .error e, .ok _ => .error e
  | .ok _, .error e => .error e
  | .error e, .error f => .error (min e f)

/-- A source read as FP32 (R215). -/
def fpIn (c : Cmd) (v : Src) : Except Nat (List Ex) := (readAs tagF32 (modeTrap c.fmtmode) c.bval v).map (fun l => l.map fp32)

/-- A source read as 32-bit integers (R217). -/
def intIn (c : Cmd) (t : Tag) (v : Src) : Except Nat (List Nat) := readAs t (modeTrap c.fmtmode) c.bval v

/-- An own-tag source whose tag is not fixed at issue (R89). -/
def rawIn (c : Cmd) (scaled : Bool) (v : Src) : Except Nat (Tag × Row) :=
  match v with
  | .bus => .ok (c.tagA, elemsRow c.tagA.width (List.replicate (1024 / c.tagA.width) c.bval.toNat))
  | v => (readOwn scaled v).map (fun r => r.2)

/-- The own-tag source srcA: a row with another tag than the captured one raises 0x05 (R392). -/
def ownIn (c : Cmd) (scaled : Bool) (v : Src) : Except Nat Row :=
  match rawIn c scaled v with
  | .error e => .error e
  | .ok (t, r) => if t = c.tagA then .ok r else .error 0x05

/-- A row of FP32 results, rounded once under FMTMODE (R92, R95, R214). -/
def fpRow (c : Cmd) (vs : List (Option Ex)) : Row := elemsRow 32 (flt32.roundRow (modeRnd c.fmtmode) (modeSat c.fmtmode) vs)

/-- The sum of opposite-signed operands is −0 (R215). -/
def modeRdn (c : Cmd) : Bool := modeRnd c.fmtmode == .rdn

/-! ### Arithmetic (R215 to R217) -/

/-- An FP32 operation on one source. -/
def fp1 (c : Cmd) (p : Pred) (src : List (List Src)) (f : Ex → Ex) : Except Nat VaOut :=
  (fpIn c (srcAt src 0)).map (fun a =>
    { rows := [fpRow c (maskOut (activeElems p 32) (a.map f))], mask := byteMask p 32 })

/-- An FP32 operation on two sources. -/
def fp2 (c : Cmd) (p : Pred) (src : List (List Src)) (f : Ex → Ex → Ex) : Except Nat VaOut :=
  (both (fpIn c (srcAt src 0)) (fpIn c (srcAt src 1))).map (fun ab =>
    { rows := [fpRow c (maskOut (activeElems p 32) (List.zipWith f ab.1 ab.2))], mask := byteMask p 32 })

/-- VFMA and VFMS: a × b with c added or subtracted (R215). -/
def fp3 (c : Cmd) (p : Pred) (src : List (List Src)) (f : Ex → Ex → Ex) : Except Nat VaOut :=
  (both (both (fpIn c (srcAt src 0)) (fpIn c (srcAt src 1))) (fpIn c (srcAt src 2))).map (fun abc =>
    { rows := [fpRow c (maskOut (activeElems p 32) (List.zipWith f (List.zipWith Ex.mul abc.1.1 abc.1.2) abc.2))],
      mask := byteMask p 32 })

/-- A 32-bit result under a saturation mode, from the exact signed and unsigned results (R217). -/
def sat32 (mode : Sat) (s u : Int) : Nat :=
  match mode with
  | .wrap => intEnc 32 u
  | .sat => intEnc 32 (max (-2 ^ 31) (min (2 ^ 31 - 1) s))
  | .satu => intEnc 32 (max 0 (min (2 ^ 32 - 1) u))

/-- The expected format of VIADD, VISUB and VIMUL. -/
def satTag (mode : Sat) : Tag := if mode = .satu then tagU32 else tagI32

/-- An operation on elements of 32 bits. -/
def int2 (c : Cmd) (t : Tag) (p : Pred) (src : List (List Src)) (f : Nat → Nat → Nat) : Except Nat VaOut :=
  (both (intIn c t (srcAt src 0)) (intIn c t (srcAt src 1))).map (fun ab =>
    { rows := [elemsRow 32 (List.zipWith f ab.1 ab.2)], mask := byteMask p 32 })

/-- VIADD, VISUB and VIMUL. -/
def intArith (mode : Sat) (f : Int → Int → Int) (a b : Nat) : Nat := sat32 mode (f (signedOf 32 a) (signedOf 32 b)) (f a b)

/-- VIMIN. -/
def int32Min (uns : Bool) (a b : Nat) : Nat := if uns then Nat.min a b else if signedOf 32 b < signedOf 32 a then b else a
/-- VIMAX. -/
def int32Max (uns : Bool) (a b : Nat) : Nat := if uns then Nat.max a b else if signedOf 32 a < signedOf 32 b then b else a

/-- VAND, VOR and VXOR over all 1,024 bits. -/
def logic2 (c : Cmd) (p : Pred) (src : List (List Src)) (f : Row → Row → Row) : Except Nat VaOut :=
  (both (ownIn c false (srcAt src 0)) (rawIn c false (srcAt src 1))).map (fun ab =>
    { rows := [f ab.1 ab.2.2], mask := byteMask p c.tagA.width })

/-- The tag is INT32 or UINT32, unscaled. -/
def Tag.isInt32 (t : Tag) : Bool := t == tagI32 || t == tagU32

/-- VSHL by a count of 8 bits. -/
def shl32 (a k : Nat) : Nat := if 32 ≤ k then 0 else a * 2 ^ k % 2 ^ 32
/-- VSHR. -/
def shr32 (a k : Nat) : Nat := if 32 ≤ k then 0 else a / 2 ^ k
/-- VSRA. -/
def sra32 (a k : Nat) : Nat := intEnc 32 (signedOf 32 a / 2 ^ min k 31)

/-- VSHL, VSHR and VSRA. -/
def shift2 (c : Cmd) (p : Pred) (src : List (List Src)) (f : Nat → Nat → Nat) : Except Nat VaOut :=
  match both (ownIn c false (srcAt src 0)) (rawIn c false (srcAt src 1)) with
  | .error e => .error e
  | .ok (a, t, b) =>
    if !c.tagA.isInt32 || !t.isInt32 then .error 0x05
    else .ok { rows := [elemsRow 32 (List.zipWith (fun x y => f x (y % 256)) (rowElems a 32) (rowElems b 32))], mask := byteMask p 32 }

/-! ### Compares and predicates (R218, R219) -/

/-- A compare's predicate: inactive elements are 0. -/
def cmpOut (p : Pred) (bs : List Bool) : VaOut := { pred := some (predOf (List.zipWith (fun b a => b && a) bs (activeElems p 32))) }

/-- The expected format of a VICMP condition. -/
def cmpTag (c : Cond) : Tag :=
  match c with
  | .ltu => tagU32
  | .geu => tagU32
  | .leu => tagU32
  | .gtu => tagU32
  | _ => tagI32

/-! ### Moves (R220) -/

/-- VMOV, and VBCST with its element index. -/
def move1 (c : Cmd) (p : Pred) (src : List (List Src)) (f : Row → Row) : Except Nat VaOut :=
  (ownIn c true (srcAt src 0)).map (fun a => { rows := [f a], mask := byteMask p c.tagA.width })

/-- Two sources that must carry the same tag and scaled bit. -/
def sameIn (c : Cmd) (src : List (List Src)) : Except Nat (Row × Row) := both (ownIn c true (srcAt src 0)) (ownIn c true (srcAt src 1))

/-- VBCST's row. -/
def spread (w k : Nat) (a : Row) : Row := elemsRow w (List.replicate (1024 / w) (elemOf a w (k % (1024 / w))))

/-- VPERM's row: cells of `a` by the low 5 bits of the cells of `i`. -/
def permute (a i : Row) : Row := elemsRow 32 ((rowElems i 32).map (fun k => elemOf a 32 (k % 32)))

/-- VRMG's row: 128 bytes from byte `r` of `a` followed by `b`. -/
def mergeAt (r : Nat) (a b : Row) : Row := bytesRow (((rowBytes a ++ rowBytes b).drop r).take 128)

/-! ### Reductions (R221) -/

/-- op over FP32 values: an exact sum, the least or the greatest. -/
def redFp (op : RedOp) (rdn : Bool) : List Ex → Ex
  | [] => match op with | .add => .num false (.dy 0 0) | .min => .inf false | .max => .inf true
  | x :: xs => xs.foldl (match op with | .add => Ex.add rdn | .min => Ex.min | .max => Ex.max) x

/-- op over 32-bit integers. -/
def redInt (op : RedOp) (uns : Bool) : List Nat → Nat
  | [] => match op with
    | .add => 0
    | .min => if uns then 2 ^ 32 - 1 else 2 ^ 31 - 1
    | .max => if uns then 0 else 2 ^ 31
  | x :: xs => xs.foldl (match op with | .add => (fun a b => (a + b) % 2 ^ 32) | .min => int32Min uns | .max => int32Max uns) x

/-- The elements that are active. -/
def chosen (act : List Bool) (l : List Nat) : List Nat := ((l.zip act).filter (fun p => p.2)).map (fun p => p.1)

/-- The results of op over lists of elements, as a row of their tag. -/
def redRow (c : Cmd) (op : RedOp) (ls : List (List Nat)) : Row :=
  if c.tagA = tagF32 then fpRow c (ls.map (fun l => some (redFp op (modeRdn c) (l.map fp32))))
  else elemsRow 32 (ls.map (redInt op (c.tagA == tagU32)))

/-- The source of a reduction: FP32, INT32 or UINT32, unscaled. -/
def redIn (c : Cmd) (src : List (List Src)) : Except Nat Row :=
  match ownIn c false (srcAt src 0) with
  | .error e => .error e
  | .ok a => if c.tagA = tagF32 ∨ c.tagA.isInt32 then .ok a else .error 0x05

/-- VSCAN's lists: for each element the active elements up to it. -/
def scanLists (act : List Bool) (l : List Nat) : List (List Nat) :=
  (List.range 32).map (fun j => chosen (act.take (j + 1)) (l.take (j + 1)))

/-- VREDS's lists: for each active element that of every row. -/
def columnLists (act : List Bool) (rows : List Row) : List (List Nat) :=
  (List.range 32).map (fun j => if act.getD j false then rows.map (fun r => elemOf r 32 j) else [])

/-! ### Conversions (R96 to R103) -/

/-- A source of a conversion in its own tag, unscaled: its format and its elements. -/
def cvtIn (v : Src) : Except Nat (Fmt × List Ex) :=
  (readOwn false v).map (fun r => (r.1, tagValues r.1 r.2.2))

/-- The first `n` elements of a converted row: those beyond the source's are fill zeros, and inactive ones are not rounded. -/
def fillTo (n : Nat) (act : List Bool) (vs : List Ex) : List (Option Ex) :=
  (List.range n).map (fun i => if act.getD i false then vs[i]? else none)

/-- A row of a conversion. -/
def cvtRow (cw : CvtWord) (sat fromInt : Bool) (p : Pred) (vs : List Ex) : Row :=
  let w := cw.target.width
  elemsRow w (cw.target.convRow cw.rnd sat fromInt (fillTo cw.target.count (activeElems p w) vs))

/-- VCVT's pre-scale exponent (R98). -/
def preScale (v : Word) : Int := signedOf 8 (bits v 7 0)

/-- A floating-point source format of VCVTS and VQLN. -/
def Fmt.isWideFp (f : Fmt) : Bool := f == .fp32 || f == .fp16 || f == .bf16

/-- A source row of VCVTS with its width class fixed at issue (R99). -/
def cvtsRowIn (c : Cmd) (v : Src) : Except Nat (List Ex) :=
  match readOwn false v with
  | .error e => .error e
  | .ok (f, _, r) => if Fmt.isWideFp f && (f.width == 32) == (c.per == 4) then .ok (tagValues f r) else .error 0x05

/-- The rows of a step read one after another. -/
def allIn (f : Src → Except Nat (List Ex)) : List Src → Except Nat (List Ex)
  | [] => .ok []
  | v :: vs => (both (f v) (allIn f vs)).map (fun p => p.1 ++ p.2)

/-- emax of R99. -/
def scaleMax (f : Fmt) : Int :=
  match f with
  | .fp8l => 8
  | .fp8w => 15
  | .ln6 => 3
  | _ => 6

/-- floor(log2 |x|) of a finite value that is not zero. -/
def exLg (v : Ex) : Option Int :=
  match v with
  | .num _ g => if g.isZero then none else some g.lg
  | _ => none

/-- The E8 scale of a block (R99). -/
def blockScale (f : Fmt) (vs : List Ex) : Nat :=
  match (vs.filterMap exLg) with
  | [] => 127
  | l :: ls => (min 254 (max 0 (ls.foldl max l - scaleMax f + 127))).toNat

/-- The four scales of a step. -/
def stepScales (f : Fmt) (vs : List Ex) : List Nat := (List.range 4).map (fun b => blockScale f ((vs.drop (32 * b)).take 32))

/-- VCVTS's values, each scaled by 2^(127 − e) of its block. -/
def scaledValues (es : List Nat) (vs : List Ex) : List Ex :=
  vs.zipIdx.map (fun p => p.1.scale (127 - (es.getD (p.2 / 32) 127 : Int)))

/-- VSCL's values (R100): block `b` of a scaled row with scale byte `e`. -/
def unscaled (f : Fmt) (r : Row) (b e : Nat) : List Ex :=
  (List.range 32).map (fun j => if e = 255 then .nan else (f.value (elemOf r f.width (32 * b + j))).scale ((e : Int) - 127))

/-- VPACK's row (R101). -/
def packRows (mode : PackMode) (a b : Row) : Row :=
  match mode with
  | .half => bytesRow ((rowBytes a).take 64 ++ (rowBytes b).take 64)
  | .qtr => bytesRow ((rowBytes a).take 32 ++ (rowBytes b).take 32)

/-- VQLN's row (R103). -/
def qlnRow (rnd : Rnd) (vs : List (Option Ex)) : Row :=
  let hs := hashes rnd (vs.map (fun v => match v with | some x => qlnDisc x | none => 0))
  elemsRow 8 ((vs.zip hs).map (fun p => match p.1 with | some x => qlnRound rnd p.2 x | none => 0))

/-! ### A step of VA -/

/-- The step of a VA command in context `x`: what it leaves, or the fault code (R89, R214 to R221, R96 to R106). -/
def vaResult (c : Cmd) (x : Ctx) (src : List (List Src)) : Except Nat VaOut :=
  let rdn := modeRdn c
  match c.instr with
  | .vadd _ _ _ _ pN _ => fp2 c (x.pred pN) src (Ex.add rdn)
  | .vsub _ _ _ _ pN _ => fp2 c (x.pred pN) src (fun a b => Ex.add rdn a b.neg)
  | .vmul _ _ _ _ pN _ => fp2 c (x.pred pN) src Ex.mul
  | .vfma _ _ _ _ pN _ => fp3 c (x.pred pN) src (Ex.add rdn)
  | .vfms _ _ _ _ pN _ => fp3 c (x.pred pN) src (fun a b => Ex.add rdn a b.neg)
  | .vneg _ _ _ pN _ => fp1 c (x.pred pN) src Ex.neg
  | .vabs _ _ _ pN _ => fp1 c (x.pred pN) src Ex.abs
  | .vmin _ _ _ _ pN _ => fp2 c (x.pred pN) src Ex.min
  | .vmax _ _ _ _ pN _ => fp2 c (x.pred pN) src Ex.max
  | .vrcp _ _ _ pN _ => fp1 c (x.pred pN) src Ex.rcp
  | .vrsq _ _ _ pN _ => fp1 c (x.pred pN) src Ex.rsq
  | .vexp2 _ _ _ pN _ => fp1 c (x.pred pN) src Ex.exp2
  | .vlog2 _ _ _ pN _ => fp1 c (x.pred pN) src Ex.log2
  | .viadd _ _ _ _ pN _ m => int2 c (satTag m) (x.pred pN) src (intArith m (fun a b => a + b))
  | .visub _ _ _ _ pN _ m => int2 c (satTag m) (x.pred pN) src (intArith m (fun a b => a - b))
  | .vimul _ _ _ _ pN _ m => int2 c (satTag m) (x.pred pN) src (intArith m (fun a b => a * b))
  | .vimin _ _ _ _ pN _ u => int2 c (if u then tagU32 else tagI32) (x.pred pN) src (int32Min u)
  | .vimax _ _ _ _ pN _ u => int2 c (if u then tagU32 else tagI32) (x.pred pN) src (int32Max u)
  | .vand _ _ _ _ pN _ => logic2 c (x.pred pN) src (fun a b => a &&& b)
  | .vor _ _ _ _ pN _ => logic2 c (x.pred pN) src (fun a b => a ||| b)
  | .vxor _ _ _ _ pN _ => logic2 c (x.pred pN) src (fun a b => a ^^^ b)
  | .vshl _ _ _ _ pN _ => shift2 c (x.pred pN) src shl32
  | .vshr _ _ _ _ pN _ => shift2 c (x.pred pN) src shr32
  | .vsra _ _ _ _ pN _ => shift2 c (x.pred pN) src sra32
  | .vcmp _ cond _ _ _ pN =>
    (both (fpIn c (srcAt src 0)) (fpIn c (srcAt src 1))).map (fun ab => cmpOut (x.pred pN) (List.zipWith cond.holds ab.1 ab.2))
  | .vicmp _ cond _ _ _ pN =>
    (both (intIn c (cmpTag cond) (srcAt src 0)) (intIn c (cmpTag cond) (srcAt src 1))).map
      (fun ab => cmpOut (x.pred pN) (List.zipWith (cond.holds 32) ab.1 ab.2))
  | .pand _ pa pb => .ok { pred := some (x.pred pa &&& x.pred pb) }
  | .por _ pa pb => .ok { pred := some (x.pred pa ||| x.pred pb) }
  | .pxor _ pa pb => .ok { pred := some (x.pred pa ^^^ x.pred pb) }
  | .pnot _ pa => .ok { pred := some (~~~(x.pred pa)) }
  | .pmov _ pa => .ok { pred := some (x.pred pa) }
  | .vmov _ _ _ pN _ => move1 c (x.pred pN) src (fun a => a)
  | .vbcst _ _ _ pN _ => move1 c (x.pred pN) src (spread c.tagA.width c.bval.toNat)
  | .vsel _ _ _ _ pS _ =>
    (sameIn c src).map (fun ab => { rows := [mergeBytes (byteMask (x.pred pS) c.tagA.width) ab.1 ab.2] })
  | .vperm _ _ _ pN _ =>
    (both (ownIn c true (srcAt src 0)) (rawIn c true (srcAt src 1))).map
      (fun ab => { rows := [permute ab.1 ab.2.2], mask := byteMask (x.pred pN) 32 })
  | .vrmg _ _ _ _ pN _ =>
    (sameIn c src).map (fun ab => { rows := [mergeAt (bits c.bval 6 0) ab.1 ab.2], mask := x.pred pN })
  | .vidx _ _ pN _ =>
    .ok { rows := [elemsRow 32 ((List.range 32).map (fun j => c.bval.toNat + 32 * c.mpc + j))], mask := byteMask (x.pred pN) 32 }
  | .vred _ _ pN _ op =>
    (redIn c src).map (fun a => { rows := [redRow c op [chosen (activeElems (x.pred pN) 32) (rowElems a 32)]] })
  | .vscan _ _ pN _ op =>
    (redIn c src).map (fun a => { rows := [redRow c op (scanLists (activeElems (x.pred pN) 32) (rowElems a 32))] })
  | .vreds _ _ pN rep op =>
    (redIn c src).map (fun a =>
      if c.mpc < rep then { keep := c.rows ++ [a] }
      else { rows := [redRow c op (columnLists (activeElems (x.pred pN) 32) (c.rows ++ [a]))] })
  | .vcvt _ _ cw _ pN _ =>
    (cvtIn (srcAt src 0)).map (fun fv =>
      { rows := [cvtRow cw cw.sat fv.1.isInt (x.pred pN) (fv.2.map (fun v => v.scale (preScale c.bval)))],
        mask := byteMask (x.pred pN) cw.target.width })
  | .vcvts _ _ cw _ pN _ =>
    (allIn (cvtsRowIn c) (src.getD 0 [])).map (fun vs =>
      let es := stepScales cw.target vs
      { rows := [cvtRow cw true false (x.pred pN) (scaledValues es vs)], mask := byteMask (x.pred pN) 8, scale := es })
  | .vscl _ _ _ pN _ blk =>
    match both (readOwn true (srcAt src 0)) (readOwn true (srcAt src 1)) with
    | .error e => .error e
    | .ok ((f, t, a), (_, _, b)) =>
      if !t.scaled then .error 0x05
      else
        let k := ((c.instr.ins 1).head?.map (fun p => (p.op.pos + c.mpc) % 32)).getD 0
        .ok { rows := [fpRow c (maskOut (activeElems (x.pred pN) 32) (unscaled f a blk (elemOf b 8 (4 * k + blk))))],
              mask := byteMask (x.pred pN) 32 }
  | .vpack _ _ pN _ mode =>
    match src.getD 0 [] with
    | [v, w] =>
      (both (ownIn c false v) (ownIn c false w)).map (fun ab =>
        { rows := [packRows mode ab.1 ab.2], mask := byteMask (x.pred pN) c.tagA.width })
    | _ => .error 0x05
  | .vunpk _ _ cw pN _ =>
    match cvtIn (srcAt src 0) with
    | .error e => .error e
    | .ok (f, vs) =>
      if cw.target.width ≠ 2 * f.width then .error 0x05
      else
        let n := cw.target.count
        .ok { rows := [cvtRow cw cw.sat f.isInt (x.pred pN) (vs.take n), cvtRow cw cw.sat f.isInt (x.pred pN) (vs.drop n)],
              mask := byteMask (x.pred pN) cw.target.width }
  | .vqln _ _ cw pN _ =>
    match cvtIn (srcAt src 0) with
    | .error e => .error e
    | .ok (f, vs) =>
      if !Fmt.isWideFp f then .error 0x05
      else .ok { rows := [qlnRow cw.rnd (fillTo 128 (activeElems (x.pred pN) 8) vs)], mask := byteMask (x.pred pN) 8 }
  | _ => .ok {}

/-- The scale bytes of a VCVTS step written into their row, after the data (R99). -/
def putScales (c : Cmd) (es : List Nat) (co : Core) : Core :=
  if es = [] then co
  else
    let f := scaleField c.bval
    let k := ((c.instr.outs).head?.map (fun p => (p.op.pos + c.mpc) % 32)).getD 0
    co.putRow (.h (f / 32) (f % 32)) (BitVec.ofNat 128 (15 * 2 ^ (4 * k))) (BitVec.ofNat 1024 (packElems 8 es * 2 ^ (32 * k)))

/-- The state after a VA step has written what it leaves. -/
def State.vaWrite (s : State) (c : Nat) (sl : Slot) (cmd : Cmd) (o : VaOut) : State :=
  let x := popQueues cmd sl.ctx
  let (co, x) := match cmd.instr.outs with
    | p :: _ => putPort cmd p cmd.mpc o.mask o.rows (s.core c, x)
    | [] => (s.core c, x)
  let x := match o.pred, cmd.instr.predOut with
    | some v, n :: _ => x.setPred n v
    | _, _ => x
  ((s.setCore c (putScales cmd o.scale co)).setSlot c cmd.slot { sl with ctx := x }).advanceCmd c { cmd with rows := o.keep } cmd.instr.steps

/-- The next step of an engine for a slot: the first command in its queue makes it, once its engine has started the command (R29,
R198, R199). -/
def State.stepOf (s : State) (c k : Nat) (e : Eng) (sl : Slot) (f : Cmd → Option State) : Option State :=
  match s.head? c k e with
  | some cmd => if s.cmdReady c sl cmd then s.startStep c cmd f else none
  | none => none

/-- One step of VA for a slot. -/
def State.vaStep (s : State) (c : Nat) (sl : Slot) (cmd : Cmd) : Option State :=
  match stepSources cmd (s.core c) sl.ctx cmd.per cmd.mpc with
  | none => none
  | some src =>
    match vaResult cmd sl.ctx src with
    | .error code => some (s.engineFault c cmd (cmd.plainFault code))
    | .ok o => some (s.vaWrite c sl cmd o)

/-! ### Row accesses (R207 to R212) -/

/-- The index word of a VLDG or VSCT step, checked against the window (R145, R208). Where it is uncorrectable, so that no address
follows from it, the rights of the capability are still checked before the data (R211). -/
def State.gatherIndex (s : State) (c : Nat) (sl : Slot) (cmd : Cmd) (a : RowArgs) (wr : Bool) : Except FaultRec Nat :=
  let y := (cmd.vb.toNat + 4 * cmd.mpc) % 2 ^ 64
  let base := y - y % 4
  if sl.winSize < base + 4 then .error { code := 0x06, addr := y, wr := wr }
  else if poisoned (s.core c).spadErr (sl.winBase + base) 4 then
    if a.desc && !cmd.cap.grants (if wr then kWrite else kRead).cap then .error { code := 0x07, addr := cmd.pc, oid := cmd.cap.oid, wr := wr }
    else .error { code := 0x0E, addr := y, wr := wr }
  else .ok (rdN (s.core c).spad (sl.winBase + base) 4)

/-- The window address of a step's row. -/
def windowRow (cmd : Cmd) (a : RowArgs) (g : Nat) : Nat :=
  (match a.form with
    | .strided _ => cmd.va.toNat + cmd.mpc * cmd.vb.toNat
    | .gather => cmd.va.toNat + 128 * g
    | _ => cmd.va.toNat + cmd.vb.toNat + 128 * cmd.mpc) % 2 ^ 64

/-- The coordinates of a step's row. -/
def descRow (cmd : Cmd) (a : RowArgs) (g : Nat) : Coord :=
  match a.form with
  | .gather => ⟨cmd.va.toNat, g, 0, 0⟩
  | .strided d => (coordOf cmd.va cmd.vb).adv d (if d = 0 then cmd.mpc * (128 / cmd.desc.bytesPer) else cmd.mpc)
  | _ => (coordOf cmd.va cmd.vb).adv 1 cmd.mpc

/-- What an access of VL or VS needs (R211). -/
def rowKind (a : RowArgs) (wr : Bool) : AccKind :=
  let k := if wr then kWrite else kRead
  if a.cist then { k with rule := .onlyCistern } else k

/-- The access of a step through its descriptor at coordinates: `n` bytes, which are bytes `from_` on of the row. -/
def rowSpan (cmd : Cmd) (a : RowArgs) (wr : Bool) (x : Coord) (from_ n : Nat) : Span :=
  let d := cmd.desc
  { cap := cmd.cap, off := d.offset (bytePos d x), len := n, kind := rowKind a wr, from_ := from_, x0 := x.x0, xhi := x.high,
    tens := some (d.handle, d.base) }

/-- The accesses of a step through its descriptor, or the fault that R211 gives for its coordinates. -/
def rowSpans (cmd : Cmd) (a : RowArgs) (g : Nat) (wr : Bool) : Except FaultRec (List Span) :=
  let x := descRow cmd a g
  let w := cmd.desc.bytesPer
  if a.form = .tile then
    .ok (((List.range (128 / w)).map (fun k => (k, ({ x with x0 := (x.x0 + k) % 2 ^ 64 } : Coord)))).filterMap (fun ky =>
      if ky.2.inside cmd.desc then some (rowSpan cmd a wr ky.2 (ky.1 * w) w) else none))
  else if !x.inside cmd.desc then .error { code := 0x06, addr := cmd.pc, oid := cmd.cap.oid, x0 := x.x0, xhi := x.high }
  else .ok [rowSpan cmd a wr x 0 128]

/-- The pieces of a step in the window: one row, or none for a row of VLDT or VSTT outside it. -/
def windowPieces (cmd : Cmd) (a : RowArgs) (sl : Slot) (g : Nat) (wr : Bool) : Except FaultRec (List Piece) :=
  let y := windowRow cmd a g
  let base := y - y % 128
  if sl.winSize < base + 128 then (if a.form = .tile then .ok [] else .error { code := 0x06, addr := y, wr := wr })
  else .ok [sl.windowPiece base 128 0]

/-- The bytes of a row with those of the pieces in place, read one after another. -/
def scatter : List Piece → List Byte → List Byte → List Byte
  | [], _, row => row
  | x :: xs, bs, row => scatter xs (bs.drop x.len) (row.take x.from_ ++ bs.take x.len ++ row.drop (x.from_ + x.len))

/-- The pieces of a row step, after every check but those of the data, in the order of R211. -/
def State.rowPlan (s : State) (c : Nat) (sl : Slot) (cmd : Cmd) (a : RowArgs) (wr : Bool) : Except FaultRec (List Piece) :=
  match (if a.form = .gather then s.gatherIndex c sl cmd a wr else .ok 0) with
  | .error f => .error f
  | .ok g =>
    if a.desc then
      match rowSpans cmd a g wr with
      | .error f => .error f
      | .ok xs => s.plan c sl.part .rows xs
    else windowPieces cmd a sl g wr

/-- The descriptor of a command is refused (R148, R211). -/
def descRefused (cmd : Cmd) (a : RowArgs) : Option Nat := if a.desc then cmd.desc.refused cmd.cap else none

/-- One step of a VL load (R209). Lines of a tile hinted stream stay out of L2 (R170). -/
def State.loadStep (s : State) (c : Nat) (sl : Slot) (cmd : Cmd) (a : RowArgs) : Option State :=
  match descRefused cmd a with
  | some code => some (s.engineFault c cmd { cmd.plainFault code with oid := cmd.cap.oid })
  | none =>
    match s.rowPlan c sl cmd a false with
    | .error f => some (s.engineFault c cmd f)
    | .ok ps =>
      match s.moveGate c sl.part a.scope a.acq false ps with
      | .fault f => some (s.engineFault c cmd f)
      | .wait => none
      | .ok _ =>
        match readPieces (s.sendPieces sl.part a.scope false none ps) c c sl.part a.scope { evict := a.evict, noL2 := true } ps with
        | (t, .error f) => some (t.engineFault c cmd f)
        | (t, .ok bs) =>
          let row := bytesRow (scatter ps bs (zeros 128))
          let mask := byteMask (sl.ctx.pred a.pN) cmd.outTag.width
          let (co, x) := putPort cmd ⟨a.op, 1⟩ cmd.mpc mask [row] (t.core c, sl.ctx)
          some ((((t.setCore c co).setSlot c cmd.slot { sl with ctx := x }).residFill c sl.part a.scope true ps).advanceCmd c cmd cmd.instr.steps)

/-- The source row of a store as it is stored, and its element width (R210). -/
def storeRow (cmd : Cmd) (a : RowArgs) (v : Src) : Except Nat (Row × Nat) :=
  if a.desc then
    (readAs cmd.desc.tag (modeTrap cmd.fmtmode) 0 v).map (fun es => (elemsRow cmd.desc.tag.width es, cmd.desc.tag.width))
  else (readOwn true v).map (fun r => (r.2.2, r.1.width))

/-- The bytes of a store with those that it writes marked. -/
def storeBytes (p : Pred) (w : Nat) (r : Row) : List (Bool × Byte) :=
  (rowBytes r).zipIdx.map (fun b => ((byteMask p w).getLsbD b.2, b.1))

/-- The tag of a source was refused. -/
def tagRefused {α : Type} (d : Except Nat α) : Bool :=
  match d with
  | .error code => code == 0x05
  | .ok _ => false

/-- The pool rejects a step of a store for a stale token: the lease is LOST, the step has written nothing, and the fault is delivered
like that of a posted store, after which nothing that the access is locally ordered before performs (R156, R187, R211, R373). -/
def State.rejectStore (s : State) (c : Nat) (sl : Slot) (cmd : Cmd) (x : Piece) : State :=
  (s.loseLease sl.part).modSlot c cmd.slot (fun sl =>
    { sl with deferred := sl.deferred ++
        [{ seq := cmd.seq, fault := cmd.faultRec (x.fault 0x0D true) cmd.engNow, sd := none, redo := none,
           blocks := some (cmdPaths cmd, cmdOrd cmd.instr) : Deferred }] })

/-- The accesses of a store step reach their targets. -/
def State.storePieces (s : State) (c : Nat) (sl : Slot) (cmd : Cmd) (a : RowArgs) (bs : List (Bool × Byte)) (ps : List Piece) : State :=
  match s.stalePiece sl.part a.scope cmd.cap ps with
  | some x => s.rejectStore c sl cmd x
  | none =>
    (writePieces (s.sendPieces sl.part a.scope true (capToken s sl.part cmd.cap) ps) c c sl.part a.scope { evict := a.evict } bs ps).residFill
      c sl.part a.scope false ps

/-- One step of a VS store (R209). -/
def State.storeStep (s : State) (c : Nat) (sl : Slot) (cmd : Cmd) (a : RowArgs) : Option State :=
  match descRefused cmd a, stepSources cmd (s.core c) sl.ctx 1 cmd.mpc with
  | some code, _ => some (s.engineFault c cmd { cmd.plainFault code with oid := cmd.cap.oid })
  | none, none => none
  | none, some src =>
    let data := storeRow cmd a (srcAt src 0)
    if tagRefused data then some (s.engineFault c cmd (cmd.plainFault 0x05))
    else
      match s.rowPlan c sl cmd a true with
      | .error f => some (s.engineFault c cmd f)
      | .ok ps =>
        match data with
        | .error code => some (s.engineFault c cmd ((ps.head?.map (fun x => x.fault code true)).getD (cmd.plainFault code)))
        | .ok (row, w) =>
          match s.moveGate c sl.part a.scope a.acq true ps with
          | .fault f => some (s.engineFault c cmd f)
          | .wait => none
          | .ok _ =>
            let t := s.storePieces c sl cmd a (storeBytes (sl.ctx.pred a.pN) w row) ps
            some ((t.modCtx c cmd.slot (popQueues cmd)).advanceCmd c cmd cmd.instr.steps)

/-! ### PREF and HINT (R169, R170) -/

/-- A line brought into the caches that a SCOPE names, where a request can be sent now (R169). -/
def State.prefetchPiece (s : State) (c p scope : Nat) (f : Fill) (x : Piece) : State :=
  let s := s.keepNotes c p x.tgt.notes
  let l := x.loc c c p
  let sc := min scope 4
  if s.locPoison l x.len sc then s
  else
    match s.moveGate c p sc false false [x] with
    | .ok _ => (s.sendPieces p sc false none [x]).afterRead l x.len sc (x.fill (s.part p) f)
    | _ => s

/-- One step of PREF; one that fails a check is skipped. -/
def State.prefStep (s : State) (c : Nat) (sl : Slot) (cmd : Cmd) (scope evict : Nat) : State :=
  let d := cmd.desc
  let x := (coordOf cmd.va cmd.vb).adv 1 cmd.mpc
  if (d.refused cmd.cap).isSome || !x.inside d then s
  else
    match s.plan c sl.part .rows
        [{ cap := cmd.cap, off := d.offset (bytePos d x), len := 128, kind := kRead, tens := some (d.handle, d.base) }] with
    | .error _ => s
    | .ok ps =>
      if ps.any (fun y => y.tgt.aper == .peer) then s
      else (ps.foldl (fun s y => s.prefetchPiece c sl.part scope { evict := evict } y) s).residFill c sl.part scope false ps

/-- Tensor and schedule tiles of a partition that are hot (R170, R256). -/
def Part.hotTiles (q : Part) : Nat :=
  (q.hints.filter (fun h => h.2.2 == .hot)).length + ((q.lines.filterMap (fun l => l.rill)).eraseDups.filter (fun x => x.2.2 == .hot)).length

/-- One more tile may be hot: with 512 lines each they cover at most half of the Reservoir share that the pinned reserve leaves (R170,
R310). -/
def State.hotRoom (s : State) (p : Nat) : Bool := decide (((s.part p).hotTiles + 1) * 1024 ≤ s.resRoom p)

/-- The class of a tile set; a hot hint beyond the limit acts as warm, the class of a tile without a hint. Lines of the tile that the
Reservoir holds are kept at the class's EVICT value from now on (R170). -/
def State.setHint (s : State) (p h t : Nat) (cls : Retain) : State :=
  let q := s.part p
  let rest := q.hints.filter (fun e => !(e.1 == h && e.2.1 == t))
  let s := s.setPart p { q with
    hints := rest
    lines := q.lines.map (fun l => if l.tile = some (h, t) then { l with evict := Retain.evictOf cls l.evict } else l) }
  if cls = .warm ∨ (cls = .hot ∧ s.hotRoom p = false) then s
  else s.setPart p { s.part p with hints := rest ++ [(h, t, cls)] }

/-- One step of HINT: tile t0 + m takes the class; one that fails a check is skipped. -/
def State.hintStep (s : State) (c : Nat) (sl : Slot) (cmd : Cmd) (cls : Retain) : State :=
  let d := cmd.desc
  let x := coordOf cmd.va cmd.vb
  if (d.refused cmd.cap).isSome || !x.inside d then s
  else
    let t := bytePos d x / 65536 + cmd.mpc
    match objAccess s c sl.part cmd.cap (d.offset (t * 65536)) 1 1 kRead with
    | .error _ => s
    | .ok u => (s.keepNotes c sl.part u.notes).setHint sl.part d.handle t cls

/-- One step of VL for a slot. -/
def State.vlStep (s : State) (c : Nat) (sl : Slot) (cmd : Cmd) : Option State :=
  match cmd.instr with
  | .pref _ _ _ _ scope evict _ => some ((s.prefStep c sl cmd scope evict).advanceCmd c cmd cmd.instr.steps)
  | .hint _ _ _ _ cls => some ((s.hintStep c sl cmd cls).advanceCmd c cmd cmd.instr.steps)
  | i =>
    match i.rowArgs? with
    | some a => s.loadStep c sl cmd a
    | none => none

/-- One step of VS for a slot. -/
def State.vsStep (s : State) (c : Nat) (sl : Slot) (cmd : Cmd) : Option State :=
  match cmd.instr.rowArgs? with
  | some a => s.storeStep c sl cmd a
  | none => none

/-- VL_STEP. -/
def execVlStep (core slot : Nat) (s : State) : Host.Outcome State Fault Refusal :=
  slotEvent s core slot (fun sl => s.stepOf core slot .vl sl (s.vlStep core sl))

/-- VS_STEP. -/
def execVsStep (core slot : Nat) (s : State) : Host.Outcome State Fault Refusal :=
  slotEvent s core slot (fun sl => s.stepOf core slot .vs sl (s.vsStep core sl))

/-- VA_STEP. -/
def execVaStep (core slot : Nat) (s : State) : Host.Outcome State Fault Refusal :=
  slotEvent s core slot (fun sl => s.stepOf core slot .va sl (s.vaStep core sl))

/-! ### Issue (R71, R207, R214) -/

/-- VLD: it runs in VL. -/
def execVld (row : WOp) (sp : VSpace) (sa sb : Nat) (o : AccOrd) (rep pN : Nat) (s : State) :
    Host.Outcome State Fault Refusal :=
  issueEngine (.vld row sp sa sb o rep pN) .vl s

/-- VLDS: it runs in VL. -/
def execVlds (row : WOp) (sp : VSpace) (sa sb : Nat) (o : AccOrd) (rep pN dim : Nat) (s : State) :
    Host.Outcome State Fault Refusal :=
  issueEngine (.vlds row sp sa sb o rep pN dim) .vl s

/-- VLDT: it runs in VL. -/
def execVldt (row : WOp) (sp : VSpace) (sa sb : Nat) (o : AccOrd) (rep pN : Nat) (s : State) :
    Host.Outcome State Fault Refusal :=
  issueEngine (.vldt row sp sa sb o rep pN) .vl s

/-- VLDG: it runs in VL. -/
def execVldg (row : WOp) (sp : VSpace) (sa sb : Nat) (o : AccOrd) (rep pN : Nat) (s : State) :
    Host.Outcome State Fault Refusal :=
  issueEngine (.vldg row sp sa sb o rep pN) .vl s

/-- VLDC: it runs in VL. -/
def execVldc (row : WOp) (d sa sb cls rep pN : Nat) (s : State) :
    Host.Outcome State Fault Refusal :=
  issueEngine (.vldc row d sa sb cls rep pN) .vl s

/-- VST: it runs in VS. -/
def execVst (row : WOp) (sp : VSpace) (sa sb : Nat) (o : AccOrd) (rep pN : Nat) (s : State) :
    Host.Outcome State Fault Refusal :=
  issueEngine (.vst row sp sa sb o rep pN) .vs s

/-- VSTS: it runs in VS. -/
def execVsts (row : WOp) (sp : VSpace) (sa sb : Nat) (o : AccOrd) (rep pN dim : Nat) (s : State) :
    Host.Outcome State Fault Refusal :=
  issueEngine (.vsts row sp sa sb o rep pN dim) .vs s

/-- VSTT: it runs in VS. -/
def execVstt (row : WOp) (sp : VSpace) (sa sb : Nat) (o : AccOrd) (rep pN : Nat) (s : State) :
    Host.Outcome State Fault Refusal :=
  issueEngine (.vstt row sp sa sb o rep pN) .vs s

/-- VSCT: it runs in VS. -/
def execVsct (row : WOp) (sp : VSpace) (sa sb : Nat) (o : AccOrd) (rep pN : Nat) (s : State) :
    Host.Outcome State Fault Refusal :=
  issueEngine (.vsct row sp sa sb o rep pN) .vs s

/-- VSTC: it runs in VS. -/
def execVstc (row : WOp) (d sa sb cls rep pN : Nat) (s : State) :
    Host.Outcome State Fault Refusal :=
  issueEngine (.vstc row d sa sb cls rep pN) .vs s

/-- VADD: it runs in VA. -/
def execVadd (dst a b : WOp) (sN pN rep : Nat) (s : State) :
    Host.Outcome State Fault Refusal :=
  issueEngine (.vadd dst a b sN pN rep) .va s

/-- VSUB: it runs in VA. -/
def execVsub (dst a b : WOp) (sN pN rep : Nat) (s : State) :
    Host.Outcome State Fault Refusal :=
  issueEngine (.vsub dst a b sN pN rep) .va s

/-- VMUL: it runs in VA. -/
def execVmul (dst a b : WOp) (sN pN rep : Nat) (s : State) :
    Host.Outcome State Fault Refusal :=
  issueEngine (.vmul dst a b sN pN rep) .va s

/-- VFMA: it runs in VA. -/
def execVfma (dst a b : WOp) (sN pN rep : Nat) (s : State) :
    Host.Outcome State Fault Refusal :=
  issueEngine (.vfma dst a b sN pN rep) .va s

/-- VFMS: it runs in VA. -/
def execVfms (dst a b : WOp) (sN pN rep : Nat) (s : State) :
    Host.Outcome State Fault Refusal :=
  issueEngine (.vfms dst a b sN pN rep) .va s

/-- VNEG: it runs in VA. -/
def execVneg (dst a : WOp) (sN pN rep : Nat) (s : State) :
    Host.Outcome State Fault Refusal :=
  issueEngine (.vneg dst a sN pN rep) .va s

/-- VABS: it runs in VA. -/
def execVabs (dst a : WOp) (sN pN rep : Nat) (s : State) :
    Host.Outcome State Fault Refusal :=
  issueEngine (.vabs dst a sN pN rep) .va s

/-- VMIN: it runs in VA. -/
def execVmin (dst a b : WOp) (sN pN rep : Nat) (s : State) :
    Host.Outcome State Fault Refusal :=
  issueEngine (.vmin dst a b sN pN rep) .va s

/-- VMAX: it runs in VA. -/
def execVmax (dst a b : WOp) (sN pN rep : Nat) (s : State) :
    Host.Outcome State Fault Refusal :=
  issueEngine (.vmax dst a b sN pN rep) .va s

/-- VRCP: it runs in VA. -/
def execVrcp (dst a : WOp) (sN pN rep : Nat) (s : State) :
    Host.Outcome State Fault Refusal :=
  issueEngine (.vrcp dst a sN pN rep) .va s

/-- VRSQ: it runs in VA. -/
def execVrsq (dst a : WOp) (sN pN rep : Nat) (s : State) :
    Host.Outcome State Fault Refusal :=
  issueEngine (.vrsq dst a sN pN rep) .va s

/-- VEXP2: it runs in VA. -/
def execVexp2 (dst a : WOp) (sN pN rep : Nat) (s : State) :
    Host.Outcome State Fault Refusal :=
  issueEngine (.vexp2 dst a sN pN rep) .va s

/-- VLOG2: it runs in VA. -/
def execVlog2 (dst a : WOp) (sN pN rep : Nat) (s : State) :
    Host.Outcome State Fault Refusal :=
  issueEngine (.vlog2 dst a sN pN rep) .va s

/-- VIADD: it runs in VA. -/
def execViadd (dst a b : WOp) (sN pN rep : Nat) (mode : Sat) (s : State) :
    Host.Outcome State Fault Refusal :=
  issueEngine (.viadd dst a b sN pN rep mode) .va s

/-- VISUB: it runs in VA. -/
def execVisub (dst a b : WOp) (sN pN rep : Nat) (mode : Sat) (s : State) :
    Host.Outcome State Fault Refusal :=
  issueEngine (.visub dst a b sN pN rep mode) .va s

/-- VIMUL: it runs in VA. -/
def execVimul (dst a b : WOp) (sN pN rep : Nat) (mode : Sat) (s : State) :
    Host.Outcome State Fault Refusal :=
  issueEngine (.vimul dst a b sN pN rep mode) .va s

/-- VAND: it runs in VA. -/
def execVand (dst a b : WOp) (sN pN rep : Nat) (s : State) :
    Host.Outcome State Fault Refusal :=
  issueEngine (.vand dst a b sN pN rep) .va s

/-- VOR: it runs in VA. -/
def execVor (dst a b : WOp) (sN pN rep : Nat) (s : State) :
    Host.Outcome State Fault Refusal :=
  issueEngine (.vor dst a b sN pN rep) .va s

/-- VXOR: it runs in VA. -/
def execVxor (dst a b : WOp) (sN pN rep : Nat) (s : State) :
    Host.Outcome State Fault Refusal :=
  issueEngine (.vxor dst a b sN pN rep) .va s

/-- VSHL: it runs in VA. -/
def execVshl (dst a b : WOp) (sN pN rep : Nat) (s : State) :
    Host.Outcome State Fault Refusal :=
  issueEngine (.vshl dst a b sN pN rep) .va s

/-- VSHR: it runs in VA. -/
def execVshr (dst a b : WOp) (sN pN rep : Nat) (s : State) :
    Host.Outcome State Fault Refusal :=
  issueEngine (.vshr dst a b sN pN rep) .va s

/-- VSRA: it runs in VA. -/
def execVsra (dst a b : WOp) (sN pN rep : Nat) (s : State) :
    Host.Outcome State Fault Refusal :=
  issueEngine (.vsra dst a b sN pN rep) .va s

/-- VIMIN: it runs in VA. -/
def execVimin (dst a b : WOp) (sN pN rep : Nat) (uns : Bool) (s : State) :
    Host.Outcome State Fault Refusal :=
  issueEngine (.vimin dst a b sN pN rep uns) .va s

/-- VIMAX: it runs in VA. -/
def execVimax (dst a b : WOp) (sN pN rep : Nat) (uns : Bool) (s : State) :
    Host.Outcome State Fault Refusal :=
  issueEngine (.vimax dst a b sN pN rep uns) .va s

/-- VCMP: it runs in VA. -/
def execVcmp (pd : Nat) (cond : FCond) (a b : WOp) (sN pN : Nat) (s : State) :
    Host.Outcome State Fault Refusal :=
  issueEngine (.vcmp pd cond a b sN pN) .va s

/-- VICMP: it runs in VA. -/
def execVicmp (pd : Nat) (cond : Cond) (a b : WOp) (sN pN : Nat) (s : State) :
    Host.Outcome State Fault Refusal :=
  issueEngine (.vicmp pd cond a b sN pN) .va s

/-- PAND: it runs in VA. -/
def execPand (pd pa pb : Nat) (s : State) :
    Host.Outcome State Fault Refusal :=
  issueEngine (.pand pd pa pb) .va s

/-- POR: it runs in VA. -/
def execPor (pd pa pb : Nat) (s : State) :
    Host.Outcome State Fault Refusal :=
  issueEngine (.por pd pa pb) .va s

/-- PXOR: it runs in VA. -/
def execPxor (pd pa pb : Nat) (s : State) :
    Host.Outcome State Fault Refusal :=
  issueEngine (.pxor pd pa pb) .va s

/-- PNOT: it runs in VA. -/
def execPnot (pd pa : Nat) (s : State) :
    Host.Outcome State Fault Refusal :=
  issueEngine (.pnot pd pa) .va s

/-- PMOV: it runs in VA. -/
def execPmov (pd pa : Nat) (s : State) :
    Host.Outcome State Fault Refusal :=
  issueEngine (.pmov pd pa) .va s

/-- VMOV: it runs in VA. -/
def execVmov (dst a : WOp) (sN pN rep : Nat) (s : State) :
    Host.Outcome State Fault Refusal :=
  issueEngine (.vmov dst a sN pN rep) .va s

/-- VSEL: it runs in VA. -/
def execVsel (dst a b : WOp) (sN pS rep : Nat) (s : State) :
    Host.Outcome State Fault Refusal :=
  issueEngine (.vsel dst a b sN pS rep) .va s

/-- VBCST: it runs in VA. -/
def execVbcst (dst a : WOp) (sN pN rep : Nat) (s : State) :
    Host.Outcome State Fault Refusal :=
  issueEngine (.vbcst dst a sN pN rep) .va s

/-- VPERM: it runs in VA. -/
def execVperm (dst a b : WOp) (pN rep : Nat) (s : State) :
    Host.Outcome State Fault Refusal :=
  issueEngine (.vperm dst a b pN rep) .va s

/-- VRMG: it runs in VA. -/
def execVrmg (dst a b : WOp) (sN pN rep : Nat) (s : State) :
    Host.Outcome State Fault Refusal :=
  issueEngine (.vrmg dst a b sN pN rep) .va s

/-- VIDX: it runs in VA. -/
def execVidx (dst : WOp) (sN pN rep : Nat) (s : State) :
    Host.Outcome State Fault Refusal :=
  issueEngine (.vidx dst sN pN rep) .va s

/-- VRED: it runs in VA. -/
def execVred (dst a : WOp) (pN rep : Nat) (op : RedOp) (s : State) :
    Host.Outcome State Fault Refusal :=
  issueEngine (.vred dst a pN rep op) .va s

/-- VREDS: it runs in VA. -/
def execVreds (dst a : WOp) (pN rep : Nat) (op : RedOp) (s : State) :
    Host.Outcome State Fault Refusal :=
  issueEngine (.vreds dst a pN rep op) .va s

/-- VSCAN: it runs in VA. -/
def execVscan (dst a : WOp) (pN rep : Nat) (op : RedOp) (s : State) :
    Host.Outcome State Fault Refusal :=
  issueEngine (.vscan dst a pN rep op) .va s

/-- VCVT: it runs in VA. -/
def execVcvt (dst a : WOp) (cw : CvtWord) (sN pN rep : Nat) (s : State) :
    Host.Outcome State Fault Refusal :=
  issueEngine (.vcvt dst a cw sN pN rep) .va s

/-- VCVTS: it runs in VA. -/
def execVcvts (dst a : WOp) (cw : CvtWord) (sN pN rep : Nat) (s : State) :
    Host.Outcome State Fault Refusal :=
  issueEngine (.vcvts dst a cw sN pN rep) .va s

/-- VSCL: it runs in VA. -/
def execVscl (dst a b : WOp) (pN rep blk : Nat) (s : State) :
    Host.Outcome State Fault Refusal :=
  issueEngine (.vscl dst a b pN rep blk) .va s

/-- VPACK: it runs in VA. -/
def execVpack (dst a : WOp) (pN rep : Nat) (mode : PackMode) (s : State) :
    Host.Outcome State Fault Refusal :=
  issueEngine (.vpack dst a pN rep mode) .va s

/-- VUNPK: it runs in VA. -/
def execVunpk (dst a : WOp) (cw : CvtWord) (pN rep : Nat) (s : State) :
    Host.Outcome State Fault Refusal :=
  issueEngine (.vunpk dst a cw pN rep) .va s

/-- VQLN: it runs in VA. -/
def execVqln (dst a : WOp) (cw : CvtWord) (pN rep : Nat) (s : State) :
    Host.Outcome State Fault Refusal :=
  issueEngine (.vqln dst a cw pN rep) .va s

/-- TTAG: the tag changes at issue, and its VA entry has no other effect (R104). -/
def execTtag (tile : Nat) (fmt : Fmt) (scaled : Bool) (s : State) : Host.Outcome State Fault Refusal :=
  issueEngineWith (.ttag tile fmt scaled) .va (fun _ => false) (fun x => x.setTag tile ⟨fmt.tag, scaled⟩) s

/-- TTGET (R105). -/
def execTtget (sd tile : Nat) (s : State) : Host.Outcome State Fault Refusal :=
  issueReg (.ttget sd tile) s sd (fun x => toW (x.tag tile).byte)

/-- FMTMODE after FMTM (R106). -/
def fmtMerge (old mask v : Nat) : Nat := (old &&& (255 - mask % 256)) ||| (v &&& (mask % 256))

/-- FMTM: FMTMODE changes at issue, and its VA entry has no other effect (R106). -/
def execFmtm (sa mask : Nat) (s : State) : Host.Outcome State Fault Refusal :=
  issueEngineWith (.fmtm sa mask) .va
    (fun x => (x.reg sa).toNat &&& mask &&& 0x0E != 0 || !rndLegal s.feature (nbits (fmtMerge x.fmtmode mask (x.reg sa).toNat) 6 4))
    (fun x => { x with fmtmode := fmtMerge x.fmtmode mask (x.reg sa).toNat }) s

end Sys2Proof.Machine
end

