-- ==== Sys2Proof/Machine/Matrix.lean ====
section
/-! DEFINITION. The matrix engine (R223 to R241): operand and sparsity images, the MMA family at issue, the live list and the
stored chunks, exact chunk values, and the steps of the three jets. -/

namespace Sys2Proof

/-! ### Chunk values (R233 to R235) -/

/-- T of R235. -/
def lnTable (f : Nat) : Nat :=
  match f with
  | 0 => 0x8000
  | 1 => 0x9838
  | 2 => 0xB505
  | _ => 0xD745

/-- The number format of a matrix operand. -/
def MxFmt.fmt : MxFmt → Fmt
  | .fp8l => .fp8l
  | .fp8w => .fp8w
  | .bf16 => .bf16
  | .fp16 => .fp16
  | .ln6 => .ln6
  | .fp8ls => .fp8l
  | .fp8ws => .fp8w
  | .ln6s => .ln6

/-- An FP8 chunk value from its products that are not padding, scaled by 2^`e` (R234). -/
def fp8Chunk (fa fb : Fmt) (ps : List (Nat × Nat)) (e : Int) : Nat :=
  rne32 (((ps.map (fun p => Ex.mul (fa.value p.1) (fb.value p.2))).foldl (Ex.add false) (.num false (.dy 0 0))).scale e)

/-- An LN6 product in units of 2^−23; none for a NaN (R234). -/
def lnProduct (a b : Nat) : Option Int :=
  if (ln6Value a).isNan || (ln6Value b).isNan then none
  else if a = 0 ∨ b = 0 then some 0
  else
    let p := a % 32 + b % 32
    some (signInt (a.testBit 5 != b.testBit 5) (lnTable (p % 4) * 2 ^ (p / 4)))

/-- An LN6 chunk value from its products that are not padding, scaled by 2^`e` (R234). -/
def lnChunk (ps : List (Nat × Nat)) (e : Int) : Nat :=
  match ps.foldl (fun s p => match s, lnProduct p.1 p.2 with | some s, some v => some (s + v) | _, _ => none) (some 0) with
  | none => flt32.nan
  | some z => rne32 (.num (decide (z < 0)) (.dy z.natAbs (e - 23)))

/-- One level of the tree of FP32 additions of R234. -/
def treeLevel : List Nat → List Nat
  | a :: b :: l => add32 a b :: treeLevel l
  | l => l

/-- A BF16 or FP16 chunk value: each product rounded, padding +0, and the tree of additions (R234). -/
def treeChunk (fa fb : Fmt) (ps : List (Option (Nat × Nat))) : Nat :=
  let l := ps.map (fun p => match p with | some (a, b) => rne32 (Ex.mul (fa.value a) (fb.value b)) | none => 0)
  (treeLevel (treeLevel (treeLevel (treeLevel l)))).headD 0

/-- A chunk value from its products, none for padding, with the scale bytes of its row and column (R227, R233, R234). -/
def chunkValue (fa fb : MxFmt) (ps : List (Option (Nat × Nat))) (ea eb : Nat) : Nat :=
  let live := ps.filterMap (fun p => p)
  if fa.wide then treeChunk fa.fmt fb.fmt ps
  else if (ea == 255 || eb == 255) && !live.isEmpty then flt32.nan
  else if fa.fmt = .ln6 then lnChunk live ((ea : Int) + eb - 254)
  else fp8Chunk fa.fmt fb.fmt live ((ea : Int) + eb - 254)

end Sys2Proof

namespace Sys2Proof.Machine

/-! ### Operand images (R228 to R230, R240) -/

/-- The image that MXSA or MXSB writes (R228). -/
def newImage (x : Ctx) (src : MxSrc) (a b : Word) : MaImage :=
  match src with
  | .desc => { src := src, wa := a, wb := b, desc := x.desc (bits a 3 0), cap := x.descCap (x.desc (bits a 3 0)) }
  | _ => { src := src, wa := a, wb := b }

/-- MXSA (R229). -/
def execMxsa (ma sa sb : Nat) (src : MxSrc) (s : State) : Host.Outcome State Fault Refusal :=
  issueWith (.mxsa ma sa sb src) s (fun sl =>
    let x := sl.ctx
    if imageBad src (x.reg sa) (x.reg sb) then .fault (ctlFault 0x02 sl)
    else .done (s.setSlot s.curCore s.curSlot { sl with ctx := { x with ma := mput {} x.ma ma (newImage x src (x.reg sa) (x.reg sb)) } }))

/-- MXSB (R229). -/
def execMxsb (mb sa sb : Nat) (src : MxSrc) (s : State) : Host.Outcome State Fault Refusal :=
  issueWith (.mxsb mb sa sb src) s (fun sl =>
    let x := sl.ctx
    if imageBad src (x.reg sa) (x.reg sb) then .fault (ctlFault 0x02 sl)
    else .done (s.setSlot s.curCore s.curSlot { sl with ctx := { x with mb := mput {} x.mb mb (newImage x src (x.reg sa) (x.reg sb)) } }))

/-- MXSM (R230). -/
def execMxsm (ms sa : Nat) (mode : MsMode) (s : State) : Host.Outcome State Fault Refusal :=
  issueWith (.mxsm ms sa mode) s (fun sl =>
    let x := sl.ctx
    if msBad mode (x.reg sa) then .fault (ctlFault 0x02 sl)
    else .done (s.setSlot s.curCore s.curSlot
      { sl with ctx := { x with ms := mput 0 x.ms ms (toW (mode.code * 2 ^ 28 + (x.reg sa).toNat)) } }))

/-- The command of a slot that runs on a jet (R240). -/
def State.jetOf (s : State) (c k j : Nat) : Option Cmd :=
  (s.slotCmds c k).find? (fun x => x.eng == .mx && x.started && x.jet == j)

/-- WA of an image as MXRD returns it (R240). -/
def MaImage.waItem (m : MaImage) : Word := toW (m.src.code * 2 ^ 62 + bits m.wa 43 0)

/-- The value of MXRD (R240). -/
def mxItem (s : State) (c k : Nat) (x : Ctx) (item : MxItem) (n : Nat) : Word :=
  match item with
  | .rp => match s.jetOf c k n with | some m => toW m.mpc | none => 0
  | .stat => match s.jetOf c k n with | some m => toW (128 + (m.instr.mma?.map (fun a => a.acc)).getD 0) | none => 0
  | .wa => (mget {} x.ma n).waItem
  | .wb => (mget {} x.ma n).wb
  | .mbwa => (mget {} x.mb n).waItem
  | .mbwb => (mget {} x.mb n).wb
  | .ms => mget 0 x.ms n

/-- MXRD (R240). -/
def execMxrd (sd : Nat) (item : MxItem) (index : Nat) (s : State) : Host.Outcome State Fault Refusal :=
  issueReg (.mxrd sd item index) s sd (fun x => mxItem s s.curCore s.curSlot x item index)

/-! ### The MMA family at issue (R236, R237) -/

/-- MMA: it runs in MX. -/
def execMma (acc ma mb sK jet : Nat) (fa fb : MxFmt) (o : AccOrd) (s : State) : Host.Outcome State Fault Refusal :=
  issueEngine (.mma acc ma mb sK jet fa fb o) .mx s

/-- MMAS: it runs in MX. -/
def execMmas (acc ma mb sK jet : Nat) (fa fb : MxFmt) (o : AccOrd) (ms : Nat) (s : State) : Host.Outcome State Fault Refusal :=
  issueEngine (.mmas acc ma mb sK jet fa fb o ms) .mx s

/-- MMAL: it runs in MX. -/
def execMmal (acc ma mb sK jet : Nat) (fa fb : MxFmt) (o : AccOrd) (ms : Option Nat) (s : State) :
    Host.Outcome State Fault Refusal :=
  issueEngine (.mmal acc ma mb sK jet fa fb o ms) .mx s

/-- MMAZ: it runs in MX. -/
def execMmaz (acc ma mb sK jet : Nat) (fa fb : MxFmt) (o : AccOrd) (s : State) : Host.Outcome State Fault Refusal :=
  issueEngine (.mmaz acc ma mb sK jet fa fb o) .mx s

/-! ### Rows that MX reads raw (R224, R227, R231, R232) -/

/-- Row `i` of the tile file, counted over tiles. -/
def fileRow (i : Nat) : WOp := .h (i / 32 % 32) (i % 32)

/-- The tile of row `i` is EMPTY as the command sees it. -/
def rowEmpty (c : Cmd) (i : Nat) : Bool := (c.tileTag {} (i / 32)).code == 0x1F

/-- Byte `b` of row `i` of the tile file. -/
def Core.rowByte (co : Core) (i b : Nat) : Nat := elemOf (co.row (fileRow i)) 8 b

/-- The bitmap rows of a command. -/
def bitmapRows (c : Cmd) (k : Nat) : List Nat :=
  if msMode c.ms % 2 = 1 then (List.range (cdiv k 1024)).map (fun i => msBmap c.ms + i) else []

/-- The live list (R231). -/
def liveList (co : Core) (c : Cmd) (k : Nat) : List Nat :=
  if msMode c.ms % 2 = 1 then
    (List.range k).filter (fun i => (co.row (fileRow (msBmap c.ms + i / 1024))).getLsbD (i % 1024))
  else List.range k

/-- The stored chunks (R233). -/
def chunkCount (a : Mma) (c : Cmd) (live : Nat) : Nat := cdiv live (liveWidth a.fa c.ms)

/-- The live position that product `j` of chunk `ch` for column `n` takes (R233). -/
def productPos (co : Core) (a : Mma) (c : Cmd) (ch n j : Nat) : Nat :=
  let w := a.fa.chunk
  if 2 ≤ msMode c.ms then
    let nib := elemOf (co.row (fileRow (msIdx c.ms + 2 * ch + n / 16))) 4 (16 * (n % 16) + j / 2)
    4 * (ch * w / 2 + j / 2) + (if j % 2 = 0 then nib % 4 else nib / 4)
  else ch * w + j

/-- The A elements of chunk `ch` for column `n`, none for padding. -/
def productList (co : Core) (a : Mma) (c : Cmd) (live : List Nat) (ch n : Nat) : List (Option Nat) :=
  (List.range a.fa.chunk).map (fun j => live[productPos co a c ch n j]?)

/-- The scale byte of row or column `line` for chunk `q`; 127 for an unscaled format (R227). -/
def Core.scaleOf (co : Core) (f : MxFmt) (m : MaImage) (line q : Nat) : Nat :=
  if f.scaled then co.rowByte (maScl m + q / 4) (4 * line + q % 4) else 127

/-! ### Operands (R226, R229) -/

/-- Coordinates of byte `o` of A row or B column `line` in a descriptor. -/
def operandCoord (isB : Bool) (m : MaImage) (w line o : Nat) : Coord :=
  if isB then ⟨bits m.wb 31 0 + line, bits m.wb 63 32 + o / w, 0, 0⟩ else ⟨bits m.wb 31 0 + o / w, bits m.wb 63 32 + line, 0, 0⟩

/-- The window address or tensor byte of byte `o` of A row or B column `line`. -/
def operandAddr (isB : Bool) (m : MaImage) (w line o : Nat) : Nat :=
  match m.src with
  | .desc => bytePos m.desc (operandCoord isB m w line o)
  | _ => maLoc m / 32 * 32 + line * m.wb.toNat + o

/-- The `n` bytes at byte `o` of A row or B column `line`, from the tile file or from the memory rows read. -/
def operandBytes (co : Core) (mem : List (Nat × List Byte)) (isB : Bool) (m : MaImage) (w line o n : Nat) : List Byte :=
  match m.src with
  | .tile => ((rowBytes (co.row (.h ((maLoc m + o / 128) % 32) line))).drop (o % 128)).take n
  | _ =>
    let x := operandAddr isB m w line o
    match mem.find? (fun r => r.1 == x / 128) with
    | some r => (r.2.drop (x % 128)).take n
    | none => []

/-- The lines and bytes of an operand that a step reads: (line, byte) of each element of A, and of each column of B. -/
abbrev Reads := List (Nat × Nat)

/-- The fault of a descriptor operand (R229). -/
def operandRefused (isB : Bool) (f : MxFmt) (m : MaImage) (rs : Reads) : Option (Nat × Coord) :=
  let x0 := bits m.wb 31 0
  let x1 := bits m.wb 63 32
  let at0 : Coord := ⟨x0, x1, 0, 0⟩
  match m.src with
  | .desc =>
    match m.desc.refused m.cap with
    | some code => some (code, at0)
    | none =>
      if m.desc.layout ≠ (if isB then 4 else 0) ∨ m.desc.tag ≠ f.tag then some (0x05, at0)
      else if (if isB then x0 % 32 ≠ 0 ∨ x1 % 32 ≠ 0 else x0 * f.bytes % 32 ≠ 0) then some (0x0B, at0)
      else
        match rs.find? (fun r => !(operandCoord isB m f.bytes r.1 r.2).inside m.desc) with
        | some r => some (0x06, operandCoord isB m f.bytes r.1 r.2)
        | none => none
  | _ => none

/-- The aligned 128-byte rows of an operand in memory, each with a byte that is read in it. -/
def operandRows (isB : Bool) (f : MxFmt) (m : MaImage) (rs : Reads) : List (Nat × Nat × Nat) :=
  match m.src with
  | .tile => []
  | _ => rs.foldl (fun l r =>
      let x := operandAddr isB m f.bytes r.1 r.2 / 128
      if l.any (fun y => y.1 == x) then l else l ++ [(x, r)]) []

/-- What an MX read needs: A may not reach a CISTERN page, and B may reach any (R229). -/
def operandKind (isB : Bool) : AccKind := { kRead with rule := if isB then .any else .noCistern }

/-- The rows of an operand in the window, as pieces whose bytes stand from row `base` of the step's rows on (R145, R241). -/
def Slot.operandWindow (sl : Slot) (isB : Bool) (f : MxFmt) (m : MaImage) : Nat → List (Nat × Nat × Nat) → Except FaultRec (List Piece)
  | _, [] => .ok []
  | base, (x, r) :: xs =>
    match m.src with
    | .spad =>
      if sl.winSize < 128 * x + 128 then .error { code := 0x06, addr := operandAddr isB m f.bytes r.1 r.2 }
      else (sl.operandWindow isB f m (base + 1) xs).map (fun ps => sl.windowPiece (128 * x) 128 (128 * base) :: ps)
    | _ => .ok []

/-- The rows of an operand in an object, as spans whose bytes stand from row `base` of the step's rows on (R241). -/
def operandSpans (isB : Bool) (f : MxFmt) (m : MaImage) (base : Nat) (rows : List (Nat × Nat × Nat)) : List Span :=
  match m.src with
  | .desc =>
    rows.zipIdx.map (fun y =>
      let at_ := operandCoord isB m f.bytes y.1.2.1 y.1.2.2
      { cap := m.cap, off := m.desc.offset (128 * y.1.1), len := 128, kind := operandKind isB, from_ := 128 * (base + y.2),
        x0 := at_.x0, xhi := at_.high, tens := some (m.desc.handle, m.desc.base) })
  | _ => []

/-! ### A step of MX (R238, R241) -/

/-- What a step reads: chunk and row, the products of every column, and the bytes of A and of B: of B every stored value of the
chunk, those that padding discards among them (R238). -/
structure MxPlan where
  a     : Mma
  ch    : Nat
  row   : Nat
  prods : List (List (Option Nat))
  readA : Reads
  readB : Reads

/-- The plan of step `mpc` of a command with a live list. -/
def mxPlan (co : Core) (a : Mma) (c : Cmd) (live : List Nat) : MxPlan :=
  let ch := c.mpc / 32
  let prods := (List.range 32).map (fun n => productList co a c live ch n)
  let ks := (prods.flatMap (fun l => l.filterMap (fun k => k))).eraseDups
  { a := a, ch := ch, row := c.mpc % 32, prods := prods, readA := ks.map (fun k => (c.mpc % 32, k * a.fa.bytes)),
    readB := (List.range 32).flatMap (fun n => (List.range a.fa.chunk).map (fun j => (n, 32 * ch + j * a.fb.bytes))) }

/-- The tile-file rows that a step reads raw: index rows and scale rows (R227, R232). -/
def MxPlan.rawRows (p : MxPlan) (c : Cmd) : List Nat :=
  (if 2 ≤ msMode c.ms then [msIdx c.ms + 2 * p.ch, msIdx c.ms + 2 * p.ch + 1] else []) ++
    (if p.a.fa.scaled then [maScl c.ma + p.ch / 4] else []) ++ (if p.a.fb.scaled then [maScl c.mb + p.ch / 4] else [])

/-- The rows of the tile file that hold an operand's bytes. -/
def tileReads (m : MaImage) (rs : Reads) : List Nat :=
  match m.src with
  | .tile => (rs.map (fun r => (maLoc m + r.2 / 128) * 32 + r.1)).eraseDups
  | _ => []

/-- A tile that the step reads is EMPTY or mismatched (R224). -/
def MxPlan.tagBad (p : MxPlan) (c : Cmd) : Bool :=
  (!p.a.z && c.tileTag {} p.a.acc != tagF32) || (tileReads c.ma p.readA).any (fun i => c.tileTag {} (i / 32) != p.a.fa.tag) ||
    (tileReads c.mb p.readB).any (fun i => c.tileTag {} (i / 32) != p.a.fb.tag) || (p.rawRows c).any (rowEmpty c)

/-- A tile row that the step reads is uncorrectable. -/
def MxPlan.tileErr (p : MxPlan) (c : Cmd) (co : Core) : Bool :=
  (tileReads c.ma p.readA ++ tileReads c.mb p.readB ++ p.rawRows c).any (fun i => co.rowBad (fileRow i)) ||
    (!(p.a.z && p.ch == 0) && co.rowBad (.h p.a.acc p.row))

/-- The accumulator row after a step (R238). -/
def MxPlan.result (p : MxPlan) (c : Cmd) (co : Core) (memA memB : List (Nat × List Byte)) : Row :=
  let w := p.a.fa.bytes
  let ea := co.scaleOf p.a.fa c.ma p.row p.ch
  let old := co.row (.h p.a.acc p.row)
  elemsRow 32 (p.prods.zipIdx.map (fun l =>
    let n := l.2
    let col := operandBytes co memB true c.mb w n (32 * p.ch) 32
    let ps := l.1.zipIdx.map (fun (k : Option Nat × Nat) => k.1.map (fun e =>
      (leNat (operandBytes co memA false c.ma w p.row (e * w) w), leNat ((col.drop (k.2 * w)).take w))))
    let x := chunkValue p.a.fa p.a.fb ps ea (co.scaleOf p.a.fb c.mb n p.ch)
    if p.a.z && p.ch == 0 then x else add32 (elemOf old 32 n) x))

/-- The bytes of an operand's rows among those of a step, from row `base` on. -/
def operandMem (rows : List (Nat × Nat × Nat)) (base : Nat) (buf : List Byte) : List (Nat × List Byte) :=
  rows.zipIdx.map (fun y => (y.1.1, (buf.drop (128 * (base + y.2))).take 128))

/-- The fault of a step's operands before any access: a condition of R229, with its coordinates. -/
def MxPlan.refused (p : MxPlan) (cmd : Cmd) : Option FaultRec :=
  let bad := fun (m : MaImage) (e : Nat × Coord) => { cmd.plainFault e.1 with oid := m.cap.oid, x0 := e.2.x0, xhi := e.2.high }
  if p.tagBad cmd then some (cmd.plainFault 0x05)
  else ((operandRefused false p.a.fa cmd.ma p.readA).map (bad cmd.ma)).or ((operandRefused true p.a.fb cmd.mb p.readB).map (bad cmd.mb))

/-- The pieces of a step's rows in memory, A's before B's, after every check but those of the data: line by line of the table of R241.
The table does not rank A and B: within each line the fault of A comes first (DESIGN CHOICE). -/
def State.mxPieces (s : State) (c : Nat) (sl : Slot) (cmd : Cmd) (p : MxPlan) (ra rb : List (Nat × Nat × Nat)) : Except FaultRec (List Piece) :=
  match p.refused cmd, sl.operandWindow false p.a.fa cmd.ma 0 ra, sl.operandWindow true p.a.fb cmd.mb ra.length rb with
  | some f, _, _ => .error f
  | none, .error f, _ => .error f
  | none, .ok _, .error f => .error f
  | none, .ok wa, .ok wb =>
    (s.plan c sl.part .transfer (operandSpans false p.a.fa cmd.ma 0 ra ++ operandSpans true p.a.fb cmd.mb ra.length rb)).map
      (fun ps => wa ++ wb ++ ps)

/-- One step of an MX command whose sources and live list are known. -/
def State.mxStepWith (s : State) (c : Nat) (sl : Slot) (cmd : Cmd) (p : MxPlan) (n : Nat) : Option State :=
  let o := p.a.ord
  let ra := operandRows false p.a.fa cmd.ma p.readA
  let rb := operandRows true p.a.fb cmd.mb p.readB
  match s.mxPieces c sl cmd p ra rb with
  | .error f => some (s.engineFault c cmd f)
  | .ok ps =>
    match s.moveGate c sl.part o.scope (o.ord == .acq) false ps with
    | .fault f => some (s.engineFault c cmd f)
    | .wait => none
    | .ok _ =>
      if p.tileErr cmd (s.core c) then some (s.engineFault c cmd (cmd.plainFault 0x0E))
      else
        match readPieces (s.sendPieces sl.part o.scope false none ps) c c sl.part o.scope { evict := o.evict } ps with
        | (t, .error f) => some (t.engineFault c cmd f)
        | (t, .ok bs) =>
          let buf := scatter ps bs (zeros (128 * (ra.length + rb.length)))
          let u := t.residFill c sl.part o.scope false ps
          let co := (u.core c).putRow (.h p.a.acc p.row) (BitVec.allOnes 128)
            (p.result cmd (u.core c) (operandMem ra 0 buf) (operandMem rb ra.length buf))
          some ((u.setCore c co).advanceCmd c cmd n)

/-- One step of an MX command: its bitmap is read before the live list, and a command without a step completes (R224, R238). -/
def State.mxCmdStep (s : State) (c : Nat) (sl : Slot) (cmd : Cmd) (a : Mma) : Option State :=
  let co := s.core c
  let k := mmaK a.sK cmd.va a.fa cmd.ms
  let rows := bitmapRows cmd k
  if rows.any (rowEmpty cmd) then some (s.engineFault c cmd (cmd.plainFault 0x05))
  else if rows.any (fun i => co.rowBad (fileRow i)) then some (s.engineFault c cmd (cmd.plainFault 0x0E))
  else
    let live := liveList co cmd k
    let n := 32 * chunkCount a cmd live.length
    if n ≤ cmd.mpc then some (s.completeCmd c cmd) else s.mxStepWith c sl cmd (mxPlan co a cmd live) n

/-- The command that runs on a jet of a core. -/
def State.onJet (s : State) (c j : Nat) : Option Cmd := (s.core c).cmds.find? (fun x => x.eng == .mx && x.started && x.jet == j)

/-- The command reads an operand from memory. -/
def Cmd.mxMemory (c : Cmd) : Bool := c.ma.src != .tile || c.mb.src != .tile

/-- No earlier MX command of the slot still has reads on P3 that are in local order before those of the command (R175, R241). -/
def mxOrdered (cmds : List Cmd) (c : Cmd) : Bool :=
  !c.mxMemory || cmds.all (fun e => e.eng != .mx || e.marker || !e.mxMemory || decide (c.seq ≤ e.seq) ||
    !localOrder (cmdOrd e.instr).1 (cmdOrd e.instr).2 (cmdOrd c.instr).1 (cmdOrd c.instr).2)

/-- MX_STEP: one step of the command on a jet. -/
def execMxStep (core jet : Nat) (s : State) : Host.Outcome State Fault Refusal :=
  if 64 < core ∨ 2 < jet then .fault .noUnit
  else
    match s.onJet core jet with
    | none => .next s
    | some cmd =>
      match s.slot? core cmd.slot with
      | none => .next s
      | some sl =>
        let mine := s.slotCmds core cmd.slot
        if mayWork sl mine cmd && hazardFree mine cmd && mxOrdered mine cmd then
          match cmd.instr.mma?.bind (s.mxCmdStep core sl cmd) with
          | some t => .next t
          | none => .next s
        else .next s

/-- The jets that a command's hint allows, the lowest first (R223). -/
def jetsFor (a : Mma) : List Nat := if a.jet = 0 then [0, 1, 2] else [a.jet - 1]

/-- The jet that a command takes: the lowest free one that its hint allows (R223). -/
def State.freeJet (s : State) (c : Nat) (cmd : Cmd) : Option Nat :=
  cmd.instr.mma?.bind (fun a => (jetsFor a).find? (fun j => (s.onJet c j).isNone))

/-- MX_COMMAND_START: the oldest ready head command starts, when a jet that its hint allows is free (R223). -/
def execMxCommandStart (core : Nat) (s : State) : Host.Outcome State Fault Refusal :=
  if 64 < core then .fault .noUnit
  else
    match s.firstReady core .mx with
    | some cmd =>
      match s.freeJet core cmd with
      | some j => .next (s.putCmd core { cmd with started := true, jet := j })
      | none => .next s
    | none => .next s

end Sys2Proof.Machine
end

