-- ==== Sys2Proof/Machine/Transfer.lean ====
section
/-! DEFINITION. XF and the engine commons (R243 to R266): issue, the steps of transfers, flags, the Rill and its fetches,
bindings, and weighted deficit arbitration. -/

namespace Sys2Proof.Machine

/-! ### Which command of XF may step (R29, R243, R249) -/

/-- The XF commands of a core, markers among them. -/
def State.xfCmds (s : State) (c : Nat) : List Cmd := (s.core c).cmds.filter (fun x => x.eng == .xf)

/-- The entries of XF that the same slot pushed before a command. -/
def earlierXf (cmds : List Cmd) (cmd : Cmd) : List Cmd :=
  cmds.filter (fun e => e.eng == .xf && !e.preMark && e.slot == cmd.slot && decide (e.seq < cmd.seq))

/-- ORD of the flag access of a command: a release, and an acquire too where the instruction's accesses are acquires (R247,
R249). -/
def flagOrd (i : Instr) : Ord2 := if Ord2.acquires (cmdOrd i).2 then .ar else .rel

/-- The command runs, or may start: it is the oldest ready head and one of the 4 channels is free (R29, R243). -/
def State.xfStarts (s : State) (c : Nat) (cmd : Cmd) : Bool :=
  cmd.started || (s.mayStart c cmd && decide (((s.xfCmds c).filter (fun e => e.started)).length < 4))

/-- An earlier command of the slot still has an access on the path that is in local order before one with this class and order
(R175, R249). -/
def xfWaits (cmds : List Cmd) (cmd : Cmd) (path cls : Nat) (ord : Ord2) : Bool :=
  path != 0 && (earlierXf cmds cmd).any (fun e =>
    let eo := cmdOrd e.instr
    (!e.paid && xfPath e.instr == path && localOrder eo.1 eo.2 cls ord) ||
      (xfFlag e.instr != 0 && path == 16 && localOrder eo.1 (flagOrd e.instr) cls ord))

/-- A step of an XF command with accesses on a path may be made now. -/
def State.xfMay (s : State) (c : Nat) (sl : Slot) (cmd : Cmd) (path : Nat) (ord : Ord2) : Bool :=
  let cls := (cmdOrd cmd.instr).1
  let mine := s.slotCmds c cmd.slot
  !cmd.marker && sl.saving.isNone && released sl.ctx cmd && sl.breaks.all (fun b => decide (cmd.seq < b)) &&
    !xfWaits mine cmd path cls ord && fencesPass sl mine path cls cmd.seq

/-- An event of XF command `idx` of a core: it starts, if it may, and `f` answers the new state, or none while its step is not
due. -/
def xfEvent (s : State) (c idx : Nat) (f : Slot → Cmd → Option State) : Host.Outcome State Fault Refusal :=
  if 64 < c then .fault .noUnit
  else
    match (s.xfCmds c)[idx]? with
    | none => .next s
    | some cmd =>
      match s.slot? c cmd.slot with
      | none => .next s
      | some sl => .next (if s.xfStarts c cmd then (s.startStep c cmd (f sl)).getD s else s)

/-! ### How a step of XF ends -/

/-- The commons kind on which a command runs. -/
def kindOf : Instr → Option EngKind
  | .bcpy (.object _) .. => some .bc
  | .ccmp .. => some .cp
  | .cdcp .. => some .cp
  | .ccoll .. => some .cl
  | _ => none

/-- The payload bytes of a commons command. -/
def Cmd.payload (c : Cmd) : Nat :=
  match c.instr with
  | .ccoll .. =>
    match c.list with
    | w :: _ => if bits w 3 0 = 3 then (bits w 20 16 + 1) * c.vc.toNat else c.vc.toNat
    | [] => c.vc.toNat
  | _ => c.vc.toNat

/-- The number of units of at most 64 KiB into which a command's work is cut. -/
def Cmd.units (c : Cmd) : Nat := max 1 (cdiv c.payload 65536)

/-- The unit in which the command's next step lies. -/
def Cmd.unitNow (c : Cmd) : Nat :=
  let m := match c.instr with
    | .ccmp .. => c.mpc % 2 ^ 32
    | .cdcp .. => c.mpc % 2 ^ 32 - 1
    | _ => c.mpc
  min (c.units - 1) (m / 512)

/-- The cost of unit `u` of a command. -/
def Cmd.unitCost (c : Cmd) (u : Nat) : Nat := max 128 (cdiv (min 65536 (c.payload - 65536 * u)) 128 * 128)

/-- A unit is one of a command. -/
def WorkUnit.of (u : WorkUnit) (core : Nat) (cmd : Cmd) : Bool := u.core == core && u.slot == cmd.slot && u.seq == cmd.seq

/-- The units that a command has finished leave its engine; all of them once its payload is done. -/
def State.doneUnits (s : State) (c : Nat) (cmd : Cmd) (all : Bool) : State :=
  match kindOf cmd.instr with
  | some _ => s.dropUnits (fun u => u.of c cmd && (all || decide (u.ix < cmd.unitNow)))
  | none => s

/-- A step of XF: the state after it, a fault with the state that it leaves, or a wait. A fault record with `hold` says that the
step waits for a route (R364). -/
inductive XRes where
  | ok (s : State)
  | fault (s : State) (f : FaultRec)
  | wait

/-- The state in which the command's payload or single step is done (R243). -/
def State.payDone (s : State) (c : Nat) (cmd : Cmd) : State :=
  let s := s.doneUnits c cmd true
  if xfFlag cmd.instr = 0 then s.completeCmd c cmd else s.putCmd c { cmd with paid := true, heldAt := none }

/-- The state after one more step, with the counter at `mpc`. -/
def State.xfAdvance (s : State) (c : Nat) (cmd : Cmd) (mpc : Nat) (last : Bool) : State :=
  if last then s.payDone c { cmd with mpc := mpc }
  else (s.putCmd c { cmd with mpc := mpc, heldAt := none }).doneUnits c { cmd with mpc := mpc } false

/-- The state after a step of XF that ended so. -/
def xfEnd (c : Nat) (cmd : Cmd) (r : XRes) (mpc : Nat) (last : Bool) : Option State :=
  match r with
  | .ok t => some (t.xfAdvance c cmd mpc last)
  | .fault t f => some (t.engineFault c cmd f)
  | .wait => none

/-! ### Sides of a transfer (R244, R250) -/

/-- Bytes that a step moves: in the window, or in an object, where `cist` says that only the Cistern will do; with the coordinates
of the linear element index that the instruction names, packed as for FLTINFO (R318), and the tensor of a descriptor. -/
inductive XSide where
  | window (addr : Nat)
  | object (cap : Cap) (off : Nat) (x0 : Nat := 0) (xhi : Nat := 0) (tens : Option (Nat × Nat) := none) (cist : Bool := false)
  deriving DecidableEq, Repr

/-- The side `n` bytes further on. -/
def XSide.at (x : XSide) (n : Nat) : XSide :=
  match x with
  | .window a => .window (a + n)
  | .object c o x h t z => .object c (o + n) x h t z

/-- A fault of an access at a side. -/
def XSide.fault (x : XSide) (code : Nat) (wr : Bool) : FaultRec :=
  match x with
  | .window a => { code := code, addr := a, wr := wr }
  | .object c o x h _ _ => { code := code, addr := o, wr := wr, oid := c.oid, x0 := x, xhi := h }

/-- The capability through which a side is reached; none for the window. -/
def XSide.cap (x : XSide) : Cap :=
  match x with
  | .window _ => {}
  | .object c .. => c

/-- An access of a step: `len` bytes of a side, read or written. -/
structure XAcc where
  side : XSide
  len  : Nat
  wr   : Bool := false
  deriving DecidableEq, Repr

/-- The range of window addresses is outside the window. -/
def offWindow (sl : Slot) (a n : Nat) : Bool := decide (sl.winSize < a + n)

/-- The fault of an access outside the window. -/
def XAcc.windowStop (sl : Slot) (x : XAcc) : Option FaultRec :=
  match x.side with
  | .window a => if offWindow sl a x.len then some (x.side.fault 0x06 x.wr) else none
  | .object .. => none

/-- The pieces of an access in the window. -/
def XAcc.windowPieces (sl : Slot) (x : XAcc) : List Piece :=
  match x.side with
  | .window a => if x.len = 0 then [] else [sl.windowPiece a x.len 0]
  | .object .. => []

/-- An access through a capability. -/
def XAcc.span? (x : XAcc) : Option Span :=
  match x.side with
  | .window _ => none
  | .object c o x0 xhi t z =>
    let k := if x.wr then kWrite else kRead
    some { cap := c, off := o, len := x.len, kind := if z then { k with rule := .onlyCistern } else k, x0 := x0, xhi := xhi, tens := t }

/-- The pieces of some accesses once every check but those of the data has passed, in the order of R251. -/
def State.xfPlan (s : State) (r : Nat) (sl : Slot) (xs : List XAcc) : Except FaultRec (List Piece) :=
  match xs.findSome? (XAcc.windowStop sl) with
  | some f => .error f
  | none => (s.plan r sl.part .transfer (xs.filterMap XAcc.span?)).map (fun ps => xs.flatMap (XAcc.windowPieces sl) ++ ps)

/-- The pieces of an access that was planned. -/
def planPieces (e : Except FaultRec (List Piece)) : List Piece :=
  match e with
  | .error _ => []
  | .ok ps => ps

/-- Ordering fields of an XFR instruction. -/
def xfOrd (i : Instr) : AccOrd :=
  match i with
  | .bget _ _ _ _ _ o _ => o
  | .bput _ _ _ _ _ o => o
  | .bcpy _ _ _ _ _ o => o
  | .bfill _ _ _ _ o _ => o
  | .xflag _ o => o
  | .bcan _ o => o
  | .rlpub _ _ _ _ _ o _ => o
  | .rlstp _ _ o => o
  | .rlqry _ _ o => o
  | .cbind _ _ o _ _ => o
  | .crel _ o _ _ => o
  | .ccoll _ _ _ _ _ o => o
  | .ccmp _ _ _ _ _ o _ => o
  | .cdcp _ _ _ _ _ o _ => o
  | .cstat _ _ o => o
  | _ => ⟨0, .plain, 0, 0⟩

/-- The region whose translation caches and gates the work of the Grotto on path P5 uses: the fontanier's (R19, R312). -/
def grottoRegion : Nat := 64

/-- The region whose translation caches and gates serve the payload of a command on core `c`. -/
def Cmd.via (cmd : Cmd) (c : Nat) : Nat := if xfPath cmd.instr = 32 then grottoRegion else c

/-- The data that a step reads, or how it ended before. -/
inductive XRead where
  | ok (s : State) (bs : List Byte)
  | res (r : XRes)

/-- Reading `reads` in a step that will write `also`: both are checked before anything moves (R249, R251). -/
def State.xfRead (s : State) (c : Nat) (sl : Slot) (cmd : Cmd) (scope : Nat) (reads also : List XAcc) : XRead :=
  let o := xfOrd cmd.instr
  let r := cmd.via c
  match s.xfPlan r sl (reads ++ also) with
  | .error f => .res (.fault s f)
  | .ok _ =>
    let rp := planPieces (s.xfPlan r sl reads)
    match s.moveGate r sl.part scope (Ord2.acquires o.ord) false rp,
      s.moveGate r sl.part o.scope (Ord2.acquires o.ord) true (planPieces (s.xfPlan r sl also)) with
    | .fault f, _ => .res (.fault s f)
    | .wait, _ => .res .wait
    | .ok _, .fault f => .res (.fault s f)
    | .ok _, .wait => .res .wait
    | .ok _, .ok _ =>
      match readPieces (s.sendPieces sl.part scope false none rp) c r sl.part scope { evict := o.evict } rp with
      | (t, .ok bs) => .ok t bs
      | (t, .error f) => .res (.fault t f)

/-- The bytes of a step stored at the pieces of a side; a pool slice that finds the token stale writes none of them (R251, R373). -/
def State.xfStore (s : State) (c : Nat) (sl : Slot) (cmd : Cmd) (side : XSide) (bs : List Byte) (ps : List Piece) : XRes :=
  let o := xfOrd cmd.instr
  match s.stalePiece sl.part o.scope side.cap ps with
  | some x => .fault (s.loseLease sl.part) (x.fault 0x0D true)
  | none =>
    .ok (writePieces (s.sendPieces sl.part o.scope true (capToken s sl.part side.cap) ps) c (cmd.via c) sl.part o.scope { evict := o.evict }
      (bs.map (fun b => (true, b))) ps)

/-- Writing the bytes of a step (R244). -/
def State.xfWrite (s : State) (c : Nat) (sl : Slot) (cmd : Cmd) (side : XSide) (bs : List Byte) : XRes :=
  let o := xfOrd cmd.instr
  let r := cmd.via c
  match s.xfPlan r sl [⟨side, bs.length, true⟩] with
  | .error f => .fault s f
  | .ok ps =>
    match s.moveGate r sl.part o.scope (Ord2.acquires o.ord) true ps with
    | .fault f => .fault s f
    | .wait => .wait
    | .ok _ => s.xfStore c sl cmd side bs ps

/-! ### Bulk transfers (R250 to R252) -/

/-- The size of a tensor's byte space (R250). -/
def Desc.space (d : Desc) : Nat := bytePos d ⟨d.ext 0 - 1, d.ext 1 - 1, d.ext 2 - 1, d.ext 3 - 1⟩ + d.bytesPer

/-- The byte position of linear element `e`. -/
def Desc.elemPos (d : Desc) (e : Nat) : Nat := bytePos d (elemCoord d e)

/-- A descriptor span of `n` bytes from linear element `e` leaves the byte space (R149, R250). -/
def Desc.spanLeaves (d : Desc) (e n : Nat) : Bool := decide (d.elems ≤ e) || decide (d.space < d.elemPos e + n)

/-- The memory side of BGET and BPUT. -/
def memSide (cmd : Cmd) (m : XMem) : XSide :=
  match m with
  | .cap _ => .object cmd.cap cmd.va.toNat
  | .desc _ =>
    let x := elemCoord cmd.desc cmd.va.toNat
    .object cmd.cap (cmd.desc.offset (cmd.desc.elemPos cmd.va.toNat)) x.x0 x.high (some (cmd.desc.handle, cmd.desc.base))

/-- The local side of BGET: none for the Reservoir alone. -/
def localSide (cmd : Cmd) (dest : GetDest) : Option XSide :=
  match dest with
  | .spad => some (.window cmd.vb.toNat)
  | .rsv => none
  | .cist =>
    let x := elemCoord cmd.desc2 (bits cmd.vb 59 0)
    some (.object cmd.cap2 (cmd.desc2.offset (cmd.desc2.elemPos (bits cmd.vb 59 0))) x.x0 x.high none true)

/-- The length operand of a transfer. -/
def Cmd.len (c : Cmd) : Nat := c.vc.toNat

/-- Blocks of 128 bytes in `n` bytes. -/
def blocks (n : Nat) : Nat := cdiv n 128

/-- The fault that a descriptor side of a transfer raises at step 0, at linear element `e` through `cap`. -/
def Cmd.spanFault (cmd : Cmd) (d : Desc) (cap : Cap) (e code : Nat) : FaultRec :=
  { cmd.plainFault code with oid := cap.oid, x0 := (elemCoord d e).x0, xhi := (elemCoord d e).high }

/-- The checks of step 0 of a bulk transfer (R251, R252): those of the first line of the table for every side, then those
of its second line. -/
def bulkRefused (sl : Slot) (cmd : Cmd) : Option FaultRec :=
  let n := cmd.len
  let a := cmd.va.toNat
  let b := cmd.vb.toNat
  let window := fun (x : Nat) => if offWindow sl x n then some ((XSide.window x).fault 0x06 false) else none
  let span := fun (d : Desc) (cap : Cap) (e : Nat) => if d.spanLeaves e n then some (cmd.spanFault d cap e 0x06) else none
  let held := fun (d : Desc) (cap : Cap) (e : Nat) => (d.refused cap).map (cmd.spanFault d cap e)
  let mem := fun (m : XMem) => match m with | .cap _ => none | .desc _ => span cmd.desc cmd.cap a
  let memHeld := fun (m : XMem) => match m with | .cap _ => none | .desc _ => held cmd.desc cmd.cap a
  let c := bits cmd.vb 59 0
  if 2 ^ 40 ≤ n then some (cmd.plainFault 0x06)
  else
    match cmd.instr with
    | .bget m _ _ _ _ _ .spad => window b <|> mem m <|> memHeld m
    | .bget m _ _ _ _ _ .rsv => mem m <|> memHeld m
    | .bget m _ _ _ _ _ .cist => mem m <|> span cmd.desc2 cmd.cap2 c <|> memHeld m <|> held cmd.desc2 cmd.cap2 c
    | .bput m .. => window b <|> mem m <|> memHeld m
    | .bcpy .spad .. => window a <|> window b
    | .bfill .spad .. => window a
    | _ => none

/-- What a bulk transfer moves: from where, to where (nowhere when only the Reservoir is filled), and the byte that BFILL
writes. -/
structure Move where
  src  : Option XSide
  dst  : Option XSide
  fill : Byte := 0
  rev  : Bool := false

/-- The transfer of a bulk command. -/
def Cmd.move? (cmd : Cmd) : Option Move :=
  let a := cmd.va.toNat
  let b := cmd.vb.toNat
  let rev := decide (a < b) && decide (b < a + cmd.len)
  match cmd.instr with
  | .bget m _ _ _ _ _ d => some { src := some (memSide cmd m), dst := localSide cmd d }
  | .bput m .. => some { src := some (.window b), dst := some (memSide cmd m) }
  | .bcpy .spad .. => some { src := some (.window a), dst := some (.window b), rev := rev }
  | .bcpy (.object _) .. => some { src := some (.object cmd.cap a), dst := some (.object cmd.cap b), rev := rev }
  | .bfill .spad _ _ _ _ v => some { src := none, dst := some (.window a), fill := BitVec.ofNat 8 v }
  | .bfill (.object _) _ _ _ _ v => some { src := none, dst := some (.object cmd.cap a), fill := BitVec.ofNat 8 v }
  | _ => none

/-- What a step of BGET or BPUT through a descriptor sets in the residency table of its core's region, for the tiles of its memory
side: L2 or RSV, and SP for a BGET into the scratchpad (R277). -/
def State.moveFill (s : State) (c : Nat) (sl : Slot) (cmd : Cmd) (scope : Nat) (xs : List XAcc) : State :=
  let ps := planPieces (s.xfPlan (cmd.via c) sl xs)
  let s := s.residFill c sl.part scope false ps
  match cmd.instr with
  | .bget (.desc _) _ _ _ _ _ .spad => (ps.filterMap (fun x => x.tile)).foldl (fun s t => s.residSet c t.1 t.2 resSP sl.task) s
  | _ => s

/-- The SCOPE at which a transfer reads: a BGET into the Reservoir alone fills no L2 slice, and reads no pool copy past it (R250). -/
def Cmd.readScope (cmd : Cmd) : Nat :=
  match cmd.instr with
  | .bget _ _ _ _ _ o .rsv => max 3 (min o.scope 4)
  | i => (xfOrd i).scope

/-- One step of a bulk transfer whose checks of step 0 have passed: bytes [lo, lo + n) of it (R250, R252). -/
def State.moveBytes (s : State) (c : Nat) (sl : Slot) (cmd : Cmd) (v : Move) (lo n : Nat) : XRes :=
  let reads := (v.src.map (fun x => ({ side := x.at lo, len := n } : XAcc))).toList
  let also := (v.dst.map (fun x => ({ side := x.at lo, len := n, wr := true } : XAcc))).toList
  match s.xfRead c sl cmd cmd.readScope reads also with
  | .res r => r
  | .ok t bs =>
    let r := match v.dst with
      | none => XRes.ok t
      | some d => t.xfWrite c sl cmd (d.at lo) (if v.src = none then List.replicate n v.fill else bs)
    match r with
    | .ok u => .ok (u.moveFill c sl cmd cmd.readScope (reads ++ also))
    | r => r

/-- One step of a bulk transfer (R250, R252). -/
def State.moveStep (s : State) (c : Nat) (sl : Slot) (cmd : Cmd) (v : Move) : Option State :=
  let k := blocks cmd.len
  match (if cmd.mpc = 0 then bulkRefused sl cmd else none) with
  | some f => some (s.engineFault c cmd f)
  | none =>
    let m := if v.rev then k - 1 - cmd.mpc else cmd.mpc
    let lo := 128 * m
    xfEnd c cmd (s.moveBytes c sl cmd v lo (min cmd.len (lo + 128) - lo)) (cmd.mpc + 1) (decide (k ≤ cmd.mpc + 1))

/-! ### The engine commons: arbitration and bindings (R258 to R262) -/

/-- Engines of a kind before it in the order of CSTAT. -/
def kindBase : EngKind → Nat
  | .bc => 0
  | .cp => 8
  | .cl => 12

/-- The code of a kind. -/
def kindCode : EngKind → Nat
  | .bc => 0
  | .cp => 1
  | .cl => 2

/-- Engines of a kind that one partition, and that all partitions, may bind. -/
def kindLimits : EngKind → Nat × Nat
  | .bc => (2, 4)
  | .cp => (1, 2)
  | .cl => (1, 2)

/-- The arbiter of a kind. -/
def Grotto.arb (g : Grotto) : EngKind → Arbiter
  | .bc => g.bulk
  | .cp => g.compress
  | .cl => g.collect

/-- The Grotto with the arbiter of a kind replaced. -/
def Grotto.setArb (g : Grotto) (k : EngKind) (a : Arbiter) : Grotto :=
  match k with
  | .bc => { g with bulk := a }
  | .cp => { g with compress := a }
  | .cl => { g with collect := a }

/-- The bindings that stand at a tick. -/
def State.bound (s : State) (k : EngKind) : List Binding :=
  s.grotto.bindings.filter (fun b => b.kind == k && decide (s.tick < b.till))

/-- The lease of a binding: 50 µs. -/
def bindLease : Nat := 50000

/-- Bindings end: each engine finishes the unit that it serves, which shared arbitration then serves first, and the units still queued
for it pass there in their order (R260). -/
def State.endBindings (s : State) (sel : Binding → Bool) : State :=
  (s.grotto.bindings.filter sel).foldl (fun s b => s.modGrotto (fun g =>
    let a := g.arb b.kind
    ({ g with bindings := g.bindings.filter (fun x => !(x.kind == b.kind && x.index == b.index)) }).setArb b.kind
      { a with granted := b.queue.take 1 ++ a.granted, pending := a.pending ++ b.queue.drop 1 })) s

/-- Bindings whose lease has run out end (R260). -/
def State.endExpired (s : State) : State := s.endBindings (fun b => decide (b.till ≤ s.tick))

/-- The unit in service on a bound engine, or one of those that the unbound engines of its kind serve: they take the granted units in
the order granted (R258, R260). -/
def State.inService (s : State) (k : EngKind) (u : WorkUnit) : Bool :=
  (s.bound k).any (fun b => b.queue.head? == some u) || ((s.grotto.arb k).granted.take (k.count - (s.bound k).length)).contains u

/-- The unit of a command's next step, where it has reached its resource. -/
def State.unitOf? (s : State) (k : EngKind) (c : Nat) (cmd : Cmd) : Option WorkUnit :=
  ((s.grotto.arb k).pending ++ (s.grotto.arb k).granted ++ (s.bound k).flatMap (fun b => b.queue)).find? (fun u =>
    u.of c cmd && u.ix == cmd.unitNow)

/-- The bound engine with the fewest queued units, the lowest index on a tie (R260). -/
def fewest : List Binding → Option Binding
  | [] => none
  | b :: bs =>
    match fewest bs with
    | some e => if e.queue.length < b.queue.length ∨ (e.queue.length = b.queue.length ∧ e.index < b.index) then some e else some b
    | none => some b

/-- A commons command reaches its resource: its units queue for a bound engine of its partition, else for shared arbitration (R258,
R260). -/
def State.queueUnits (s : State) (k : EngKind) (c p : Nat) (cmd : Cmd) : State :=
  let us := ((List.range cmd.units).drop cmd.unitNow).map (fun i =>
    ({ part := p, core := c, slot := cmd.slot, seq := cmd.seq, cost := cmd.unitCost i, ix := i } : WorkUnit))
  match fewest ((s.bound k).filter (fun b => b.part == p)) with
  | some e =>
    s.modGrotto (fun g => { g with
      bindings := g.bindings.map (fun b => if b.kind = k ∧ b.index = e.index then { b with queue := b.queue ++ us } else b) })
  | none => s.modGrotto (fun g => g.setArb k { g.arb k with pending := (g.arb k).pending ++ us })

/-- How a commons command stands before its next step. -/
inductive UnitRes where
  /-- The unit of its next step is in service, or it needs none. -/
  | serve
  | waits
  /-- Its units have just reached the resource. -/
  | queued (s : State)

/-- A commons command before its next step (R258, R260). -/
def State.unitState (s : State) (c : Nat) (sl : Slot) (cmd : Cmd) : UnitRes :=
  match kindOf cmd.instr with
  | none => .serve
  | some k =>
    match s.unitOf? k c cmd with
    | some u => if s.inService k u then .serve else .waits
    | none => .queued ((s.putCmd c cmd).queueUnits k c sl.part cmd)

/-- The units of partition `p` that a deficit pays for, in their order: those granted, those left, and the deficit left. -/
def payUnits (p : Nat) : Nat → List WorkUnit → List WorkUnit × List WorkUnit × Nat
  | d, [] => ([], [], d)
  | d, u :: us =>
    if u.part = p ∧ u.cost ≤ d then
      let (g, l, r) := payUnits p (d - u.cost) us
      (u :: g, l, r)
    else if u.part = p then ([], u :: us, d)
    else
      let (g, l, r) := payUnits p d us
      (g, u :: l, r)

/-- One partition's turn in a round, with its weight (R258). -/
def Arbiter.turn (a : Arbiter) (p w : Nat) : Arbiter :=
  if a.pending.any (fun u => u.part == p) then
    let r := payUnits p (mget 0 a.deficit p + 4096 * w) a.pending
    { deficit := mput 0 a.deficit p r.2.2, pending := r.2.1, granted := a.granted ++ r.1 }
  else { a with deficit := mput 0 a.deficit p 0 }

/-- A round of an arbiter with the partitions' weights. The loop of R258 ends at partition 63; the fontanier's own units, of which it
says nothing, take their turn after it as those of number 64, with the reset weights (log entry 83, DESIGN CHOICE). -/
def Arbiter.round (a : Arbiter) (w : Nat → Nat) : Arbiter := (List.range 65).foldl (fun a p => a.turn p (w p)) a

/-- A round of the arbiter of a commons kind. -/
def State.arbRound (s : State) (k : EngKind) : State :=
  let s := s.endExpired
  s.modGrotto (fun g => g.setArb k ((g.arb k).round (fun p => bits (s.part p).xwgt 7 0)))

/-- The requests that are outstanding on conduits and have no bandwidth granted yet, each a unit of 128 bytes, in the order in which
they were sent. -/
def State.conduitUnits (s : State) : List WorkUnit :=
  let sent := s.slots.flatMap (fun x => (x.2.2.p0.filter (fun a => a.req.conduit?.isSome)).map (fun a =>
    ((a.sentAt.getD 0, { part := x.2.2.part, cost := 128, core := x.1, slot := x.2.1, seq := a.seq }) : Nat × WorkUnit)))
  ((sortBy (fun (a b : Nat × WorkUnit) => decide (a.1 ≤ b.1)) sent).map (fun x => x.2)).filter (fun u => !s.grotto.conduitA.granted.contains u)

/-- A round for conduit bandwidth. The model does not count the time of a message, so a grant orders the requests and delays none of
them (log entry 33). -/
def State.conduitRound (s : State) : State :=
  let us := s.conduitUnits
  let live := fun (u : WorkUnit) => s.slots.any (fun x => x.1 == u.core && x.2.1 == u.slot && x.2.2.p0.any (fun a => a.seq == u.seq && a.req.conduit?.isSome))
  s.modGrotto (fun g => { g with
    conduitA := { g.conduitA with pending := us, granted := g.conduitA.granted.filter live }.round (fun p => bits (s.part p).xwgt 15 8) })

/-- A round for the Lemcon link: no unit is ever pending there, since the model does not count the time of the host's transfers (log
entry 33). -/
def State.lemconRound (s : State) : State :=
  s.modGrotto (fun g => { g with lemconA := g.lemconA.round (fun p => bits (s.part p).xwgt 23 16) })

/-- An engine granted to a partition, or its binding renewed with the units queued for it. -/
def State.bindEngine (s : State) (k : EngKind) (i p : Nat) : State :=
  s.modGrotto (fun g =>
    let same := fun (b : Binding) => b.kind == k && b.index == i
    { g with bindings := g.bindings.filter (fun b => !same b) ++
        [{ kind := k, index := i, part := p, till := s.tick + bindLease, queue := ((g.bindings.find? same).map (fun b => b.queue)).getD [] : Binding }] })

/-- The earliest-expiring of some bindings. -/
def earliest : List Binding → Option Binding
  | [] => none
  | b :: bs =>
    match earliest bs with
    | some e => if e.till < b.till then some e else some b
    | none => some b

/-- CBIND's answer: STATUS, the engine, and the state (R261). -/
def State.bindAnswer (s : State) (k : EngKind) (index p : Nat) : Nat × Nat × State :=
  let all := s.bound k
  let mine := all.filter (fun b => b.part == p)
  let full := decide ((kindLimits k).1 ≤ mine.length)
  let fullAll := decide ((kindLimits k).2 ≤ all.length)
  let free := (List.range k.count).filter (fun i => all.all (fun b => b.index != i))
  if index = 0xFF then
    match free with
    | i :: _ =>
      if !full && !fullAll then (0, i, s.bindEngine k i p)
      else
        match earliest mine with
        | some b => (1, b.index, s.bindEngine k b.index p)
        | none => (3, 0xFF, s)
    | [] =>
      match earliest mine with
      | some b => (1, b.index, s.bindEngine k b.index p)
      | none => (3, 0xFF, s)
  else if mine.any (fun b => b.index == index) then (1, index, s.bindEngine k index p)
  else if full then (2, 0xFF, s)
  else if fullAll || !free.contains index then (3, 0xFF, s)
  else (0, index, s.bindEngine k index p)

/-- CBIND's record (R261). -/
def bindRecord (k : EngKind) (status engine till : Nat) : List Byte :=
  leBytes 1 status ++ leBytes 1 (kindCode k) ++ leBytes 1 engine ++ leBytes 5 0 ++ leBytes 8 (if status < 2 then till else 0)

/-- The pending units of a partition for a commons kind: those at the arbiter, and those queued for its bound engines that are not in
service (R262; log entry 33). -/
def State.pendingUnits (s : State) (k : EngKind) (p : Nat) : Nat :=
  (s.grotto.arb k).pending.countP (fun u => u.part == p) +
    (((s.bound k).filter (fun b => b.part == p)).map (fun b => b.queue.length - 1)).sum

/-- CSTAT's record (R262). -/
def State.statRecord (s : State) (p : Nat) : List Byte :=
  let kinds := [EngKind.bc, .cp, .cl]
  let mine := kinds.flatMap (fun k => (s.bound k).filter (fun b => b.part == p))
  let all := (List.range 16).filterMap (fun i => mine.find? (fun b => kindBase b.kind + b.index == i))
  (List.range 16).flatMap (fun i => leBytes 1 (if mine.any (fun b => kindBase b.kind + b.index == i) then 1 else 0)) ++
    kinds.flatMap (fun k => leBytes 4 (s.pendingUnits k p)) ++ leBytes 4 0 ++
    (List.range 4).flatMap (fun i => leBytes 8 (match all[i]? with
      | some b => (kindBase b.kind + b.index) * 2 ^ 56 + b.till % 2 ^ 56
      | none => 0xFF * 2 ^ 56))

/-! ### CCOLL (R263) -/

/-- The list's word 0 is malformed. -/
def listMalformed (w : Word) : Bool :=
  let op := bits w 3 0
  let tag := bits w 12 8
  bits w 63 21 != 0 || decide (15 < bits w 20 16) || bits w 15 13 != 0 || bits w 7 4 != 0 || decide (3 < op) ||
    (if op = 3 then tag != 0 else !(tag == 0 || tag == 2 || tag == 10 || tag == 11))

/-- The words of a list, of which word 0 is `w`. -/
def listLen (w : Word) : Nat := bits w 20 16 + 2

/-- The 64-bit words of bytes. -/
def bytesWords (n : Nat) (bs : List Byte) : List Word := (List.range n).map (fun i => toW (leNat ((bs.drop (8 * i)).take 8)))

/-- The capabilities of a list's inputs, each bound as CAPSEL would bind it, and the notes of the reads of their entries. -/
def State.bindInputs (s : State) (p : Nat) (user : Bool) (pc : Nat) : List Word → Except FaultRec (List Cap × List Note)
  | [] => .ok ([], [])
  | w :: ws =>
    let i := bits w 63 48
    if bits (s.part p).captn 16 0 ≤ i then .error { code := 0x06, addr := pc }
    else
      match s.gread grottoRegion p 2 (bits (s.part p).captb 47 12 * 4096 + 32 * i) 32 with
      | .error f => .error { f with addr := pc }
      | .ok (b, ns) =>
        match capselRefuse (Cap.ofBytes b) user with
        | some code => .error { code := code, addr := pc }
        | none =>
          match s.bindInputs p user pc ws with
          | .ok (cs, ms) => .ok (Cap.ofBytes b :: cs, ns ++ ms)
          | .error f => .error f

/-- Rights and bounds of a range at step 0. -/
def rangeFault (cap : Cap) (off n : Nat) (need : CapNeed) (wr : Bool) : Option FaultRec :=
  if !cap.grants need then some { code := 0x07, addr := off, wr := wr, oid := cap.oid }
  else if off < cap.lo ∨ cap.hi < off + n then some { code := 0x06, addr := off, wr := wr, oid := cap.oid }
  else none

/-- The element width in bytes of a list's operation; 1 for gather. -/
def listWidth (w : Word) : Nat := if bits w 3 0 = 3 then 1 else (⟨bits w 12 8, false⟩ : Tag).width / 8

/-- The checks of CCOLL's step 0 on a list that was read, with the inputs' capabilities. -/
def collectFault (cmd : Cmd) (ws : List Word) (caps : List Cap) : Option FaultRec :=
  match ws with
  | [] => none
  | w :: ins =>
    let n := if bits w 3 0 = 3 then (bits w 20 16 + 1) * cmd.len else cmd.len
    ((ins.zip caps).findSome? (fun x => rangeFault x.2 (bits x.1 47 0) cmd.len { r := true } false)).or
      (rangeFault cmd.cap cmd.va.toNat n { w := true } true)

/-- A range of the window read at step 0. -/
def State.windowRead (s : State) (c : Nat) (sl : Slot) (a n : Nat) : Except FaultRec (List Byte) :=
  if offWindow sl a n then .error { code := 0x06, addr := a }
  else if poisoned (s.core c).spadErr (sl.winBase + a) n then .error { code := 0x0E, addr := a }
  else .ok (rdBytes (s.core c).spad (sl.winBase + a) n)

/-- CCOLL's list as step 0 reads and checks it: its words, the inputs' capabilities, and the notes of their reads. -/
def State.readList (s : State) (c : Nat) (sl : Slot) (cmd : Cmd) : Except FaultRec (List Word × List Cap × List Note) :=
  let b := cmd.vb.toNat
  if b % 8 ≠ 0 then .error { code := 0x0B, addr := b }
  else
    match s.windowRead c sl b 8 with
    | .error f => .error f
    | .ok h =>
      let w := toW (leNat h)
      if listMalformed w then .error (cmd.plainFault 0x02)
      else
        match s.windowRead c sl b (8 * listLen w) with
        | .error f => .error f
        | .ok bs =>
          let ws := bytesWords (listLen w) bs
          let z := listWidth w
          if cmd.len % z ≠ 0 then .error (cmd.plainFault 0x0B)
          else
            match (ws.drop 1).find? (fun x => bits x 47 0 % z != 0) with
            | some x => .error { code := 0x0B, addr := bits x 47 0 }
            | none =>
              match s.bindInputs sl.part (cmd.level == .u) cmd.pc (ws.drop 1) with
              | .error f => .error f
              | .ok (caps, ns) =>
                match collectFault cmd ws caps with
                | some f => .error f
                | none => .ok (ws, caps, ns)

/-- Elements of `w` bits of bytes. -/
def bytesElems (w : Nat) (bs : List Byte) : List Nat :=
  (List.range (bs.length / (w / 8))).map (fun i => leNat ((bs.drop (w / 8 * i)).take (w / 8)))

/-- One output element of CCOLL from its inputs, in list order. -/
def collectElem (tag op : Nat) (xs : List Nat) : Nat :=
  match tagFmt tag, xs with
  | some f, x :: rest =>
    if f.isInt then
      match op with
      | 0 => xs.sum % 2 ^ 32
      | 1 => rest.foldl (int32Min (!f.signed)) x
      | _ => rest.foldl (int32Max (!f.signed)) x
    else
      let vs := rest.map f.value
      f.conv .rne false false 0 (vs.foldl (match op with | 0 => Ex.add false | 1 => Ex.min | _ => Ex.max) (f.value x))
  | _, _ => 0

/-- Output bytes of CCOLL for OP 0 to 2 from the bytes of each input. -/
def collectBytes (tag op : Nat) (bss : List (List Byte)) : List Byte :=
  let w := (⟨tag, false⟩ : Tag).width
  let rows := bss.map (bytesElems w)
  let n := (rows.map List.length).foldl max 0
  (List.range n).flatMap (fun j => leBytes (w / 8) (collectElem tag op (rows.map (fun r => r.getD j 0))))

/-- The ranges of the inputs that form output bytes [lo, lo + n) of CCOLL. -/
def collectReads (cmd : Cmd) (op lo n : Nat) : List XAcc :=
  ((cmd.list.drop 1).zip cmd.listCaps).zipIdx.filterMap (fun x =>
    let off := bits x.1.1 47 0
    if op = 3 then
      let a := max lo (x.2 * cmd.len)
      let b := min (lo + n) ((x.2 + 1) * cmd.len)
      if a < b then some { side := .object x.1.2 (off + (a - x.2 * cmd.len)), len := b - a } else none
    else some { side := .object x.1.2 (off + lo), len := n })

/-- The bytes of each of some accesses of `n` bytes, one after another. -/
def splitBytes (n : Nat) : Nat → List Byte → List (List Byte)
  | 0, _ => []
  | k + 1, bs => bs.take n :: splitBytes n k (bs.drop n)

/-- One step of CCOLL. The list is read at step 0, and again where a restored command does not hold it (log entry 12). -/
def State.collectStep (s : State) (c : Nat) (sl : Slot) (cmd : Cmd) : Option State :=
  match (if cmd.mpc = 0 ∨ cmd.list = [] then s.readList c sl cmd else .ok (cmd.list, cmd.listCaps, [])) with
  | .error f => some (s.engineFault c cmd f)
  | .ok (ws, caps, ns) =>
    let s := s.keepNotes grottoRegion sl.part ns
    let cmd := { cmd with list := ws, listCaps := caps }
    let w := ws.headD 0
    let op := bits w 3 0
    let total := cmd.payload
    let lo := 128 * cmd.mpc
    let n := min total (lo + 128) - lo
    let out : XSide := (XSide.object cmd.cap cmd.va.toNat).at lo
    let reads := collectReads cmd op lo n
    let r : XRes :=
      match s.xfRead c sl cmd (xfOrd cmd.instr).scope reads [⟨out, n, true⟩] with
      | .res r => r
      | .ok t bs => t.xfWrite c sl cmd out (if op = 3 then bs else collectBytes (bits w 12 8) op (splitBytes n reads.length bs))
    xfEnd c cmd r (cmd.mpc + 1) (decide (blocks total ≤ cmd.mpc + 1))

/-! ### CCMP and CDCP (R264, R265) -/

/-- The mask of a block, bit i for byte i. -/
def blockMask (bs : List Byte) : Nat := (bs.zipIdx.map (fun b => if b.1 = 0 then 0 else 2 ^ b.2)).sum

/-- The stream's bytes for a block (R264). -/
def packBlock (bs : List Byte) : List Byte := leBytes 16 (blockMask bs) ++ bs.filter (fun b => b != 0)

/-- Bits set in a mask. -/
def maskCount (m : Nat) : Nat := (List.range 128).countP (fun i => m.testBit i)

/-- The `n` bytes of a block from its mask and its non-zero bytes. -/
def unpackBlock (m : Nat) : Nat → Nat → List Byte → List Byte
  | 0, _, _ => []
  | n + 1, i, bs => if m.testBit i then bs.headD 0 :: unpackBlock m n (i + 1) (bs.drop 1) else 0 :: unpackBlock m n (i + 1) bs

/-- The sides that CCMP and CDCP read and write. -/
def streamSides (cmd : Cmd) (put : Bool) : XSide × XSide :=
  let o := XSide.object cmd.cap cmd.va.toNat
  let w := XSide.window cmd.vb.toNat
  if put then (w, o) else (o, w)

/-- The check of CCMP's register values at its first step: a length below 2^31, and for .put a source inside the window (R251,
R265). -/
def packRefused (sl : Slot) (cmd : Cmd) (put : Bool) (src : XSide) : Option FaultRec :=
  if cmd.mpc ≠ 0 then none
  else if 2 ^ 31 ≤ cmd.len then some (cmd.plainFault 0x06)
  else if put then XAcc.windowStop sl ⟨src, cmd.len, false⟩
  else none

/-- One range of a side read: its bytes and the state, or how the step ends. -/
def State.readOne (s : State) (c : Nat) (sl : Slot) (cmd : Cmd) (x : XSide) (n : Nat) : State × Except XRes (List Byte) :=
  match s.xfRead c sl cmd (xfOrd cmd.instr).scope [⟨x, n, false⟩] [] with
  | .res r => (s, .error r)
  | .ok t bs => (t, .ok bs)

/-- One step of CCMP: a block, or the header once every block is written. -/
def State.packStep (s : State) (c : Nat) (sl : Slot) (cmd : Cmd) (put : Bool) : Option State :=
  let (src, dst) := streamSides cmd put
  let u := cmd.len
  let k := cmd.mpc % 2 ^ 32
  let out := cmd.mpc / 2 ^ 32
  match packRefused sl cmd put src with
  | some f => some (s.engineFault c cmd f)
  | none =>
    if k < blocks u then
      match s.readOne c sl cmd (src.at (128 * k)) (min u (128 * k + 128) - 128 * k) with
      | (_, .error r) => xfEnd c cmd r cmd.mpc false
      | (t, .ok bs) =>
        let bs := packBlock bs
        xfEnd c cmd (t.xfWrite c sl cmd (dst.at (16 + out)) bs) ((out + bs.length) * 2 ^ 32 + k + 1) false
    else xfEnd c cmd (s.xfWrite c sl cmd dst (leBytes 8 u ++ leBytes 8 (16 + out))) ((out + 16) * 2 ^ 32 + k + 1) true

/-- Blocks of a stream passed over from offset `off`: the offset after `n` of them. With `whole` their bytes are read too, and
the last of them, of `tail` bytes when not zero, may set no tail bit. -/
def State.walkStream (s : State) (c : Nat) (sl : Slot) (cmd : Cmd) (src : XSide) (whole : Bool) (tail : Nat) :
    Nat → Nat → State × Except XRes Nat
  | 0, off => (s, .ok off)
  | n + 1, off =>
    match s.readOne c sl cmd (src.at off) 16 with
    | (t, .error r) => (t, .error r)
    | (t, .ok mb) =>
      let m := leNat mb
      let z := maskCount m
      if whole ∧ n = 0 ∧ tail ≠ 0 ∧ 2 ^ tail ≤ m then (t, .error (.fault t (cmd.plainFault 0x06)))
      else if whole then
        match t.readOne c sl cmd (src.at (off + 16)) z with
        | (u, .error r) => (u, .error r)
        | (u, .ok _) => u.walkStream c sl cmd src whole tail n (off + 16 + z)
      else t.walkStream c sl cmd src whole tail n (off + 16 + z)

/-- The output of CDCP does not fit its space. -/
def outFault (sl : Slot) (x : XSide) (n : Nat) : Option FaultRec :=
  match x with
  | .window _ => XAcc.windowStop sl ⟨x, n, true⟩
  | .object cap off .. => if off < cap.lo ∨ cap.hi < off + n then some (x.fault 0x06 true) else none

/-- Step 0 of CDCP reads the whole stream and checks it. -/
def State.checkStream (s : State) (c : Nat) (sl : Slot) (cmd : Cmd) (src dst : XSide) : XRes × Nat :=
  match s.readOne c sl cmd src 16 with
  | (_, .error r) => (r, 0)
  | (t, .ok h) =>
    let u := leNat (h.take 8)
    let z := leNat (h.drop 8)
    if 2 ^ 31 ≤ u ∨ cmd.len < u then (.fault t (cmd.plainFault 0x06), u)
    else
      match outFault sl dst u with
      | some f => (.fault t f, u)
      | none =>
        match t.walkStream c sl cmd src true (u % 128) (blocks u) 16 with
        | (_, .error r) => (r, u)
        | (v, .ok fin) => if fin = z then (.ok v, u) else (.fault v (cmd.plainFault 0x06), u)

/-- Step m + 1 of CDCP writes output block m; past the last block it only ends. -/
def State.unpackStep (s : State) (c : Nat) (sl : Slot) (cmd : Cmd) (src dst : XSide) (m : Nat) : XRes × Nat × Nat :=
  match s.readOne c sl cmd src 16 with
  | (_, .error r) => (r, 0, 0)
  | (t, .ok h) =>
    let u := leNat (h.take 8)
    let n := min u (128 * m + 128) - 128 * m
    match (if n = 0 then (t, .error (.ok t)) else t.walkStream c sl cmd src false 0 m 16) with
    | (_, .error r) => (r, u, n)
    | (t, .ok off) =>
      match t.readOne c sl cmd (src.at off) 16 with
      | (_, .error r) => (r, u, n)
      | (t, .ok mb) =>
        match t.readOne c sl cmd (src.at (off + 16)) (maskCount (leNat mb)) with
        | (_, .error r) => (r, u, n)
        | (t, .ok bs) => (t.xfWrite c sl cmd (dst.at (128 * m)) (unpackBlock (leNat mb) n 0 bs), u, n)

/-- One step of CDCP. -/
def State.expandStep (s : State) (c : Nat) (sl : Slot) (cmd : Cmd) (put : Bool) : Option State :=
  let (src, dst) := streamSides cmd put
  let k := cmd.mpc % 2 ^ 32
  let out := cmd.mpc / 2 ^ 32
  if k = 0 then
    let (r, u) := s.checkStream c sl cmd src dst
    xfEnd c cmd r 1 (decide (u = 0))
  else
    let (r, u, n) := s.unpackStep c sl cmd src dst (k - 1)
    xfEnd c cmd r (if n = 0 then cmd.mpc else (out + n) * 2 ^ 32 + k + 1) (decide (blocks u ≤ k))

/-! ### Payload steps and flags -/

/-- Every payload step of a command is done, as its counter shows. A compression always has its header step, and an expansion
its check (R265). -/
def Cmd.payloadOver (cmd : Cmd) : Bool :=
  match cmd.instr with
  | .ccmp .. => decide (blocks cmd.len < cmd.mpc % 2 ^ 32)
  | .cdcp .. => false
  | .ccoll .. => cmd.len == 0 || (decide (cmd.mpc ≠ 0) && cmd.list != [] && decide (blocks cmd.payload ≤ cmd.mpc))
  | _ => decide (blocks cmd.len ≤ cmd.mpc)

/-- The command has payload steps (R243). -/
def isPayload : Instr → Bool
  | .bget .. => true
  | .bput .. => true
  | .bcpy .. => true
  | .bfill .. => true
  | .ccoll .. => true
  | .ccmp .. => true
  | .cdcp .. => true
  | _ => false

/-- The check of the register values of a command without payload steps, which is made before its first step, that of its flag (R245). -/
def Cmd.emptyRefused (sl : Slot) (cmd : Cmd) : Option FaultRec :=
  if cmd.mpc ≠ 0 ∨ xfFlag cmd.instr = 0 then none
  else
    match cmd.instr with
    | .ccoll .. => if cmd.vb.toNat % 8 ≠ 0 then some { code := 0x0B, addr := cmd.vb.toNat } else none
    | _ => bulkRefused sl cmd

/-- The next payload step of a command whose unit is in service. -/
def State.payStep (s : State) (c : Nat) (sl : Slot) (cmd : Cmd) : Option State :=
  match cmd.instr with
  | .ccoll .. => s.collectStep c sl cmd
  | .ccmp _ _ _ _ _ _ put => s.packStep c sl cmd put
  | .cdcp _ _ _ _ _ _ put => s.expandStep c sl cmd put
  | _ => match cmd.move? with | some v => s.moveStep c sl cmd v | none => none

/-- One payload step of a command. -/
def State.payloadStep (s : State) (c : Nat) (sl : Slot) (cmd : Cmd) : Option State :=
  if cmd.payloadOver then
    match cmd.emptyRefused sl with
    | some f => some (s.engineFault c cmd f)
    | none => some (s.payDone c cmd)
  else
    let s := s.endExpired
    match s.unitState c sl cmd with
    | .waits => none
    | .queued t => some t
    | .serve => s.payStep c sl cmd

/-- XF_PAYLOAD_STEP. -/
def execXfPayloadStep (core idx : Nat) (s : State) : Host.Outcome State Fault Refusal :=
  xfEvent s core idx (fun sl cmd =>
    if isPayload cmd.instr && !cmd.paid && s.xfMay core sl cmd (xfPath cmd.instr) (cmdOrd cmd.instr).2 then
      s.payloadStep core sl cmd
    else none)

/-- FADD: the flag adds to the word (R247). -/
def Cmd.flagAdds (cmd : Cmd) : Bool := cmd.vf.getLsbD 59

/-- Where a flag lies, or the fault of its step (R247). -/
def State.flagTarget (s : State) (c : Nat) (sl : Slot) (cmd : Cmd) : Except FaultRec Target :=
  let off := bits cmd.vf 47 0
  if off % 8 ≠ 0 then .error { code := 0x0B, addr := off, wr := true, oid := cmd.capF.oid }
  else if bits cmd.vf 63 60 = 0 then
    if offWindow sl off 8 then .error { code := 0x06, addr := off, wr := true } else .ok { aper := .spad, addr := sl.winBase + off }
  else objAccess s c sl.part cmd.capF off 8 8 (if cmd.flagAdds then kAtom else kStore)

/-- The piece of a flag's access. -/
def Cmd.flagPiece (cmd : Cmd) (t : Target) : Piece :=
  { tgt := t, from_ := 0, len := 8, off := bits cmd.vf 47 0, oid := cmd.capF.oid }

/-- The flag reaches its target: a store of FVAL, or an atomic add (R247). -/
def State.flagStore (s : State) (c : Nat) (sl : Slot) (cmd : Cmd) (x : Piece) : XRes :=
  let scope := (xfOrd cmd.instr).scope
  let l := x.loc c c sl.part
  if cmd.flagAdds && s.locPoison l 8 scope then .fault (s.dropPoisoned l 8 scope) (x.fault 0x0E true)
  else
    let old := if cmd.flagAdds then leNat (s.locBytes l 8 scope) else 0
    let s := (s.sendPieces sl.part scope true (capToken s sl.part cmd.capF) [x]).keepNotes c sl.part x.tgt.notes
    let s := if cmd.flagAdds then s.afterRead l 8 scope {} else s
    .ok (s.storeAt l scope {} (leBytes 8 (old + bits cmd.vf 58 48)))

/-- The flag is written at its target, unless a gate, a route or a stale token prevents it (R247). -/
def State.flagWrite (s : State) (c : Nat) (sl : Slot) (cmd : Cmd) (t : Target) : XRes :=
  let scope := (xfOrd cmd.instr).scope
  let x := cmd.flagPiece t
  match s.moveGate c sl.part scope false true [x] with
  | .fault f => .fault s f
  | .wait => .wait
  | .ok _ =>
    match s.stalePiece sl.part scope cmd.capF [x] with
    | some y => .fault (s.loseLease sl.part) (y.fault 0x0D true)
    | none => s.flagStore c sl cmd x

/-- The flag step of a command whose other steps are done; it completes the command. -/
def State.flagStep (s : State) (c : Nat) (sl : Slot) (cmd : Cmd) : Option State :=
  match s.flagTarget c sl cmd with
  | .error f => some (s.engineFault c cmd f)
  | .ok t =>
    match s.flagWrite c sl cmd t with
    | .ok u => some (u.completeCmd c cmd)
    | .fault u f => some (u.engineFault c cmd f)
    | .wait => none

/-- FLAG_STEP. -/
def execFlagStep (core idx : Nat) (s : State) : Host.Outcome State Fault Refusal :=
  xfEvent s core idx (fun sl cmd =>
    if cmd.paid && s.xfMay core sl cmd 16 (flagOrd cmd.instr) then s.flagStep core sl cmd else none)

/-! ### The Rill (R255 to R257) -/

/-- A schedule entry. -/
structure RillEntry where
  step  : Nat
  cidx  : Nat
  cls   : Nat
  count : Nat
  first : Nat
  deriving DecidableEq, Repr

/-- The entry of 16 bytes (R255). -/
def RillEntry.ofBytes (b : List Byte) : RillEntry :=
  let n := fun lo k => leNat ((b.drop lo).take k)
  { step := n 0 4, cidx := n 4 2, cls := n 6 1 % 4, count := n 8 8 / 2 ^ 40, first := n 8 8 % 2 ^ 40 }

/-- The retention class that an entry's CLS gives. -/
def RillEntry.class (e : RillEntry) : Retain :=
  match e.cls with
  | 0 => .hot
  | 1 => .warm
  | 2 => .cold
  | _ => .stream

/-- Entry `i` of the published schedule, unless it cannot be read. -/
def State.rillEntry (s : State) (p i : Nat) : Option RillEntry :=
  let r := (s.part p).rill
  match s.plan grottoRegion p .transfer [{ cap := r.cap, off := r.off + 16 * i, len := 16, kind := kRead : Span }] with
  | .error _ => none
  | .ok ps =>
    match s.moveGate grottoRegion p 3 false false ps, readPieces s grottoRegion grottoRegion p 3 {} ps with
    | .ok _, (_, .ok bs) => some (RillEntry.ofBytes bs)
    | _, _ => none

/-- The entries of the schedule from index `i` up to `n` of them, ending at the first that cannot be read. -/
def State.rillEntries (s : State) (p : Nat) : Nat → Nat → List (Nat × RillEntry)
  | 0, _ => []
  | n + 1, i =>
    match s.rillEntry p i with
    | some e => (i, e) :: s.rillEntries p n (i + 1)
    | none => []

/-- The entries of the schedule that the Rill reads. -/
def State.schedule (s : State) (p : Nat) : List (Nat × RillEntry) :=
  if (s.part p).rill.pub then s.rillEntries p (s.part p).rill.count 0 else []

/-- The entries of the window, in schedule order: reading stops past CUR + k (R256). -/
def State.rillWindow (s : State) (p : Nat) : List (Nat × RillEntry) :=
  let r := (s.part p).rill
  ((s.schedule p).takeWhile (fun e => decide (e.2.step ≤ r.cur + r.k))).filter (fun e => decide (r.cur ≤ e.2.step))

/-- The capability of a schedule entry, bound as CAPSEL would bind it at the level of the task that published it. -/
def State.rillCap (s : State) (p cidx : Nat) : Except FaultRec Cap :=
  (s.bindInputs p ((s.part p).rill.level == .u) 0 [toW (cidx * 2 ^ 48)]).map (fun r => r.1.headD {})

/-- Where object tile `t` of an entry lies, or what its checks answer: the whole tile, 64 KiB, is fetched, so it must lie inside the
capability (log entry 84, DESIGN CHOICE). -/
def State.rillTarget (s : State) (p : Nat) (e : RillEntry) (t : Nat) : Except FaultRec Target :=
  match s.rillCap p e.cidx with
  | .error f => .error f
  | .ok c => objAccess s grottoRegion p c (t * 65536) 65536 65536 kRead

/-- A tile's bytes are resident: every line of a POOL tile has a live copy, and LOCAL tiles in the pinned reserve always are (R256,
R310). -/
def State.tileHere (s : State) (p : Nat) (t : Target) : Bool :=
  match t.aper with
  | .localPage => (s.part p).pinned.contains (t.addr / 2 ^ 21)
  | .pool => (linesOf t.addr 65536).all (fun k => (s.line? p k).isSome)
  | _ => false

/-- Tile `t` of an entry is resident. -/
def State.rillResident (s : State) (p : Nat) (e : RillEntry) (t : Nat) : Bool :=
  match s.rillTarget p e t with
  | .ok x => s.tileHere p x
  | .error _ => false

/-- The class under which the Rill keeps a tile of an entry: hot beyond the partition's limit acts as warm (R170, R256). -/
def State.rillClass (s : State) (p : Nat) (e : RillEntry) (t : Nat) : Retain :=
  if RillEntry.class e = .hot ∧ s.hotRoom p = false ∧
      (s.part p).lines.all (fun l => l.rill != some (e.cidx, t, .hot)) then .warm else RillEntry.class e

/-- A resident tile carries the class of its entry: its lines do, while a LOCAL page has none. -/
def State.rillMarked (s : State) (p : Nat) (e : RillEntry) (t : Nat) : Bool :=
  match s.rillTarget p e t with
  | .ok x => x.aper != .pool || (s.part p).lines.all (fun l => !(linesOf x.addr 65536).contains l.line || l.rill == some (e.cidx, t, s.rillClass p e t))
  | .error _ => true

/-- Up to `n` tiles of the window that are not skipped and are not resident under the class of their entry, in order: (entry index,
entry, tile). A tile that was skipped is not tried again while the schedule stands (log entry 84, DESIGN CHOICE). -/
def State.rillWanted (s : State) (p n : Nat) : List (Nat × RillEntry × Nat) :=
  ((s.rillWindow p).flatMap (fun e =>
    ((List.range e.2.count).filter (fun i =>
      !(s.part p).rill.lost.contains (e.1, e.2.first + i) &&
        !(s.rillResident p e.2 (e.2.first + i) && s.rillMarked p e.2 (e.2.first + i)))).map (fun i => (e.1, e.2, e.2.first + i)))).take n

/-- The Rill of a partition changed. -/
def State.modRill (s : State) (p : Nat) (f : Rill → Rill) : State := s.setPart p { s.part p with rill := f (s.part p).rill }

/-- An entry of the window names object tile `t` of the object with index `cidx`. -/
def State.rillNames (s : State) (p cidx t : Nat) : Bool :=
  (s.rillWindow p).any (fun e => e.2.cidx == cidx && decide (e.2.first ≤ t) && decide (t < e.2.first + e.2.count))

/-- Tiles that no entry of the window names any more return to warm (R256). -/
def State.rillTidy (s : State) (p : Nat) : State :=
  s.setPart p { s.part p with
    lines := (s.part p).lines.map (fun l =>
      match l.rill with
      | some x => if s.rillNames p x.1 x.2.1 then l else { l with rill := none, evict := Retain.evictOf ((s.part p).retain l.tile) 0 }
      | none => l) }

/-- The pieces of a tile as the Rill fetches it: the lines of a POOL tile, or a LOCAL page's tile as it stands. -/
def tilePieces (t : Target) : List Piece :=
  if t.aper = .pool then (linesOf t.addr 65536).map (fun k => { tgt := { t with addr := 128 * k }, from_ := 0, len := 128 })
  else [{ tgt := t, from_ := 0, len := 65536 }]

/-- One tile fetched into the Reservoir under the class of its entry, or counted as skipped; none while its requests cannot go out
(R256). Tiles of peers, which no Reservoir caches, are skipped. -/
def State.rillGet (s : State) (p : Nat) (w : Nat × RillEntry × Nat) : Option State :=
  let skip := s.modRill p (fun r => { r with lost := r.lost ++ [(w.1, w.2.2)] })
  match s.rillTarget p w.2.1 w.2.2 with
  | .error f => if f.hold.isSome then none else some skip
  | .ok t =>
    let l := t.loc grottoRegion p
    let ps := tilePieces t
    if t.aper ≠ .pool ∧ t.aper ≠ .localPage then some skip
    else
      match s.moveGate grottoRegion p 3 false false ps with
      | .fault f => if f.hold.isSome then none else some skip
      | .wait => none
      | .ok _ =>
        if s.locPoison l 65536 3 then some skip
        else
          some (((s.sendPieces p 3 false none ps).keepNotes grottoRegion p t.notes).afterRead l 65536 3
            { rill := some (w.2.1.cidx, w.2.2, s.rillClass p w.2.1 w.2.2) })

/-- The oldest grant of Rill service is served. -/
def State.rillServed (s : State) : State := s.modGrotto (fun g => { g with rillA := { g.rillA with granted := g.rillA.granted.drop 1 } })

/-- RILL_FETCH: the next tile of a partition's window, when the grant that is served next is the partition's (R256, R258). The 64 Rills
are those of the partitions (R19); no Rill serves the fontanier (log entry 83). -/
def execRillFetch (part : Nat) (s : State) : Host.Outcome State Fault Refusal :=
  if 63 < part then .fault .noUnit
  else if s.grotto.rillA.granted.head?.all (fun u => u.part != part) then .next s
  else
    match s.rillWanted part 1 with
    | w :: _ => .next (((s.rillGet part w).map State.rillServed).getD s)
    | [] => .next s.rillServed

/-- The units of Rill service for which a partition waits: tiles of 64 KiB that are wanted and have no grant. More than 20 never matter,
since one round pays for fewer. -/
def State.rillUnits (s : State) (p : Nat) : List WorkUnit :=
  let g := s.grotto.rillA.granted.countP (fun u => u.part == p)
  if p < 64 ∧ (s.part p).rill.pub then ((s.rillWanted p (g + 20)).drop g).map (fun _ => { part := p, cost := 65536 : WorkUnit }) else []

/-- A round for Rill service. -/
def State.rillRound (s : State) : State :=
  s.modGrotto (fun g => { g with
    rillA := { ({ g.rillA with pending := (List.range 64).flatMap s.rillUnits } : Arbiter).round (fun p => bits (s.part p).xwgt 31 24) with pending := [] } })

/-- ARBITER_ROUND (R258). -/
def execArbiterRound (res : Res) (s : State) : Host.Outcome State Fault Refusal :=
  match res with
  | .bulk => .next (s.arbRound .bc)
  | .compress => .next (s.arbRound .cp)
  | .collect => .next (s.arbRound .cl)
  | .conduit => .next s.conduitRound
  | .lemcon => .next s.lemconRound
  | .rill => .next s.rillRound

/-- BINDING_EXPIRY: a binding whose lease has run out ends (R260). -/
def execBindingExpiry (kind : EngKind) (index : Nat) (s : State) : Host.Outcome State Fault Refusal :=
  if kind.count ≤ index then .fault .noUnit
  else .next (s.endBindings (fun b => b.kind == kind && b.index == index && decide (b.till ≤ s.tick)))

/-- READY (R257). With no schedule published no tile is named, and it is k (log entry 85, DESIGN CHOICE). -/
def State.rillReady (s : State) (p : Nat) : Nat :=
  let r := (s.part p).rill
  let absent := (s.rillWindow p).filterMap (fun e =>
    if (List.range e.2.count).all (fun i => s.rillResident p e.2 (e.2.first + i)) then none else some (e.2.step - r.cur))
  match absent with
  | [] => r.k
  | j :: js => let m := js.foldl min j; if m = 0 then 0xFF else m - 1

/-- RLQRY's record (R257). With no schedule published it gives the step and the look-ahead as they last stood (log entry 85, DESIGN
CHOICE). -/
def State.rillRecord (s : State) (p : Nat) : List Byte :=
  let r := (s.part p).rill
  let left := (s.schedule p).countP (fun e => decide (r.cur ≤ e.2.step))
  leBytes 4 r.cur ++ leBytes 1 r.k ++ leBytes 1 (s.rillReady p) ++
    leBytes 1 (if !r.pub then 0 else if left = 0 then 2 else 1) ++ leBytes 1 0 ++ leBytes 8 r.lost.length ++ leBytes 8 left ++ leBytes 8 0

/-! ### Single steps (R243) -/

/-- A record written in the window, or 0x06 when some byte of it lies outside. -/
def State.writeRecord (s : State) (c : Nat) (sl : Slot) (a : Nat) (bs : List Byte) : XRes :=
  if offWindow sl a bs.length then .fault s { code := 0x06, addr := a, wr := true }
  else .ok (s.writeLoc { aper := .spad, addr := sl.winBase + a, core := c, part := sl.part } bs)

/-- A partition's schedule is withdrawn (R257). -/
def State.withdraw (s : State) (p : Nat) : State := (s.modRill p (fun r => { r with pub := false, lost := [] })).rillTidy p

/-- RLPUB at the Rill (R257). The fontanier has none: the checks are made there, and nothing is published (log entry 83, DESIGN
CHOICE). -/
def State.publish (s : State) (cmd : Cmd) (p k : Nat) : XRes :=
  let n := cmd.len
  if n = 0 then .ok (s.withdraw p)
  else if 65536 < n then .fault s { cmd.plainFault 0x06 with oid := cmd.cap.oid }
  else if !cmd.cap.grants { r := true } then .fault s { cmd.plainFault 0x07 with oid := cmd.cap.oid }
  else if p = fontanier then .ok s
  else
    .ok ((s.modRill p (fun _ => { pub := true, cap := cmd.cap, off := cmd.va.toNat, count := n, cur := bits cmd.vb 31 0, k := k,
                                  level := cmd.level })).rillTidy p)

/-- RLSTP at the Rill (R257). -/
def State.rillStep (s : State) (p cur : Nat) : State :=
  if (s.part p).rill.pub then (s.modRill p (fun r => { r with cur := max r.cur cur })).rillTidy p else s

/-- The single step of a command, but for XFLAG. -/
def State.singleStep (s : State) (c : Nat) (sl : Slot) (cmd : Cmd) : XRes :=
  let s := s.endExpired
  let p := sl.part
  let b := cmd.vb.toNat
  match cmd.instr with
  | .bcan .. => .ok s
  | .rlpub _ _ _ _ _ _ k => s.publish cmd p k
  | .rlstp .. => .ok (s.rillStep p (bits cmd.va 31 0))
  | .rlqry .. => s.writeRecord c sl b (s.rillRecord p)
  | .cbind _ _ _ kind index =>
    let (status, engine, t) := s.bindAnswer kind index p
    t.writeRecord c sl b (bindRecord kind status engine (s.tick + bindLease))
  | .crel _ _ kind index =>
    .ok (s.endBindings (fun x => x.kind == kind && x.part == p && (index == 0xFF || x.index == index)))
  | .cstat .. => s.writeRecord c sl b (s.statRecord p)
  | _ => .wait

/-- The single step of a command; that of XFLAG waits for every earlier command of the slot, and is its flag (R253). A restored
command whose counter has passed its step has only its flag left. -/
def State.xfSingle (s : State) (c : Nat) (sl : Slot) (cmd : Cmd) : Option State :=
  match cmd.instr with
  | .xflag .. => if earlierXf (s.slotCmds c cmd.slot) cmd = [] then s.flagStep c sl cmd else none
  | _ =>
    if 1 ≤ cmd.mpc then some (s.payDone c cmd)
    else
      match s.singleStep c sl cmd with
      | .ok t => some (t.xfAdvance c cmd 1 true)
      | .fault _ f => some (s.engineFault c cmd f)
      | .wait => none

/-- XF_SINGLE_STEP. -/
def execXfSingleStep (core idx : Nat) (s : State) : Host.Outcome State Fault Refusal :=
  xfEvent s core idx (fun sl cmd =>
    let path := match cmd.instr with | .xflag .. => 16 | i => xfPath i
    let ord := match cmd.instr with | .xflag .. => flagOrd cmd.instr | i => (cmdOrd i).2
    if !isPayload cmd.instr && !cmd.paid && s.xfMay core sl cmd path ord then s.xfSingle core sl cmd else none)

/-! ### Issue (R245) -/

/-- BGET. -/
def execBget (mem : XMem) (sa sb sc sF : Nat) (o : AccOrd) (dest : GetDest) (s : State) : Host.Outcome State Fault Refusal :=
  issueEngine (.bget mem sa sb sc sF o dest) .xf s

/-- BPUT. -/
def execBput (mem : XMem) (sa sb sc sF : Nat) (o : AccOrd) (s : State) : Host.Outcome State Fault Refusal :=
  issueEngine (.bput mem sa sb sc sF o) .xf s

/-- BCPY. -/
def execBcpy (sp : XSpace) (sa sb sc sF : Nat) (o : AccOrd) (s : State) : Host.Outcome State Fault Refusal :=
  issueEngine (.bcpy sp sa sb sc sF o) .xf s

/-- BFILL. -/
def execBfill (sp : XSpace) (sloc sc sF : Nat) (o : AccOrd) (byte : Nat) (s : State) : Host.Outcome State Fault Refusal :=
  issueEngine (.bfill sp sloc sc sF o byte) .xf s

/-- XFLAG. -/
def execXflag (sF : Nat) (o : AccOrd) (s : State) : Host.Outcome State Fault Refusal := issueEngine (.xflag sF o) .xf s

/-- The slot's XF commands issued before `seq` are cancelled: none of their steps is in progress, so they leave at once (R254). -/
def State.cancelXf (s : State) (c k seq : Nat) : State :=
  let s := s.dropUnits (fun u => u.core == c && u.slot == k && decide (u.seq < seq))
  (s.setCore c { s.core c with cmds := (s.core c).cmds.filter (fun x =>
    !(x.eng == .xf && x.slot == k && !x.marker && decide (x.seq < seq))) }).settle c k

/-- BCAN: it acts when it is pushed (R254). -/
def execBcan (sF : Nat) (o : AccOrd) (s : State) : Host.Outcome State Fault Refusal :=
  issueWith (.bcan sF o) s (fun sl =>
    match s.pushEngine (.bcan sF o) .xf (fun x => x) sl with
    | .done t => .done (t.cancelXf s.curCore s.curSlot sl.seq)
    | b => b)

/-- RLPUB. -/
def execRlpub (c sa sb sc sF : Nat) (o : AccOrd) (k : Nat) (s : State) : Host.Outcome State Fault Refusal :=
  issueEngine (.rlpub c sa sb sc sF o k) .xf s

/-- RLSTP. -/
def execRlstp (sa sF : Nat) (o : AccOrd) (s : State) : Host.Outcome State Fault Refusal := issueEngine (.rlstp sa sF o) .xf s

/-- RLQRY. -/
def execRlqry (sb sF : Nat) (o : AccOrd) (s : State) : Host.Outcome State Fault Refusal := issueEngine (.rlqry sb sF o) .xf s

/-- CBIND. -/
def execCbind (sb sF : Nat) (o : AccOrd) (kind : EngKind) (index : Nat) (s : State) : Host.Outcome State Fault Refusal :=
  issueEngine (.cbind sb sF o kind index) .xf s

/-- CREL. -/
def execCrel (sF : Nat) (o : AccOrd) (kind : EngKind) (index : Nat) (s : State) : Host.Outcome State Fault Refusal :=
  issueEngine (.crel sF o kind index) .xf s

/-- CCOLL. -/
def execCcoll (c sa sb sc sF : Nat) (o : AccOrd) (s : State) : Host.Outcome State Fault Refusal :=
  issueEngine (.ccoll c sa sb sc sF o) .xf s

/-- CCMP. -/
def execCcmp (c sa sb sc sF : Nat) (o : AccOrd) (put : Bool) (s : State) : Host.Outcome State Fault Refusal :=
  issueEngine (.ccmp c sa sb sc sF o put) .xf s

/-- CDCP. -/
def execCdcp (c sa sb sc sF : Nat) (o : AccOrd) (put : Bool) (s : State) : Host.Outcome State Fault Refusal :=
  issueEngine (.cdcp c sa sb sc sF o put) .xf s

/-- CSTAT. -/
def execCstat (sb sF : Nat) (o : AccOrd) (s : State) : Host.Outcome State Fault Refusal := issueEngine (.cstat sb sF o) .xf s

end Sys2Proof.Machine
end

