-- ==== Sys2Proof/Machine/Tasks.lean ====
section
/-! DEFINITION. Tasks, groups, timelines and residency (R267 to R292): the TSK instructions, and the events of dispatch,
pre-emption and slices (R272 to R275, R299, R300, R306, R307). -/

namespace Sys2Proof.Machine

/-! ### Continuation records (R267 to R269) -/

/-- The list entry of a READ word, if it is not all zero (R267, R268). -/
def readTile? (w : Word) : Option ReadTile :=
  if w = 0 then none else some { handle := bits w 15 0, tile := bits w 55 16, weight := bits w 63 56 }

/-- A field of a record. -/
def recField (b : List Byte) (at_ n : Nat) : Nat := leNat ((b.drop at_).take n)

/-- EXT of a record. -/
def recExt (b : List Byte) : Nat := recField b 60 4

/-- PIN of a record. -/
def recPin (b : List Byte) : Nat := recField b 25 1

/-- A record that R269's first line refuses. -/
def recordBad (b : List Byte) : Bool :=
  decide (2 ^ 49 ≤ recField b 0 8) || decide (8 ≤ recField b 18 1) || decide (32 ≤ recField b 19 1) ||
    decide (512 < recField b 20 4) || decide (128 ≤ recPin b) || (decide (64 ≤ recPin b) && recPin b != 0x7F) ||
    recField b 26 2 != 0 || (recExt b != 0 && (decide (recExt b < 64) || recExt b % 8 != 0))

/-- The task of a record with the words of its extended list; its id, parent and launch come later. -/
def taskOfRecord (p : Nat) (b : List Byte) (ext : List Word) : Task :=
  let n := recField b
  { id := 0, part := p, code := n 0 6, frame := toW (n 8 8), join := n 16 2, prio := n 18 1, banks := n 19 1 % 16,
    fmttrap := (n 19 1).testBit 4, sup := (n 0 8).testBit 48, spkib := n 20 4, group := n 24 1, pin := recPin b,
    reads := (bytesWords 4 (b.drop 28) ++ ext).filterMap readTile? }

/-! ### Reads at issue that may stall -/

/-- Reading `n` bytes through a capability at partition scope with acquire, for which the slot waits. -/
def State.readObj (s : State) (sl : Slot) (cap : Cap) (off n al : Nat) : ReadNow :=
  match objAccess s s.curCore sl.part cap off n al kLoad with
  | .error f => .fault s f
  | .ok t => s.readNow sl t n 3 off cap.oid

/-- The words of an extended list: up to `k` of them, before the first that is zero (R268). -/
def State.readExt (s : State) (sl : Slot) (cap : Cap) : Nat → Nat → List Word → ReadNow × List Word
  | 0, _, ws => (.ok s 0, ws)
  | k + 1, off, ws =>
    match s.readObj sl cap off 8 1 with
    | .ok t v => if v = 0 then (.ok t 0, ws) else t.readExt sl cap k (off + 8) (ws ++ [toW v])
    | r => (r, ws)

/-- The commands and accesses of a slot that its next instruction waits for are done (R185). -/
def State.quiet (s : State) (sl : Slot) : Bool := quietBefore sl (s.slotCmds s.curCore s.curSlot) sl.seq

/-- The task of a slot. -/
def State.taskOf (s : State) (sl : Slot) : Option Task := s.task? sl.part sl.task

/-! ### TSPAWN and TDEP (R285, R286) -/

/-- The fault of a record in a TSPAWN, after its must-be-zero fields (R269, R341). -/
def State.spawnFault (s : State) (sl : Slot) (b : List Byte) : Option Nat :=
  let pin := recPin b
  if recordBad b then some 0x02
  else if slotLevel s.curCore sl = .u ∧ ((recField b 0 8).testBit 48 ∨ pin ≠ 0x7F) then some 0x10
  else if pin ≠ 0x7F ∧ !s.holds sl.part pin then some 0x06
  else if pin ≠ 0x7F ∧ ((s.region pin).state = .held ∨ ((s.region pin).state = .reset ∧ (s.region pin).ret = .held)) then some 0x15
  else none

/-- The answer of a TSPAWN whose record passed its checks: the value of sd, and the state. -/
def State.spawn (s : State) (me : Task) (dep : Bool) (t : Task) : Word × State :=
  let edge := dep && !me.trig
  if !s.hasEntry t.part then (0, s)
  else if edge && decide (65535 ≤ t.join) then (BitVec.ofInt 64 (-2), s)
  else if edge && decide (64 ≤ me.edges.length) then (BitVec.ofInt 64 (-3), s)
  else
    let id := (s.part t.part).nextId
    let t := { t with parent := me.id, launch := me.launch, join := if edge then t.join + 1 else t.join }
    let s := if edge then s.putTask t.part { me with edges := me.edges ++ [id] } else s
    (toW id, s.enterTask t)

/-- TSPAWN (R285): it waits until every earlier access is performed. -/
def execTspawn (sd c sa sb : Nat) (dep : Bool) (s : State) : Host.Outcome State Fault Refusal :=
  issueWith (.tspawn sd c sa sb dep) s (fun sl =>
    let x := sl.ctx
    let cap := x.cap c
    let off := (x.reg sa).toNat
    if !s.quiet sl then .stall s
    else
      match s.readObj sl cap off 64 64 with
      | .fault t f => .lost t f
      | .stall t => .stall t
      | .ok s v =>
        let b := leBytes 64 v
        match s.spawnFault sl b, s.taskOf sl with
        | some code, _ => .fault (ctlFault code sl)
        | none, none => .stall s
        | none, some me =>
          let ext := if recExt b = 0 then (ReadNow.ok s 0, []) else s.readExt sl cap 60 (off + recExt b) []
          match ext with
          | (.fault t f, _) => .lost t f
          | (.stall t, _) => .stall t
          | (.ok s _, ws) =>
            let t := taskOfRecord sl.part b ws
            let t := if sb = 0 then t else { t with frame := x.reg sb }
            let (v, s) := s.spawn me dep t
            .done (s.writeReg s.curCore s.curSlot sd v))

/-- An edge from each of some sources to a dependant (R282). -/
def State.addEdges (s : State) (p dep : Nat) (srcs : List Nat) : State :=
  (srcs.foldl (fun s id => s.modTask p id (fun t => { t with edges := t.edges ++ [dep] })) s).modTask p dep
    (fun t => { t with join := t.join + srcs.length })

/-- TDEP's answer for its sources (none: task a unknown) and its dependant (R286). -/
def State.depend (s : State) (p b : Nat) (srcs : Option (List Nat)) : Word × State :=
  match s.task? p b with
  | none => (BitVec.ofInt 64 (-1), s)
  | some d =>
    if d.state ≠ .pending then (BitVec.ofInt 64 (-1), s)
    else
      match srcs with
      | none => (BitVec.ofInt 64 (-4), s)
      | some l =>
        let live := l.filter (fun id => match s.task? p id with | some t => !t.trig | none => false)
        if 65535 < d.join + live.length then (BitVec.ofInt 64 (-2), s)
        else if live.any (fun id => match s.task? p id with | some t => decide (64 ≤ t.edges.length) | none => false) then
          (BitVec.ofInt 64 (-3), s)
        else (toW live.length, s.addEdges p b live)

/-- TDEP (R286). -/
def execTdep (sd sa sb : Nat) (grp : Bool) (s : State) : Host.Outcome State Fault Refusal :=
  issueWith (.tdep sd sa sb grp) s (fun sl =>
    let a := (sl.ctx.reg sa).toNat
    let p := sl.part
    if grp && decide (255 < a) then .fault (ctlFault 0x06 sl)
    else
      let srcs : Option (List Nat) :=
        if grp then some (s.group p a).members
        else if sa = 0 then some [sl.task]
        else if a = 0 ∨ (s.part p).nextId ≤ a then none
        else some [a]
      let (v, s) := s.depend p (sl.ctx.reg sb).toNat srcs
      .done (s.writeReg s.curCore s.curSlot sd v))

/-! ### TEND, TTRIG, TYLD, TSELF, TPRIO (R287, R288) -/

/-- The issue checks of TEND (R132, R203). -/
def endChecks (x : Ctx) : Bool := x.pipe.isNone && x.bal.all (fun p => p.2 == 0)

/-- The slot that last issued. -/
def State.issued (s : State) (c k : Nat) : State := s.setCore c { s.core c with last := k }

/-- TEND: the slot waits for what was pushed before it, and the task then ends (R200). -/
def execTend (s : State) : Host.Outcome State Fault Refusal :=
  issueWith .tend s (fun sl =>
    if !endChecks sl.ctx then .fault (ctlFault 0x0F sl)
    else .left (((s.issued s.curCore s.curSlot).setSlot s.curCore s.curSlot { sl with phase := .ending }).settle s.curCore s.curSlot))

/-- TTRIG: the trigger takes effect once every earlier access is performed (R185, R282). -/
def execTtrig (s : State) : Host.Outcome State Fault Refusal :=
  issueWith .ttrig s (fun sl =>
    match s.taskOf sl with
    | some t =>
      if t.trig || sl.trigAt.isSome then .done s
      else .done ((s.setSlot s.curCore s.curSlot { sl with trigAt := some sl.seq }).settleTrig s.curCore s.curSlot)
    | none => .done s)

/-- TYLD: the pre-emption path, which begins once any pending transfer has happened (R287, R306). -/
def execTyld (s : State) : Host.Outcome State Fault Refusal :=
  issueWith .tyld s (fun sl =>
    if sl.ctx.pipe.isSome then .fault (ctlFault 0x0F sl)
    else .done (s.setSlot s.curCore s.curSlot { sl with phase := .preWait }))

/-- TSELF (R288). -/
def execTself (sd : Nat) (item : SelfItem) (s : State) : Host.Outcome State Fault Refusal :=
  issueWith (.tself sd item) s (fun sl =>
    let of := fun (f : Task → Word) => ((s.taskOf sl).map f).getD 0
    let v := match item with
      | .id => toW sl.task
      | .parent => of (fun t => toW t.parent)
      | .frame => of (fun t => t.frame)
      | .launch => of (fun t => toW t.launch)
    .done (s.writeReg s.curCore s.curSlot sd v))

/-- TPRIO's target: the issuing task, or a Pending or Ready one. -/
def State.prioTarget (s : State) (sl : Slot) (sa a : Nat) : Option Task :=
  if sa = 0 then s.taskOf sl
  else (s.task? sl.part a).bind (fun t => if t.state = .pending ∨ t.state = .ready then some t else none)

/-- TPRIO (R288). -/
def execTprio (sd sa sb : Nat) (s : State) : Host.Outcome State Fault Refusal :=
  issueWith (.tprio sd sa sb) s (fun sl =>
    let b := (sl.ctx.reg sb).toNat
    let own := ((s.taskOf sl).map (fun t => t.prio)).getD 0
    if 7 < b then .fault (ctlFault 0x02 sl)
    else if slotLevel s.curCore sl = .u ∧ own < b then .fault (ctlFault 0x10 sl)
    else
      match s.prioTarget sl sa (sl.ctx.reg sa).toNat with
      | none => .done (s.writeReg s.curCore s.curSlot sd (BitVec.ofInt 64 (-1)))
      | some t =>
        let t' := if t.state = .ready then { t with prio := b, order := s.clock } else { t with prio := b }
        .done ((s.putTask sl.part t').bump.writeReg s.curCore s.curSlot sd (toW t.prio)))

/-! ### Groups (R289) -/

/-- The group index of a group instruction. -/
def groupIndex (x : Ctx) (sa imm : Nat) : Nat := ((x.reg sa).toNat + imm) % 2 ^ 16

/-- GJOIN (R289). -/
def execGjoin (sd sa imm : Nat) (s : State) : Host.Outcome State Fault Refusal :=
  issueWith (.gjoin sd sa imm) s (fun sl =>
    let g := groupIndex sl.ctx sa imm
    if 255 < g then .fault (ctlFault 0x06 sl)
    else
      match s.taskOf sl with
      | none => .stall s
      | some t =>
        let r := s.joinCheck sl.part t g
        let s := if r = 0 then (s.joinGroup sl.part sl.task g).steer sl.part else s
        .done (s.writeReg s.curCore s.curSlot sd (toW r)))

/-- GLEAVE (R289). -/
def execGleave (sd sa imm : Nat) (s : State) : Host.Outcome State Fault Refusal :=
  issueWith (.gleave sd sa imm) s (fun sl =>
    let g := groupIndex sl.ctx sa imm
    if 255 < g then .fault (ctlFault 0x06 sl)
    else if (s.group sl.part g).members.contains sl.task then
      .done (((s.leaveGroup sl.part sl.task g).steer sl.part).writeReg s.curCore s.curSlot sd 0)
    else .done (s.writeReg s.curCore s.curSlot sd 1))

/-- The issuing task parks, its context as it stands (R270). -/
def State.parkOn (s : State) (sl : Slot) (w : Wait) : State :=
  (s.modTask sl.part sl.task (fun t => { t with wait := some w })).saveSlot s.curCore s.curSlot .parkedWait

/-- GBAR (R289): it waits until every command of the slot has completed and every earlier access is performed, and arrives. -/
def execGbar (sd sa imm : Nat) (s : State) : Host.Outcome State Fault Refusal :=
  issueWith (.gbar sd sa imm) s (fun sl =>
    let g := groupIndex sl.ctx sa imm
    let v := s.group sl.part g
    if 255 < g then .fault (ctlFault 0x06 sl)
    else if !v.members.contains sl.task || sl.ctx.pipe.isSome then .fault (ctlFault 0x0F sl)
    else if !((s.slotCmds s.curCore s.curSlot).all (fun x => x.marker) && sl.p0.isEmpty) then .stall s
    else
      let s := (s.writeReg s.curCore s.curSlot sd (toW v.phase)).setGroup sl.part g { v with arrived := v.arrived ++ [sl.task] }
      if v.arrived.length + 1 = v.members.length then .done ((s.releaseGroup sl.part g).steer sl.part)
      else .left ((s.stepOver s.curCore s.curSlot).parkOn sl (.barrier g)))

/-- GMEM (R289). -/
def execGmem (sd sa imm : Nat) (s : State) : Host.Outcome State Fault Refusal :=
  issueWith (.gmem sd sa imm) s (fun sl =>
    let g := groupIndex sl.ctx sa imm
    let v := s.group sl.part g
    if 255 < g then .fault (ctlFault 0x06 sl)
    else .done (s.writeReg s.curCore s.curSlot sd
      (toW (v.phase % 2 ^ 32 * 2 ^ 32 + v.members.length % 2 ^ 16 * 2 ^ 16 + v.arrived.length % 2 ^ 16))))

/-! ### Timelines (R283, R290) -/

/-- A read-modify-write of 8 bytes for which the slot waits: the old value. The pool rejects one whose token is stale (R373). -/
def State.rmwNow (s : State) (sl : Slot) (t : Target) (scope off : Nat) (cap : Cap) (f : Nat → Nat) : ReadNow :=
  let c := s.curCore
  let x := nowPiece t 8 off cap.oid
  let l := t.loc c sl.part
  match s.nowGate c sl.part x scope true, s.stalePiece sl.part scope cap [x] with
  | some g, _ => .fault s g
  | none, some y => .fault (s.loseLease sl.part) (y.fault 0x0D true)
  | none, none =>
    let s := (s.sendLines sl.part t 8 scope true (capToken s sl.part cap)).keepNotes c sl.part t.notes
    if s.locPoison l 8 scope then .fault (s.dropPoisoned l 8 scope) (x.fault 0x0E true)
    else
      let old := leNat (s.locBytes l 8 scope)
      .ok ((s.afterRead l 8 scope {}).storeAt l scope {} (leBytes 8 (f old))) old

/-- The word of a parked TLWAIT as a test reads it; none while it cannot be read. -/
def State.timelineValue (s : State) (t : Task) (off scope : Nat) (cap : Cap) : Option (State × Nat) :=
  match objAccess s t.core t.part cap off 8 8 kLoad with
  | .error _ => none
  | .ok u =>
    let l := u.loc t.core t.part
    if (s.nowGate t.core t.part (nowPiece u 8 off cap.oid) scope false).isSome || s.locPoison l 8 scope then none
    else
      let s := (s.sendLines t.part u 8 scope false none).keepNotes t.core t.part u.notes
      some (s.afterRead l 8 scope {}, leNat (s.locBytes l 8 scope))

/-- A parked TLWAIT is tested again: satisfied, the task is Ready, and goes on with the value in sd (R283, R290). A test that fails
leaves the state as it was. -/
def State.retest (s : State) (p id : Nat) : State :=
  match s.task? p id with
  | none => s
  | some t =>
    match t.state, t.wait with
    | .parkedWait, some (.timeline sd off scope target cap) =>
      match s.timelineValue t off scope cap with
      | none => s
      | some (s', v) =>
        if v < target.toNat then s
        else (s'.modTask p id (fun t => { t with passed := some (sd, toW v) })).makeReady p id
    | _, _ => s

/-- Every parked TLWAIT is tested again, as after a TLINC or TLSET of this package (R283). -/
def State.retestAll (s : State) : State :=
  s.parts.foldl (fun s kp => kp.2.tasks.foldl (fun s t => s.retest kp.1 t.id) s) s

/-- TLINC and TLSET: a release RMW that waits until every earlier access is performed (R185, R290). -/
def issueTimeline (i : Instr) (s : State) (sd c sa scope : Nat) (f : Ctx → Nat → Nat) : Host.Outcome State Fault Refusal :=
  issueWith i s (fun sl =>
    let cap := sl.ctx.cap c
    let off := (sl.ctx.reg sa).toNat
    if !s.quiet sl then .stall s
    else
      match objAccess s s.curCore sl.part cap off 8 8 kAtom with
      | .error g => .fault g
      | .ok t =>
        match s.rmwNow sl t scope off cap (f sl.ctx) with
        | .fault u g => .lost u g
        | .stall u => .stall u
        | .ok u old => .done ((u.writeReg s.curCore s.curSlot sd (toW old)).retestAll))

/-- TLINC: it never wraps (R283, R290). -/
def execTlinc (sd c sa sb scope : Nat) (s : State) : Host.Outcome State Fault Refusal :=
  issueTimeline (.tlinc sd c sa sb scope) s sd c sa scope (fun x v => min (2 ^ 64 - 1) (v + (x.reg sb).toNat))

/-- TLSET (R290). -/
def execTlset (sd c sa sb scope : Nat) (s : State) : Host.Outcome State Fault Refusal :=
  issueTimeline (.tlset sd c sa sb scope) s sd c sa scope (fun x _ => (x.reg sb).toNat)

/-- TLWAIT (R290): satisfied it continues, else the task parks before it, so that after a fault it issues again from the start. -/
def execTlwait (sd c sa sb scope : Nat) (s : State) : Host.Outcome State Fault Refusal :=
  issueWith (.tlwait sd c sa sb scope) s (fun sl =>
    let cap := sl.ctx.cap c
    let off := (sl.ctx.reg sa).toNat
    let b := sl.ctx.reg sb
    if sl.ctx.pipe.isSome then .fault (ctlFault 0x0F sl)
    else if !p0Free sl (s.slotCmds s.curCore s.curSlot) sl.seq 0 .acq then .stall s
    else
      match objAccess s s.curCore sl.part cap off 8 8 kLoad with
      | .error f => .fault f
      | .ok t =>
        match s.readNow sl t 8 scope off cap.oid with
        | .fault u f => .lost u f
        | .stall u => .stall u
        | .ok u v =>
          if b.toNat ≤ v then .done (u.writeReg s.curCore s.curSlot sd (toW v))
          else .left (u.parkOn sl (.timeline sd off scope b cap)))

/-- TLGET: an acquire load (R290). -/
def execTlget (sd c sa scope : Nat) (s : State) : Host.Outcome State Fault Refusal :=
  issueWith (.tlget sd c sa scope) s (fun sl =>
    s.objectAcc sl kLoad { instr := .tlget sd c sa scope,
                           op := .load sd, size := 8, cls := 0, ord := .acq, scope := scope, off := (sl.ctx.reg sa).toNat,
                           cap := sl.ctx.cap c })

/-- TLWAIT_RETEST. -/
def execTlwaitRetest (part task : Nat) (s : State) : Host.Outcome State Fault Refusal :=
  if 64 < part then .fault .noUnit else .next (s.retest part task)

/-! ### Residency (R291) -/

/-- The region and tile that RESQ and RESHINT name, or the fault. -/
def State.tileNamed (s : State) (sl : Slot) (sa sb region : Nat) : Except Nat (Nat × Nat × Nat) :=
  let a := (sl.ctx.reg sa).toNat
  let b := (sl.ctx.reg sb).toNat
  let r := if region = 0x7F then s.curCore else region
  if 2 ^ 16 ≤ a ∨ 2 ^ 40 ≤ b then .error 0x02
  else if region ≠ 0x7F ∧ !s.holds sl.part region then .error 0x06
  else .ok (r, a, b)

/-- RESQ (R291). -/
def execResq (sd sa sb region : Nat) (s : State) : Host.Outcome State Fault Refusal :=
  issueWith (.resq sd sa sb region) s (fun sl =>
    match s.tileNamed sl sa sb region with
    | .error code => .fault (ctlFault code sl)
    | .ok (r, h, t) =>
      .done (s.writeReg s.curCore s.curSlot sd (((s.region r).entry? h t).map (fun e => e.word) |>.getD 0)))

/-- RESHINT (R291). -/
def execReshint (sa sb region : Nat) (clear : Bool) (mask : Nat) (s : State) : Host.Outcome State Fault Refusal :=
  issueWith (.reshint sa sb region clear mask) s (fun sl =>
    match s.tileNamed sl sa sb region with
    | .error code => .fault (ctlFault code sl)
    | .ok (r, h, t) => .done (if clear then s.residClear r mask (fun e => e.is h t) else s.residSet r h t mask 0))

/-! ### Events of tasks and slots -/

/-- DISPATCH_DECISION (R275). The slot of a restored task settles at once. -/
def execDispatchDecision (part : Nat) (s : State) : Host.Outcome State Fault Refusal :=
  if 64 < part then .fault .noUnit
  else
    match s.choose part with
    | some (_, c, k) => .next ((s.decision part).settle c k)
    | none => .next s

/-- PREEMPTION_REQUEST: the fontanier commands it (R306). -/
def execPreemptionRequest (core slot : Nat) (s : State) : Host.Outcome State Fault Refusal :=
  if 64 < core ∨ 3 < slot then .fault .noUnit else .next (s.preempt core slot)

/-- DRAIN_LIMIT_EXPIRY: 20,000 ticks after the markers were placed the engines stop at a step boundary, and the context is saved
(R306). -/
def execDrainLimitExpiry (core slot : Nat) (s : State) : Host.Outcome State Fault Refusal :=
  slotEvent s core slot (fun sl =>
    match sl.phase with
    | .drain limit =>
      if limit ≤ s.tick then
        some ((s.setCore core { s.core core with
          cmds := (s.core core).cmds.filter (fun x => !(x.preMark && x.slot == slot)) }).settleDrain core slot)
      else none
    | _ => none)

/-- A Ready task could take this slot if it were free (R273, R307). -/
def State.wanted (s : State) (c k : Nat) (t : Task) : Bool :=
  t.state == .ready && (!(s.part t.part).cstOpen || t.sup) && (s.places t.part).contains c && (s.clrSlot c k).coreFits t c

/-- SLICE_EXPIRY: a slice of a running task is spent (R307). -/
def execSliceExpiry (core slot : Nat) (s : State) : Host.Outcome State Fault Refusal :=
  slotEvent s core slot (fun sl =>
    let b := s.budget sl.part
    if sl.phase = .run ∧ sl.saving = none ∧ b ≠ 0 ∧ s.sliceLeft core sl = 0 then
      if (s.part sl.part).tasks.any (s.wanted core slot) then some (s.preempt core slot)
      else some (s.setSlot core slot { sl with slice := b, sliceAt := s.cycles core })
    else none)

/-- HANDLER_RECORD_ENTRY (R299). -/
def execHandlerRecordEntry (s : State) : Host.Outcome State Fault Refusal := .next s.enterHandler

/-- FRAME_SLOT_FREED: a save that waited for a frame slot proceeds (R300). -/
def execFrameSlotFreed (core slot : Nat) (s : State) : Host.Outcome State Fault Refusal :=
  slotEvent s core slot (fun sl => sl.saving.map (fun fate => s.saveSlot core slot fate))

end Sys2Proof.Machine
end

