-- ==== Sys2Proof/Machine/Traps.lean ====
section
/-! DEFINITION. Trap, context and translation instructions (R314 to R322), and the events of fetch and of the translation
caches. -/

namespace Sys2Proof.Machine

/-! ### Many bytes of an object, for which the slot waits -/

/-- [off, off+n) cut where object tiles meet: (offset, length). -/
def cuts : Nat → Nat → Nat → List (Nat × Nat)
  | 0, _, _ => []
  | k + 1, off, n =>
    if n = 0 then []
    else
      let m := min n (2 ^ 16 - off % 2 ^ 16)
      (off, m) :: cuts k (off + m) (n - m)

/-- The pieces at their targets; the first that a check of R141 to R144 refuses decides. -/
def nowPieces (s : State) (r p : Nat) (cap : Cap) (kind : AccKind) (al : Nat) : List (Nat × Nat) → Except FaultRec (List Piece)
  | [] => .ok []
  | (off, n) :: ps =>
    match objAccess s r p cap off n al kind with
    | .error f => .error f
    | .ok t =>
      match nowPieces s r p cap kind al ps with
      | .error f => .error f
      | .ok xs => .ok (nowPiece t n off cap.oid :: xs)

/-- The pieces read one after another. -/
def State.readEach (s : State) (sl : Slot) (scope : Nat) : List Piece → List Byte → BytesNow
  | [], bs => .ok s bs
  | x :: xs, bs =>
    match s.readBytesNow sl x.tgt x.len scope x.off x.oid with
    | .ok s b => s.readEach sl scope xs (bs ++ b)
    | r => r

/-- The pieces written one after another. -/
def State.writeEach (s : State) (sl : Slot) (cap : Cap) (scope : Nat) : List Piece → List Byte → State
  | [], _ => s
  | x :: xs, bs =>
    let c := s.curCore
    let s := (s.sendLines sl.part x.tgt x.len scope true (capToken s sl.part cap)).keepNotes c sl.part x.tgt.notes
    (s.storeAt (x.loc c c sl.part) scope {} (bs.take x.len)).writeEach sl cap scope xs (bs.drop x.len)

/-- `n` bytes of an object read at a SCOPE, every byte checked and translated first. -/
def State.loadObj (s : State) (sl : Slot) (cap : Cap) (off n al scope : Nat) : BytesNow :=
  match nowPieces s s.curCore sl.part cap kLoad al (cuts 16 off n) with
  | .error f => .fault s f
  | .ok xs =>
    match xs.findSome? (fun x => s.nowGate s.curCore sl.part x scope false) with
    | some f => .fault s f
    | none => s.readEach sl scope xs []

/-- Bytes written to an object at a SCOPE, every byte checked and translated before the first store. The pool rejects them under a stale
token (R373). -/
def State.storeObj (s : State) (sl : Slot) (cap : Cap) (off al scope : Nat) (bs : List Byte) : BytesNow :=
  match nowPieces s s.curCore sl.part cap kStore al (cuts 16 off bs.length) with
  | .error f => .fault s f
  | .ok xs =>
    match xs.findSome? (fun x => s.nowGate s.curCore sl.part x scope true), s.stalePiece sl.part scope cap xs with
    | some f, _ => .fault s f
    | none, some x => .fault (s.loseLease sl.part) (x.fault 0x0D true)
    | none, none => .ok (s.writeEach sl cap scope xs bs) []

/-- The slot may make an access of class 0 with this order now (R175, R189). -/
def State.mayAccess (s : State) (sl : Slot) (ord : Ord2) : Bool := p0Free sl (s.slotCmds s.curCore s.curSlot) sl.seq 0 ord

/-- No P0 store of the slot is outstanding. -/
def Slot.storesDone (sl : Slot) : Bool := sl.p0.all (fun a => !a.op.writes)

/-! ### Task selectors (R314) -/

/-- The partition and id that a task selector names. -/
def selectorOf (c : Nat) (sl : Slot) (sa : Nat) : Except Nat (Nat × Nat) :=
  if sa = 0 then
    if sl.flt.task = 0 then .error 0x06 else .ok (bits sl.flt.task 53 48, bits sl.flt.task 47 0)
  else
    let v := sl.ctx.reg sa
    let h := slotLevel c sl == .h
    if bits v 63 54 ≠ 0 ∨ (!h && bits v 53 48 != 0) = true then .error 0x02
    else .ok (if h then bits v 53 48 else sl.part, bits v 47 0)

/-- The target of an instruction that accepts these tasks. -/
def State.target (s : State) (sl : Slot) (sa : Nat) (accepts : Task → Bool) : Except Nat Task :=
  match selectorOf s.curCore sl sa with
  | .error code => .error code
  | .ok (p, id) =>
    match s.task? p id with
    | some t => if accepts t then .ok { t with part := p } else .error 0x06
    | none => .error 0x06

/-- The target's context still waits in its slot for a frame slot (R300). -/
def State.unsaved (s : State) (t : Task) : Bool := (s.slotOf t.part t.id).isSome

/-- The task is Failed, or at level H Parked, fault (R316, R317, R319). -/
def stopped (level : Level) (t : Task) : Bool := t.state == .failed || (level == .h && t.state == .parkedFault)

/-- The saved frame of a task in frame slot `i`, with the state after its read. -/
def State.savedFrame (s : State) (t : Task) (i : Nat) : Except FaultRec (List Byte × State) :=
  match s.gread s.curCore t.part 3 (s.frameAddr t.part i) (frameSize t.banks) with
  | .error f => .error { f with addr := s.frameAddr t.part i }
  | .ok (b, ns) => .ok (b, s.keepNotes s.curCore t.part ns)

/-- Bytes written to a frame slot of a partition. -/
def State.putFrame (s : State) (p i : Nat) (b : List Byte) : Except FaultRec State :=
  match s.gwrite s.curCore p 3 (s.frameAddr p i) b with
  | .error f => .error { f with addr := s.frameAddr p i }
  | .ok u => .ok u

/-- The saved frame of a task with its bytes changed and its CRC made anew. -/
def State.patchFrame (s : State) (t : Task) (i : Nat) (f : List Byte → List Byte) : Except FaultRec State :=
  match s.savedFrame t i with
  | .error g => .error g
  | .ok (b, u) => u.putFrame t.part i (refreshCrc (f b) [])

/-! ### TRAP and ERET (R315, R316) -/

/-- TRAP (R315): the resume offset is the next word. -/
def execTrap (sa imm : Nat) (hv : Bool) (s : State) : Host.Outcome State Fault Refusal :=
  issueWith (.trap sa imm hv) s (fun sl =>
    let c := s.curCore
    let k := s.curSlot
    .left ((s.stepOver c k).raiseFault c k
      { code := 0x00, addr := (sl.ctx.reg sa).toNat, tnum := imm, word := encode (.trap sa imm hv), pc := sl.ctx.pc } hv))

/-- The targets that a form of ERET accepts at a level (R299, R316, R332). -/
def eretTakes (level : Level) (form : EretForm) (t : Task) : Bool :=
  match form with
  | .res => stopped level t && !t.lost
  | .kill => stopped level t
  | .refl => t.state == .parkedFault

/-- A task is killed: its queued commands are discarded, and it ends as TEND ends it (R299). -/
def State.killTask (s : State) (t : Task) : State :=
  match s.slotOf t.part t.id with
  | some (c, k, sl) => (s.freeSlot c k sl.banks).endTask t.part t.id
  | none => s.endTask t.part t.id

/-- A fault of the hypervisor route is reflected to the partition (R299). -/
def State.reflect (s : State) (t : Task) : State :=
  let f := match t.fault with
    | some f => { f with hv := true }
    | none => { code := 0, addr := 0, hv := true }
  let s := s.setTask { t with state := .failed, fault := some f }
  if hndlV (s.part t.part).hndl then s.pendHandler false f t.part t.id
  else s.logError 6 t.core 0 t.part f.addr f.code

/-- What ERET does to its target. -/
def State.answer (s : State) (t : Task) (form : EretForm) : State :=
  match form with
  | .res => s.resumeTask t.part t.id
  | .kill => s.killTask t
  | .refl => s.reflect t

/-- ERET (R316): it acts once every access of the issuer is performed, and the issuer ends. -/
def execEret (sa : Nat) (form : EretForm) (s : State) : Host.Outcome State Fault Refusal :=
  issueWith (.eret sa form) s (fun sl =>
    let c := s.curCore
    let k := s.curSlot
    if !endChecks sl.ctx then .fault (ctlFault 0x0F sl)
    else
      match s.target sl sa (eretTakes (slotLevel c sl) form) with
      | .error code => .fault (ctlFault code sl)
      | .ok t =>
        if !s.quiet sl || (form != .kill && s.unsaved t) then .stall s
        else .left ((((s.answer t form).issued c k).modSlot c k (fun sl => { sl with phase := .ending })).settle c k))

/-! ### MFSP, MTSP and FLTINFO (R317, R318) -/

/-- An item of a saved context, for the task whose frame it is (R303, R317). -/
def frameItem (b : List Byte) (t : Task) (item : Nat) : Word :=
  if item < 0x40 then (if item = 0 then 0 else fword b (0x80 + 8 * item))
  else if item < 0x44 then toW (fget b (0x280 + 8 * (item - 0x40)) 6)
  else if item = 0x44 then fword b 0x2C0
  else if item < 0x4C then fword b (0x2A0 + 8 * (item - 0x48))
  else
    match item with
    | 0x50 => toW (fget b 0x2C8 6)
    | 0x51 => fword b 0x2D0
    | 0x52 => toW (fget b 0x2D8 1)
    | 0x53 => toW (fget b 0x2D9 1 % 64)
    | 0x54 => fword b 0x2E0
    | 0x55 => fword b 0x2F0
    | 0x56 => statusWord (frameCtx b (fun _ => 0) []) t.banks t.prio t.sup
    | _ => fword b 0x370

/-- The targets of MFSP: Parked or Failed; at S not Parked, fault (R317). -/
def mfspTakes (level : Level) (t : Task) : Bool := stopped level t || t.state == .parkedWait

/-- MFSP. An item of a context that was lost has no stated value (log entry 3). -/
def execMfsp (sd sa item : Nat) (s : State) : Host.Outcome State Fault Refusal :=
  issueWith (.mfsp sd sa item) s (fun sl =>
    let c := s.curCore
    let k := s.curSlot
    match s.target sl sa (mfspTakes (slotLevel c sl)) with
    | .error code => .fault (ctlFault code sl)
    | .ok t =>
      if s.unsaved t then .stall s
      else
        match t.frameAt with
        | none => .done (s.takeFree.2.writeReg c k sd s.takeFree.1)
        | some i =>
          match s.savedFrame t i with
          | .error f => .fault f
          | .ok (b, u) => .done (u.writeReg c k sd (frameItem b t item)))

/-- The value may not be written to the item (R91, R113, R206, R317). -/
def itemRefuses (feat : Nat → Bool) (item v : Nat) : Bool :=
  if item < 0x40 then false
  else if item < 0x44 then decide (2 ^ 48 ≤ v)
  else
    match item with
    | 0x44 => !kregOk v
    | 0x51 => v != 0
    | 0x52 => !fmtmodeOk feat v
    | 0x53 => !sptagOk feat v
    | _ => false

/-- A frame with an item written; a write to s0 or to a read-only item changes nothing, and RESUME clears the pending bit of DELAY
(R303, R317). -/
def putItem (item v : Nat) (b : List Byte) : List Byte :=
  if item = 0 then b
  else if item < 0x40 then fput b (0x80 + 8 * item) 8 v
  else if item < 0x44 then fput b (0x280 + 8 * (item - 0x40)) 8 v
  else if item = 0x44 then fput b 0x2C0 8 (v / 2 * 2 + 1)
  else if item < 0x4C then fput b (0x2A0 + 8 * (item - 0x48)) 8 v
  else
    match item with
    | 0x50 => fput (fput b 0x2C8 8 (v % 2 ^ 48)) 0x2D0 8 (fget b 0x2D0 8 % 2 ^ 63)
    | 0x51 => fput b 0x2D0 8 0
    | 0x52 => fput b 0x2D8 1 v
    | 0x53 => fput b 0x2D9 1 v
    | _ => b

/-- MTSP. A context that was lost takes no write. -/
def execMtsp (sa sb item : Nat) (s : State) : Host.Outcome State Fault Refusal :=
  issueWith (.mtsp sa sb item) s (fun sl =>
    let v := (sl.ctx.reg sb).toNat
    match s.target sl sa (stopped (slotLevel s.curCore sl)) with
    | .error code => .fault (ctlFault code sl)
    | .ok t =>
      if itemRefuses s.feature item v then .fault (ctlFault 0x02 sl)
      else if s.unsaved t then .stall s
      else
        match t.frameAt with
        | none => .done s
        | some i =>
          match s.patchFrame t i (putItem item v) with
          | .ok u => .done u
          | .error f => .fault f)

/-- A detail of a fault (R318). -/
def FaultRec.detail (f : FaultRec) : FltItem → Nat
  | .word => f.word
  | .pc => f.pc
  | .mpc => f.mpc
  | .oid => f.oid
  | .x0 => f.x0
  | .xhi => f.xhi
  | .leaf => f.leaf
  | .tick => f.tick

/-- FLTINFO. -/
def execFltinfo (sd sa : Nat) (item : FltItem) (s : State) : Host.Outcome State Fault Refusal :=
  issueWith (.fltinfo sd sa item) s (fun sl =>
    match s.target sl sa (fun t => t.state == .parkedFault || t.state == .failed) with
    | .error code => .fault (ctlFault code sl)
    | .ok t =>
      .done (s.writeReg s.curCore s.curSlot sd (toW ((t.fault.map (fun f => f.detail item)).getD 0))))

/-! ### CTXSV and CTXLD (R319) -/

/-- The window image of an export: zero where the contents were lost. -/
def State.exportWindow (s : State) (t : Task) : List Byte :=
  let n := windowBytesOf t.spkib
  if t.winImage ≠ [] then rdBytes t.winImage 0 n
  else if t.winLost then zeros n
  else padTo n ((s.windowBytes t).take n)

/-- The bytes of an export: the frame, and a window image after it when the task has a window. -/
def State.exportBytes (s : State) (t : Task) (b : List Byte) : List Byte :=
  let w := s.exportWindow t
  let b := if t.spkib = 0 then b else fput b 7 1 (Nat.lor (fget b 7 1) 2)
  refreshCrc b w ++ w

/-- CTXSV. A context that was lost has no frame to write: 0x06. -/
def execCtxsv (sd sa sb c : Nat) (move : Bool) (scope : Nat) (s : State) : Host.Outcome State Fault Refusal :=
  issueWith (.ctxsv sd sa sb c move scope) s (fun sl =>
    match s.target sl sa (fun t => stopped (slotLevel s.curCore sl) t && !t.lost) with
    | .error code => .fault (ctlFault code sl)
    | .ok t =>
      if move && (t.groups != [] || t.edges != []) then .fault (ctlFault 0x0F sl)
      else if s.unsaved t || !s.mayAccess sl .rel then .stall s
      else
        match t.frameAt with
        | none => .fault (ctlFault 0x06 sl)
        | some i =>
          match s.savedFrame t i with
          | .error f => .fault f
          | .ok (b, s) =>
            let out := s.exportBytes t b
            match s.storeObj sl (sl.ctx.cap c) (sl.ctx.reg sb).toNat 128 scope out with
            | .fault s f => .lost s f
            | .stall s => .stall s
            | .ok s _ =>
              let s := if move then s.removeTask t.part t.id else s
              .done (s.writeReg s.curCore s.curSlot sd (toW out.length)))

/-- The size of an exported frame from its header, with the window image that follows; none when the header cannot be right. -/
def exportSize (h : List Byte) : Option (Nat × Nat) :=
  let n := frameSize (fget h 6 1 % 16)
  if fget h 0 4 = 0x4D524657 ∧ fget h 8 4 = n ∧ fget h 0x0C 4 ≤ 512 then
    some (n, if (fget h 7 1).testBit 1 then windowBytesOf (fget h 0x0C 4) else 0)
  else none

/-- The task of an imported frame; its FRAME word has no stated value (log entry 3). -/
def importTask (me : Task) (core : Nat) (b w : List Byte) (frame : Word) (slot : Nat) : Task :=
  { id := 0, part := me.part, code := 0, frame := frame, join := 0, prio := fget b 0x20 1, banks := fget b 6 1,
    fmttrap := false, sup := (fget b 7 1).testBit 0, spkib := fget b 0x0C 4, group := 0xFF, pin := fget b 0x21 1,
    parent := me.id, launch := me.launch, fresh := false, frameAt := some slot, winImage := wrBytes [] 0 w,
    core := core }

/-- A checked import is entered, if a task entry and a frame slot are free: the value of sd. -/
def State.enterImport (s : State) (me : Task) (core : Nat) (b w : List Byte) : Except FaultRec (Word × State) :=
  match s.freeFrame me.part with
  | none => .ok (0, s)
  | some i =>
    if !s.hasEntry me.part then .ok (0, s)
    else
      let kept := refreshCrc (fput b 7 1 (Nat.land (fget b 7 1) 0xFD)) []
      match s.putFrame me.part i kept with
      | .error f => .error f
      | .ok s =>
        let (v, s) := s.takeFree
        .ok (toW (s.part me.part).nextId, s.enterTask (importTask me core b w v i))

/-- CTXLD. -/
def execCtxld (sd sb c : Nat) (scope : Nat) (s : State) : Host.Outcome State Fault Refusal :=
  issueWith (.ctxld sd sb c scope) s (fun sl =>
    let cap := sl.ctx.cap c
    let off := (sl.ctx.reg sb).toNat
    if !s.mayAccess sl .acq then .stall s
    else
      match s.loadObj sl cap off 128 128 scope with
      | .fault s f => .lost s f
      | .stall s => .stall s
      | .ok s h =>
        match exportSize h, s.taskOf sl with
        | none, _ => .fault (ctlFault 0x13 sl)
        | _, none => .stall s
        | some (n, m), some me =>
          match s.loadObj sl cap off (n + m) 128 scope with
          | .fault s f => .lost s f
          | .stall s => .stall s
          | .ok s all =>
            let b := all.take n
            let w := all.drop n
            if !frameOk s.host.accepted (sl.part == fontanier) (s.pinOk sl.part) b w then .fault (ctlFault 0x13 sl)
            else
              match s.enterImport { me with part := sl.part } s.curCore b w with
              | .error f => .fault f
              | .ok (v, s) => .done (s.writeReg s.curCore s.curSlot sd v))

/-! ### TLBIV, UNMAP and MAPSYNC (R320 to R322) -/

/-- Every region's translation caches changed. -/
def State.mapCaches (s : State) (f : Region → Region) : State := { s with regions := s.regions.map (fun kr => (kr.1, f kr.2)) }

/-- The entries that TLBIV leaves in a region: those of other partitions, tables and tiles. -/
def Region.dropTable (g : Region) (p ttp tile : Nat) (form : TlbForm) : Region :=
  match form with
  | .tile =>
    { g with tileTlb := g.tileTlb.filter (fun e => !(e.k0 == tileKey p ttp && e.k1 == tile))
             nodes := g.nodes.filter (fun e => !(e.k0 == p && e.aux == tileKey p ttp)) }
  | .table =>
    { g with tileTlb := g.tileTlb.filter (fun e => e.k0 != tileKey p ttp)
             nodes := g.nodes.filter (fun e => !(e.k0 == p && e.aux == tileKey p ttp)) }
  | .all =>
    { g with tileTlb := g.tileTlb.filter (fun e => e.k0 / 2 ^ 48 != p)
             nodes := g.nodes.filter (fun e => e.k0 != p) }

/-- The effect point of a TLBIV or UNMAP that issues now (R320, R321). -/
def State.effectPoint (s : State) : Nat := s.tick + 64000

/-- The slot remembers an effect point. -/
def State.noteEffect (s : State) (c k : Nat) (leaf : Option Nat) : State :=
  s.modSlot c k (fun sl => { sl with effect := max sl.effect s.effectPoint
                                     unmaps := sl.unmaps ++ (leaf.map (fun a => (a, s.tick))).toList })

/-- TLBIV (R320). -/
def execTlbiv (sd sa sb : Nat) (form : TlbForm) (s : State) : Host.Outcome State Fault Refusal :=
  issueWith (.tlbiv sd sa sb form) s (fun sl =>
    let a := (sl.ctx.reg sa).toNat
    let b := (sl.ctx.reg sb).toNat
    if form != .all && a % 64 != 0 then .fault (ctlFault 0x0B sl)
    else if !sl.storesDone then .stall s
    else
      let t := if form == .all || decide (a < 2 ^ 48) then s.mapCaches (fun g => g.dropTable (selPart s.curCore sl) a b form) else s
      .done ((t.noteEffect s.curCore s.curSlot none).writeReg s.curCore s.curSlot sd (toW s.effectPoint)))

/-- The entries derived from a guest page leave a region's caches (R321). -/
def Region.dropPage (g : Region) (p page : Nat) : Region :=
  { g with
    nestTlb := g.nestTlb.filter (fun e => !(e.k0 == p && e.k1 == page))
    tileTlb := g.tileTlb.filter (fun e => !(e.k0 / 2 ^ 48 == p && e.page == page))
    nodes := g.nodes.filter (fun e => !(e.k0 == p && e.page == page)) }

/-- What UNMAP.clr's walk to a leaf finds. -/
inductive LeafWalk where
  /-- The leaf and its system address. -/
  | leaf (at_ v : Nat)
  /-- An entry on the way has V = 0. -/
  | invalid
  /-- An entry cannot be read. -/
  | stop (f : FaultRec)
  deriving DecidableEq, Repr

/-- A word of the walk: it ends at an entry that cannot be read or has V = 0. -/
def State.walkWord (s : State) (at_ : Nat) (k : Nat → LeafWalk) : LeafWalk :=
  match s2Word s at_ 0 at_ with
  | .error f => .stop f
  | .ok e => if e.testBit 63 then k e else .invalid

/-- The walk of the stage-2 table of a partition in memory (R309, R321). -/
def State.leafWalk (s : State) (p g : Nat) : LeafWalk :=
  let w := (s.part p).s2tb
  if !w.getLsbD 63 then .invalid
  else
    s.walkWord (bits w 47 12 * 4096 + 8 * nbits g 47 39) (fun e2 =>
      s.walkWord (nbits e2 47 12 * 4096 + 8 * nbits g 38 30) (fun e1 =>
        let a0 := nbits e1 47 12 * 4096 + 8 * nbits g 29 21
        s.walkWord a0 (fun e0 => .leaf a0 e0)))

/-- The invalidation that both forms of UNMAP make. -/
def State.shoot (s : State) (c k p g : Nat) (leaf : Option Nat) : State :=
  (s.mapCaches (fun r => r.dropPage p (g / 2 ^ 21))).noteEffect c k leaf

/-- A leaf cleared by an RMW at package scope; a LOCAL page leaves the pinned reserve (R310, R321). -/
def State.clearLeaf (s : State) (p at_ v : Nat) : State :=
  let s := s.writeSys at_ (leBytes 8 (v % 2 ^ 63))
  if leafAper v = .localPage then s.setPart p { s.part p with pinned := (s.part p).pinned.filter (fun x => x != leafSpn v) } else s

/-- UNMAP (R321). -/
def execUnmap (sd sa : Nat) (shoot : Bool) (s : State) : Host.Outcome State Fault Refusal :=
  issueWith (.unmap sd sa shoot) s (fun sl =>
    let c := s.curCore
    let k := s.curSlot
    let g := (sl.ctx.reg sa).toNat
    let p := selPart c sl
    let ep := toW s.effectPoint
    if p = fontanier then .fault (ctlFault 0x06 sl)
    else if g % 2 ^ 21 ≠ 0 then .fault (ctlFault 0x0B sl)
    else if 2 ^ 48 ≤ g then .fault (ctlFault 0x06 sl)
    else if !sl.storesDone then .stall s
    else if shoot then .done ((s.shoot c k p g none).writeReg c k sd ep)
    else
      match s.leafWalk p g with
      | .invalid => .done (s.writeReg c k sd 0)
      | .stop f => .fault { f with addr := sl.ctx.pc }
      | .leaf at_ v =>
        match s.pieceStop fontanier 4 true (nowPiece { aper := .system, addr := at_ } 8 sl.ctx.pc 0) with
        | some f => .fault { f with leaf := at_ }
        | none =>
          let slow := leafAper v == .pool || leafAper v == .peer
          let s := s.sendLines fontanier { aper := .system, addr := at_ } 8 4 true none
          .done (((s.clearLeaf p at_ v).shoot c k p g (if slow then some at_ else none)).writeReg c k sd ep))

/-- A write made through a leaf by tick `n` is still on its way. -/
def P0Acc.through (a : P0Acc) (leaf n : Nat) : Bool := a.op.writes && a.leaf == leaf && decide (a.first ≤ n)

/-- A write through the leaf at `at_`, made by tick `n`, is not yet performed, in a slot or in a saved context. -/
def State.writeThrough (s : State) (at_ n : Nat) : Bool :=
  s.slots.any (fun x => x.2.2.p0.any (fun a => a.through at_ n)) ||
    s.parts.any (fun kp => kp.2.tasks.any (fun t => t.p0.any (fun a => a.through at_ n)))

/-- The effect point of every earlier TLBIV and UNMAP of the slot has passed (R321, R322). -/
def State.mapsDone (s : State) (sl : Slot) : Bool :=
  decide (sl.effect ≤ s.tick) && sl.unmaps.all (fun u => !s.writeThrough u.1 u.2)

/-- MAPSYNC (R322). -/
def execMapsync (s : State) : Host.Outcome State Fault Refusal :=
  issueWith .mapsync s (fun sl =>
    if s.mapsDone sl then .done (s.setSlot s.curCore s.curSlot { sl with unmaps := [] }) else .stall s)

/-! ### Events of fetch and of the translation caches -/

/-- What becomes of a slot whose next word cannot issue: it waits for its segment, or `f` says what is taken (R40, R42, R43). -/
def raiseAt (s : State) (f : Slot → Option State) : Host.Outcome State Fault Refusal :=
  let c := s.curCore
  let k := s.curSlot
  match s.slot? c k with
  | none => .fault .noTask
  | some sl =>
    if !sl.issues || !slipOk sl (s.slotCmds c k) then .next (s.modSlot c k (fun sl => { sl with stalled := true }))
    else
      match sl.ownFault with
      | some d => .next ((s.setSlot c k (sl.delivered d)).raiseFault c k (d.record 0 sl.ctx.pc))
      | none => .next ((f sl).getD s)

/-- FETCH_CHECK_FAULT: the fetch at the slot's offset is refused, or waits for a route (R40, R137, R364). -/
def execFetchCheckFault (s : State) : Host.Outcome State Fault Refusal :=
  raiseAt s (fun sl =>
    match s.fetch s.curCore sl with
    | .error f =>
      some ((if f.code = 0x0E then s.fetchLost s.curCore sl else s).faultOrHold s.curCore s.curSlot { f with pc := sl.ctx.pc })
    | .ok _ => none)

/-- A word that is no instruction raises the fault of its class, opcode or encoding (R42, R43). -/
def raiseWord (word : Nat) (s : State) : Host.Outcome State Fault Refusal :=
  raiseAt s (fun sl =>
    some (s.raiseFault s.curCore s.curSlot { ctlFault (wordFault s s.curCore sl word) sl with word := word, pc := sl.ctx.pc }))

/-- ILLEGAL_INSTRUCTION: the word is no instruction, or one that its fields refuse, which the checks of R43 meet in their
order. -/
def execIllegalInstruction (word : Nat) (s : State) : Host.Outcome State Fault Refusal :=
  match decode word, build word with
  | .ok _, _ => raiseAt s (fun _ => none)
  | .refused _, some i => issueWith i s (fun sl => .fault (ctlFault 0x02 sl))
  | _, _ => raiseWord word s

/-- TRANSLATION_LEASE_EXPIRY: entries whose lease has run out leave a region's caches (R312). -/
def execTranslationLeaseExpiry (region : Nat) (s : State) : Host.Outcome State Fault Refusal :=
  if 65 < region then .fault .noUnit
  else
    let g := s.region region
    let live := fun (l : List TlbEntry) => l.filter (fun e => decide (s.tick < e.till))
    .next (s.setRegion region { g with tileTlb := live g.tileTlb, nestTlb := live g.nestTlb, nodes := live g.nodes })

/-- CISTERN_REFRESH_WINDOW: refresh goes on in a bank; accesses meet it later and nothing else changes (R212). -/
def execCisternRefreshWindow (s : State) : Host.Outcome State Fault Refusal := .next s

end Sys2Proof.Machine
end

