-- ==== Sys2Proof/Machine/Bulkhead.lean ====
section
/-! DEFINITION. Bulkheads (R325 to R356): region states, partitions and window groups, resets, scrubs and their tokens,
freed frames, key slots and messages between partitions. -/

namespace Sys2Proof.Machine

/-! ### Region clocks and window groups (R325, R328 to R330) -/

/-- A region changed. -/
def State.modRegion (s : State) (r : Nat) (f : Region → Region) : State := s.setRegion r (f (s.region r))

/-- The core clock of a region starts again, at 1.6 GHz; the cycles counted before it stopped stand (R328). -/
def State.startClock (s : State) (r : Nat) : State := s.modRegion r (fun g => { g with cycAt := s.tick, cur := 16 })

/-- The core clock of a region stops (R328). -/
def State.stopClock (s : State) (r : Nat) : State := s.setClock r (s.region r).cur

/-- The number of a window group: its lowest region, or 64 for a group of one. -/
def groupName : List Nat → Nat
  | a :: _ :: _ => a
  | _ => 64

/-- The L2 slices of some regions lose every line (R329). -/
def State.clearSlices (s : State) (l : List Nat) : State := l.foldl (fun s r => s.dropL2 r (fun _ => true)) s

/-- The regions form one window group. Their slices are emptied, and the interleave is that of the new group (R330). -/
def State.joinWindow (s : State) (l : List Nat) : State :=
  l.foldl (fun s q => s.modRegion q (fun g => { g with group := groupName l })) (s.clearSlices l)

/-- A region leaves its window group; those that remain keep one group among themselves (R330). -/
def State.leaveWindow (s : State) (r : Nat) : State :=
  ((s.clearSlices (s.windowGroup r)).joinWindow ((s.windowGroup r).filter (fun q => q != r))).modRegion r (fun g => { g with group := 64 })

/-- Every line of a partition leaves its Reservoir channels, and with it the copies in its L2 slices; its LOCAL pages pin again at
their next access (R310, R329). -/
def State.dropCopies (s : State) (p : Nat) : State :=
  let q := s.part p
  let s := ({ s with resErr := s.resErr.filter (fun g => !q.pinned.contains (g / 2 ^ 18)) }).setPart p { q with pinned := [] }
  ((List.range 64).filter (fun r => (s.region r).part == p)).foldl (fun s r => s.residClear r resRSV (fun _ => true))
    (s.dropRes p (fun _ => true))

/-- The set of regions of a partition is about to change: what R329 does before the change, in the Reservoir and in the slices of the
window groups affected. -/
def State.rehome (s : State) (p : Nat) (l : List Nat) : State := if p < 64 then (s.dropCopies p).clearSlices l else s

/-! ### Tasks whose window or banks are lost (R331, R332) -/

/-- A fault delivered to the hypervisor for a task that keeps its state and its earlier fault (R331). -/
def State.furtherFault (s : State) (t : Task) (r : Nat) (f : FaultRec) : State :=
  let f := { f with hv := true, tick := s.tick }
  if hndlV s.grotto.hvhndl then s.pendHandler true f t.part t.id else s.logError 6 r 0 t.part f.addr f.code

/-- The contents of a task's window are lost. -/
def State.loseWindow (s : State) (t : Task) : State :=
  (s.dropWindow t).setTask { t with window := none, winLost := true, winImage := [] }

/-- The task's window lies in the region. -/
def Task.windowIn (t : Task) (r : Nat) : Bool := t.window.any (fun w => w.1 == r)

/-- What a scrub or a reset of region `r` does to a task that holds no slot: a lost window or, in a scrub, lost banks make
it Parked, fault, with 0x14. No instruction of the task faults, so FLTADDR has no stated value (log entry 3). -/
def State.strand (s : State) (r : Nat) (scrub : Bool) (t : Task) : State :=
  if t.windowIn r || (scrub && t.retained == some r) then
    let s := if t.windowIn r then s.loseWindow t else s
    let s := s.modTask t.part t.id (fun t => { t with retained := none })
    let (v, s) := s.takeFree
    let f : FaultRec := { code := 0x14, addr := v.toNat }
    match t.state with
    | .ready => s.raiseParked t.part t.id r f
    | .parkedWait => s.raiseParked t.part t.id r f
    | .parkedFault => s.furtherFault t r f
    | .failed => s.furtherFault t r f
    | _ => s
  else s

/-- The tasks of a region's partition that hold no slot, after the region's contents are lost. -/
def State.strandAll (s : State) (r : Nat) (scrub : Bool) : State :=
  let p := (s.region r).part
  if p < 64 then
    ((s.part p).tasks.foldl (fun s t => if t.state = .running then s else s.strand r scrub t) s).steer p
  else s

/-- The record of a task whose context is lost with its region. -/
def Task.loseContext (t : Task) : Task :=
  { t with window := none, frameAt := none, lost := true, retained := none, priv := [], p0 := [], deferred := [] }

/-- A task whose context stands in a region that is reset is lost: no frame is saved for it. Its accesses that have left the region may
still take effect, and those that have not never occur (R332). A task that has failed or was parked by a fault already, and waits in
its slot for a frame slot (R300), keeps its state and its earlier fault, as in R331. -/
def State.loseTask (s : State) (c k : Nat) : State :=
  match s.slot? c k with
  | none => s
  | some sl =>
    let s := ((sl.p0.filter (fun a => a.req != .fresh)).foldl (fun s a => s.strayWrite c sl.part a) s).freeSlot c k 0
    let s := match s.task? sl.part sl.task with
      | some t => (s.dropWindow t).setTask t.loseContext
      | none => s
    let (v, s) := s.takeFree
    let f : FaultRec := { code := 0x14, addr := v.toNat }
    match s.task? sl.part sl.task with
    | some t => if t.state = .failed ∨ t.state = .parkedFault then s.furtherFault t c f else s.raiseParked sl.part sl.task c f
    | none => s

/-- Requests at SCOPE 0 to 2 of a slot of the window group that are under way to the L2 slice of region `r` complete with 0x14 (R24,
R152). -/
def State.failSlice (s : State) (r c k : Nat) (sl : Slot) : State :=
  (sl.p0.filter (fun a => (a.aper == .pool || a.aper == .localPage) && decide (a.scope ≤ 2) && s.sliceRegion c (a.addr / 128) == r &&
    s.accFree c k sl a)).foldl (fun s a => s.deferAcc c k a 0x14 a.op.returns) s

/-- The reset of a region as the other regions of its window group meet it (R24). -/
def State.failPeers (s : State) (r : Nat) (peers : List Nat) : State :=
  s.slots.foldl (fun s x => if peers.contains x.1 then s.failSlice r x.1 x.2.1 x.2.2 else s) s

/-! ### Reset (R327, R332) -/

/-- What a reset clears of a core: the tile file and the scratchpad keep their contents. -/
def Core.cleared (co : Core) : Core := { cells := co.cells, spad := co.spad, tileErr := co.tileErr, spadErr := co.spadErr }

/-- The state to which a reset returns (R327). -/
def Region.returns (g : Region) : RState :=
  match g.state with
  | .owned => .owned
  | .held => .held
  | .quiesce => .scrub
  | .scrub => .scrub
  | .sign => .scrub
  | .reset => g.ret
  | _ => .dirty

/-- The queue of the signer changed. The first region's signing begins once it is the first, with CLEANFR.CLEAN of that moment (R338). -/
def State.modSignQ (s : State) (f : List Nat → List Nat) : State :=
  let q := f s.grotto.signQ
  s.modGrotto (fun x => { x with signQ := q, signClean := if q.head? = x.signQ.head? then x.signClean else x.clean.length })

/-- A partition that has lost its last region: its schedule is withdrawn, its bindings end and its tiles are warm (R170, R257, R260). -/
def State.lastRegion (s : State) (p : Nat) : State :=
  if p < 64 ∧ s.placement p = [] then
    let s := (s.withdraw p).endBindings (fun b => b.part == p)
    s.setPart p { s.part p with hints := [] }
  else s

/-- A region that is not in RESET has its reset asserted. Writes performed in its slice are in the pool already, so that the slice only
loses its lines (R329, R332). -/
def State.assertReset (s : State) (r : Nat) : State :=
  let g := s.region r
  let peers := (s.windowGroup r).filter (fun q => q != r)
  let s := (List.range 4).foldl (fun s k => s.loseTask r k) (s.failPeers r peers)
  let s := s.strandAll r (g.state == .quiesce)
  let s := s.setCore r (s.core r).cleared
  let s := if g.state = .quiesce then s.rehome g.part (s.windowGroup r) else s
  let s := (s.leaveWindow r).modSignQ (fun l => l.filter (fun q => q != r))
  let again := g.state == .scrub || g.state == .sign
  ((s.modRegion r (fun h =>
    { h with
      state := .reset, ret := g.returns, recorded := false, resetAt := s.tick, peers := peers, resid := [], tileTlb := [], nestTlb := [],
      nodes := [], base := 16, cur := 16, recv := 0, donor := false, cyc10 := 0, cycAt := s.tick,
      phase := if again || g.state == .quiesce then 0 else h.phase, done := if again then 0 else h.done,
      restarts := if again then min 255 (g.restarts + 1) else h.restarts })).steer g.part).lastRegion g.part

/-- The RGNRST event of R327. -/
def State.resetEvent (s : State) (r : Nat) : State :=
  if (s.region r).state = .reset then s.modRegion r (fun g => { g with resetAt := s.tick }) else s.assertReset r

/-! ### Scrub (R327, R331, R336, R337) -/

/-- A new scrub sequence number is taken and the stored token is discarded (R337, R340). -/
def State.newScrub (s : State) (r : Nat) : State :=
  s.modRegion r (fun g => { g with
    scount := g.scount + 1, sseq := epochOf s.boots * 2 ^ 32 + (g.scount + 1) % 2 ^ 32, phase := 0, done := 0, restarts := 0, token := none })

/-- A scrub of an unassigned region starts at once. -/
def State.scrubIdle (s : State) (r : Nat) : State :=
  ((s.newScrub r).startClock r).modRegion r (fun g => { g with state := .scrub, part := 0xFF })

/-- The SCRUB event of R327, and whether a scrub started or was recorded. -/
def State.scrubEvent (s : State) (r : Nat) : State × Bool :=
  match (s.region r).state with
  | .dirty => (s.scrubIdle r, true)
  | .clean => (s.scrubIdle r, true)
  | .owned =>
    let s := ((s.newScrub r).modRegion r (fun g => { g with state := .quiesce })).steer (s.region r).part
    ((List.range 4).foldl (fun s k => s.preempt r k) s, true)
  | .held => ((s.newScrub r).modRegion r (fun g => { g with state := .quiesce }), true)
  | .reset =>
    if (s.region r).ret = .scrub then (s, false) else (s.modRegion r (fun g => { g with recorded := true }), true)
  | _ => (s, false)

/-- A group that has lost every member keeps its phase (R331). -/
def emptyGroups (m : Map Group) : Map Group :=
  m.filterMap (fun kg => if kg.2.phase = 0 then none else some (kg.1, { phase := kg.2.phase : Group }))

/-- PARTITION RELEASE (R331): every task is ended without trigger and without a handler. -/
def State.releasePart (s : State) (p : Nat) : State :=
  let s := s.slots.foldl (fun s x => if x.2.2.part = p then s.freeSlot x.1 x.2.1 x.2.2.banks else s) s
  let s := (s.part p).tasks.foldl (fun s t => (s.dropWindow t).freeMailbox t) s
  let q := s.part p
  let s := s.setPart p { q with
    tasks := [], groups := emptyGroups q.groups }
  ((((s.withdraw p).endBindings (fun b => b.part == p)).giveLease p).modGrotto (fun g => { g with
    pend := g.pend.filter (fun h => h.part != p) })).steer p

/-- The partitions that a scrub of these regions releases: every region of theirs is named (R331). -/
def State.released (s : State) (l : List Nat) : List Nat :=
  (List.range 64).filter (fun p => s.placement p != [] && (s.placement p).all (fun r => l.contains r))

/-- SCRUB.rgn over a list of regions in increasing order, partition release decided over all of them (R350): the regions
whose scrub started or was recorded. -/
def State.scrubAll (s : State) (l : List Nat) : State × List Nat :=
  let ps := s.released l
  let firsts := ps.filterMap (fun p => (s.placement p).head?)
  let s := ps.foldl State.releasePart s
  let (s, done) := l.foldl (fun (a : State × List Nat) r =>
    let (t, ok) := a.1.scrubEvent r
    (t, if ok then a.2 ++ [r] else a.2)) (l.foldl (fun s r => s.modRegion r (fun g =>
      if g.state = .quiesce ∨ g.state = .scrub ∨ g.state = .sign ∨ (g.state = .reset ∧ (g.ret = .scrub ∨ g.recorded = true)) then g
      else { g with keyPhase := false })) s, [])
  (firsts.foldl (fun s r => s.modRegion r (fun g => { g with keyPhase := true })) s, done)

/-- Quiescing of a region is complete: its core holds no task and no command (R336). -/
def State.quiet? (s : State) (r : Nat) : Bool :=
  (s.region r).state == .quiesce && (s.core r).slots.isEmpty && (s.core r).cmds.isEmpty

/-- The region leaves its partition and its window group, and phase 0 begins at 1.6 GHz (R327 to R331). -/
def State.leavePartition (s : State) (r : Nat) : State :=
  let p := (s.region r).part
  let s := (((s.strandAll r true).rehome p (s.windowGroup r)).leaveWindow r).setClock r 16
  ((s.modRegion r (fun g => { g with state := .scrub, phase := 0, done := 0, recv := 0, donor := false })).steer p).lastRegion p

/-- The bytes that unit `u` of `size` bytes covers, from `base` on, leave a store. -/
def Bytes.without (m : Bytes) (base size u : Nat) : Bytes :=
  m.filter (fun x => !(decide (base + size * u ≤ x.1) && decide (x.1 < base + size * (u + 1))))

/-- The granules that such a unit covers are good again. -/
def goodUnit (err : List Nat) (base size u : Nat) : List Nat :=
  err.filter (fun g => !(decide (base + size * u ≤ 8 * g) && decide (8 * g < base + size * (u + 1))))

/-- What a unit of a scrub phase clears (R336). The lines of an L2 slice have no place in the model, so that its last unit clears them; the
Reservoir lines of the region's channels left with the region (R329), and phase 4 finds none. -/
def State.clearUnit (s : State) (r phase u : Nat) : State :=
  match phase with
  | 0 => s.setCore r { (s.core r) with cmds := [], cells := [], tileErr := [], sluices := [], sluiceRq := [], icache := [] }
  | 1 => s.setCore r { (s.core r) with spad := Bytes.without (s.core r).spad 0 4096 u, spadErr := goodUnit (s.core r).spadErr 0 4096 u }
  | 2 => if u + 1 = 256 then s.modRegion r (fun g => { g with l2 := [], l2Err := [] }) else s
  | 3 => { s with cist := Bytes.without s.cist (r * 2 ^ 28) (2 ^ 20) u, cistErr := goodUnit s.cistErr (r * 2 ^ 28) (2 ^ 20) u }
  | 5 =>
    s.modRegion r (fun g => { g with resid := [], tileTlb := [], nestTlb := [], nodes := [], base := 16, cur := 16, recv := 0, donor := false,
                                     group := 64 })
  | 6 => if (s.region r).part < 64 then s.setPart (s.region r).part { s.part (s.region r).part with keys := [] } else s
  | _ => s

/-- The scrub engine of a region completes the next unit of its phase (R336). -/
def State.scrubUnit (s : State) (r : Nat) : State :=
  let g := s.region r
  if g.state = .scrub ∧ g.done < phaseUnits g.phase g.keyPhase then
    (s.clearUnit r g.phase g.done).modRegion r (fun h => { h with done := g.done + 1 })
  else s

/-- Every unit of the current phase of a region is done (R336). -/
def Region.phaseOver (g : Region) : Bool := g.state == .scrub && decide (phaseUnits g.phase g.keyPhase ≤ g.done)

/-- A phase of a scrub completes (R327, R336). -/
def State.phaseDone (s : State) (r : Nat) : State :=
  let g := s.region r
  if g.phase < 6 then s.modRegion r (fun h => { h with phase := g.phase + 1, done := 0 })
  else (s.modRegion r (fun h => { h with state := .sign, phase := 0, done := 0, doneTick := s.tick })).modSignQ (fun l => l ++ [r])

/-! ### Completion tokens (R338 to R341) -/

/-- MASK of a token. -/
def tokenMask (keys : Bool) : Nat := if keys then 0x3FF else 0x2FF

/-- The token body of a region that is signed now (R338). -/
def State.tokenBody (s : State) (r : Nat) (signed : Bool) : List Byte :=
  let g := s.region r
  leBytes 4 0x5742544B ++ leBytes 2 1 ++ leBytes 1 r ++ leBytes 1 g.restarts ++ leBytes 8 g.sseq ++ leBytes 2 (tokenMask g.keyPhase) ++
    leBytes 1 (if signed then 1 else 0) ++ zeros 5 ++ leBytes 8 s.grotto.signClean ++ leBytes 16 Config.devId.toNat ++
    leBytes 8 g.doneTick ++ zeros 8 ++ keyId ++ zeros 32

/-- The signer signs for the first waiting region, which becomes CLEAN; none when no leaf is left (R339). -/
def State.signNext (s : State) : Option State :=
  match s.grotto.signQ with
  | [] => none
  | r :: rs =>
    if !s.exh && s.sigLeft == 0 then none
    else
      let tok : Token := { body := s.tokenBody r (!s.exh), signed := !s.exh, leaf := s.grotto.sigUsed, epoch := epochOf s.boots }
      let s := (s.stopClock r).modRegion r (fun g => { g with state := .clean, token := some tok, part := 0xFF })
      some ((s.modSignQ (fun _ => rs)).modGrotto (fun x => { x with sigUsed := if s.exh then x.sigUsed else x.sigUsed + 1 }))

/-- The 3,732 bytes of a token: its body with the signature, or with zeros (R339). -/
def Token.bytes (t : Token) : List Byte :=
  t.body ++ (if t.signed then hssSign t.epoch t.leaf t.body else zeros 3604)

/-- TOKCHK.chk of a region with a number: sd, and the state (R352). -/
def State.checkToken (s : State) (r seq : Nat) : Nat × State :=
  match (s.region r).state with
  | .held =>
    if (s.region r).token.isSome ∧ (s.region r).tokseq.toNat = seq then (0, (s.modRegion r (fun g => { g with state := .owned })).steer (s.region r).part) else (1, s)
  | .owned => (2, s)
  | _ => (3, s)

/-! ### Region instructions (R346 to R352) -/

/-- RGNASN's effect on the registers of a partition that receives its first region (R138, R259, R270, R271, R294, R360). -/
def Part.firstRegion (q : Part) : Part :=
  { q with captb := 0, captn := 0, cqbase := 0, cqsize := 0, decn := 0, hndl := 0, frmbase := 0, frmcnt := 0, sliceb := 0, s2tb := 0,
           xwgt := 0x01010101, lscfg := 1000, nextId := if q.tasks = [] then 1 else q.nextId }

/-- A CLEAN region assigned to a partition (R327, R329). -/
def State.assign (s : State) (r p : Nat) : State :=
  let s := if s.placement p = [] then s.setPart p (s.part p).firstRegion else s
  let held := (s.part p).pcfg.getLsbD 0
  ((s.rehome p []).startClock r).modRegion r (fun g =>
    { g with state := if held then .held else .owned, part := p, group := 64, l2 := [], l2Err := [], base := 16, cur := 16, recv := 0, donor := false,
             phase := 0, done := 0, keyPhase := false })

/-- RGNASN (R347). -/
def execRgnasn (sd sa sb : Nat) (s : State) : Host.Outcome State Fault Refusal :=
  issueWith (.rgnasn sd sa sb) s (fun sl =>
    let r := (sl.ctx.reg sa).toNat
    let p := (sl.ctx.reg sb).toNat
    let c := s.curCore
    let k := s.curSlot
    if 65 < r ∨ 63 < p then .fault (ctlFault 0x06 sl)
    else if 63 < r then .done (s.writeReg c k sd 3)
    else
      match (s.region r).state with
      | .clean => .done ((s.assign r p).writeReg c k sd 0)
      | .owned => .done (s.writeReg c k sd 2)
      | .held => .done (s.writeReg c k sd 2)
      | _ => .done (s.writeReg c k sd 1))

/-- A region that RGNWIN may name (R348). -/
def State.windowNamed (s : State) (p r : Nat) : Bool :=
  (s.region r).part == p && ((s.region r).assigned || (s.region r).state == .quiesce)

/-- RGNWIN (R348). -/
def execRgnwin (sd sa : Nat) (s : State) : Host.Outcome State Fault Refusal :=
  issueWith (.rgnwin sd sa) s (fun sl =>
    let c := s.curCore
    let k := s.curSlot
    let p := selPart c sl
    let l := bitsOf 64 (sl.ctx.reg sa)
    let held := fun (r : Nat) => (s.region r).state == .held || ((s.region r).state == .reset && (s.region r).ret == .held)
    if p = fontanier then .fault (ctlFault 0x06 sl)
    else if l.length < 2 then .fault (ctlFault 0x02 sl)
    else if l.any (fun r => !s.windowNamed p r) then .fault (ctlFault 0x06 sl)
    else if l.any held then .fault (ctlFault 0x15 sl)
    else if l.any (fun r => (s.region r).state != .owned) then .done (s.writeReg c k sd 1)
    else
      let all := (List.range 64).filter (fun r => l.any (fun q => (s.windowGroup q).contains r))
      .done ((s.joinWindow all).writeReg c k sd 0))

/-- RGNRST (R349). -/
def execRgnrst (sd sa : Nat) (s : State) : Host.Outcome State Fault Refusal :=
  issueWith (.rgnrst sd sa) s (fun sl =>
    let c := s.curCore
    let k := s.curSlot
    let r := (sl.ctx.reg sa).toNat
    if 65 < r then .fault (ctlFault 0x06 sl)
    else if 63 < r then .done (s.writeReg c k sd (BitVec.allOnes 64))
    else
      let s := s.resetEvent r
      .done (s.writeReg c k sd ((s.region r).scrprog)))

/-- SCRUB (R343, R350). -/
def execScrub (sd sa : Nat) (frame : Bool) (s : State) : Host.Outcome State Fault Refusal :=
  issueWith (.scrub sd sa frame) s (fun sl =>
    let c := s.curCore
    let k := s.curSlot
    let a := sl.ctx.reg sa
    if frame then
      if bits a 63 40 ≠ 0 then .fault (ctlFault 0x02 sl)
      else if 1024 ≤ s.grotto.scrubQ.length then .done (s.writeReg c k sd 1)
      else .done ((s.modGrotto (fun x => { x with scrubQ := x.scrubQ ++ [a.toNat] })).writeReg c k sd 0)
    else if a = 0 then .fault (ctlFault 0x02 sl)
    else
      let (s, done) := s.scrubAll (bitsOf 64 a)
      .done (s.writeReg c k sd (maskOf done)))

/-- SCRST (R351). -/
def execScrst (sd sa : Nat) (alloc : Bool) (s : State) : Host.Outcome State Fault Refusal :=
  issueWith (.scrst sd sa alloc) s (fun sl =>
    let c := s.curCore
    let k := s.curSlot
    if alloc then
      match s.grotto.clean with
      | [] => .stall s
      | f :: fs => .done ((s.modGrotto (fun x => { x with clean := fs })).writeReg c k sd (toW f))
    else
      let r := (sl.ctx.reg sa).toNat
      if 63 < r then .fault (ctlFault 0x06 sl)
      else .done (s.writeReg c k sd (s.region r).scrprog))

/-- The region that TOKCHK names is one the issuer may name (R352). -/
def State.tokenRegion (s : State) (c : Nat) (sl : Slot) (r : Nat) : Bool :=
  decide (r < 64) && (slotLevel c sl == .h || s.windowNamed sl.part r)

/-- TOKCHK (R352). -/
def execTokchk (sd sa sb c : Nat) (get : Bool) (s : State) : Host.Outcome State Fault Refusal :=
  issueWith (.tokchk sd sa sb c get) s (fun sl =>
    let r := (sl.ctx.reg sa).toNat
    let b := (sl.ctx.reg sb).toNat
    let core := s.curCore
    let k := s.curSlot
    if !s.tokenRegion core sl r then .fault (ctlFault 0x06 sl)
    else if get then
      if b % 8 ≠ 0 then .fault (((sl.ctx.cap c).refuses b 3732 8 kStore).getD (ctlFault 0x0B sl))
      else
        match (s.region r).token with
        | none => .done (s.writeReg core k sd 0)
        | some t =>
          if !s.mayAccess sl .rel then .stall s
          else
            match s.storeObj sl (sl.ctx.cap c) b 8 5 t.bytes with
            | .fault s f => .lost s f
            | .stall s => .stall s
            | .ok s _ => .done (s.writeReg core k sd 3732)
    else
      let (v, s) := s.checkToken r b
      .done (s.writeReg core k sd (toW v)))

/-! ### KEYZ (R353) -/

/-- The access is pool traffic of partition `p` under a slot that `m` names. -/
def P0Acc.under (a : P0Acc) (m : Nat) : Bool :=
  m.testBit a.key && (a.aper == .pool || a.aper == .localPage || a.aper == .peer)

/-- The request of the access is on a conduit. -/
def P0Acc.onWay (a : P0Acc) : Bool :=
  match a.req with
  | .sent _ => true
  | _ => false

/-- An access under a zeroised slot that was not sent is dropped and raises 0x07: a posted one at the next delivery point of R156, and one
that returns a value at its own instruction, which is repeated on resume (R353). -/
def P0Acc.keyFault (a : P0Acc) : Deferred :=
  { seq := a.seq, fault := { a.fault 0x07 with word := a.word, pc := a.pc }, sd := a.op.target,
    redo := if a.op.returns then some a.renew else none, own := a.op.returns }

/-- The requests of a slot that are on a conduit under a named key slot complete, under the old key (R353). -/
def State.landSent (s : State) (c k m : Nat) (sl : Slot) : State :=
  (sl.p0.filter (fun a => a.under m && a.onWay)).foldl (fun s a =>
    match s.slot? c k with
    | some sl => s.performP0 c k sl { a with till := s.tick + 1 }
    | none => s) s

/-- The accesses of a slot under a named key slot that were not sent are dropped. -/
def State.dropUnsent (s : State) (c k m : Nat) : State :=
  let pick := fun (a : P0Acc) => a.under m && !a.onWay
  (s.modSlot c k (fun sl =>
    { sl with p0 := sl.p0.filter (fun a => !pick a), deferred := sl.deferred ++ (sl.p0.filter pick).map P0Acc.keyFault })).settle c k

/-- The accesses of a saved context after a zeroisation. -/
def Task.dropUnsent (m : Nat) (t : Task) : Task :=
  let pick := fun (a : P0Acc) => a.under m && !a.onWay
  { t with p0 := t.p0.filter (fun a => !pick a), deferred := t.deferred ++ (t.p0.filter pick).map P0Acc.keyFault }

/-- A slot of the partition still has a request on a conduit under a named key slot. -/
def State.keyTraffic (s : State) (p m : Nat) : Bool :=
  s.slots.any (fun x => x.2.2.part == p && x.2.2.p0.any (fun a => a.under m && a.onWay))

/-- The requests of a partition that are on a conduit under the named key slots complete. -/
def State.landAll (s : State) (p m : Nat) : State :=
  s.slots.foldl (fun s x => if x.2.2.part = p then s.landSent x.1 x.2.1 m x.2.2 else s) s

/-- The key slots that a mask names become empty, and their traffic ends (R353). -/
def State.zeroise (s : State) (p m : Nat) : State :=
  let s := s.slots.foldl (fun s x => if x.2.2.part = p then s.dropUnsent x.1 x.2.1 m else s) s
  let q := s.part p
  s.setPart p { q with keys := q.keys.filter (fun x => !m.testBit x.1), tasks := q.tasks.map (Task.dropUnsent m) }

/-- KEYZ: what is on a conduit lands first; a request that a gate holds back keeps KEYZ waiting (R353). -/
def execKeyz (sd sa : Nat) (s : State) : Host.Outcome State Fault Refusal :=
  issueWith (.keyz sd sa) s (fun sl =>
    let c := s.curCore
    let k := s.curSlot
    let p := selPart c sl
    let a := sl.ctx.reg sa
    if p = fontanier then .fault (ctlFault 0x06 sl)
    else if bits a 63 16 ≠ 0 then .fault (ctlFault 0x02 sl)
    else
      let old := maskOf ((List.range 16).filter (fun i => (mget none (s.part p).keys i).isSome))
      let s := s.landAll p a.toNat
      if s.keyTraffic p a.toNat then .stall s else .done ((s.zeroise p a.toNat).writeReg c k sd (old &&& a)))

/-! ### Messages between partitions (R344, R345, R354, R355) -/

/-- The words of a filter entry that MSGF may not write. -/
def entryBad (b : List Byte) : Bool :=
  let w := fun i => fword b (8 * i)
  (w 0).getLsbD 62 || bits (w 0) 55 54 != 0 || (w 2).getLsbD 60 || bits (w 2) 47 0 != 0 ||
    bits (w 0) 61 56 == bits (w 0) 53 48 || ((w 0).getLsbD 63 && bits (w 1) 63 48 == 0) || bits (w 1) 47 0 % 64 != 0 ||
    decide (128 < bits (w 2) 55 48)

/-- MSGF. -/
def execMsgf (sd sa c imm : Nat) (s : State) : Host.Outcome State Fault Refusal :=
  issueWith (.msgf sd sa c imm) s (fun sl =>
    if !s.mayAccess sl .acq then .stall s
    else
      match s.loadObj sl (sl.ctx.cap c) (sl.ctx.reg sa).toNat 32 32 4 with
      | .fault s f => .lost s f
      | .stall s => .stall s
      | .ok s b =>
        if entryBad b then .fault (ctlFault 0x02 sl)
        else
          let old := mget {} s.grotto.filter imm
          let s := s.modGrotto (fun g => { g with
            filter := mput {} g.filter imm { old with w0 := fword b 0, w1 := fword b 8, w2 := fword b 16 } })
          .done (s.writeReg s.curCore s.curSlot sd (toW old.used.length)))

/-- The lowest free mailbox slot of an entry (R345). -/
def MsgEntry.freeSlot (e : MsgEntry) : Option Nat :=
  (List.range (e.used.length + 1)).find? (fun i => !e.used.contains i && decide (i < bits e.w1 63 48))

/-- The task that a message starts (R345). -/
def MsgEntry.task (e : MsgEntry) (imm i : Nat) (launch : Nat) : Task :=
  { id := 0, part := bits e.w0 53 48, code := bits e.w0 47 0, frame := toW (bits e.w1 47 0 + 64 * i), join := 0, prio := bits e.w2 63 61,
    banks := bits e.w2 59 56, fmttrap := false, sup := false, spkib := 4 * bits e.w2 55 48, group := 0xFF, pin := 0x7F,
    mailbox := some (imm, i), launch := launch }

/-- How a delivery ends: a status, a wait for a task entry, or a wait for a route, with its record. -/
inductive Delivery where
  | status (n : Nat) (s : State)
  | stall
  | held (f : FaultRec)

/-- A delivery that meets a fault: its request waits, or it fails with status 2. -/
def Delivery.stop (s : State) (f : FaultRec) : Delivery := if f.hold.isSome then .held f else .status 2 s

/-- The message is written through DST's table entry 1 and its task entered (R345). It waits for a task entry. -/
def State.deliverMsg (s : State) (e : MsgEntry) (imm i : Nat) (msg : List Byte) : Delivery :=
  let dst := bits e.w0 53 48
  let r := s.curCore
  match s.tableEntry r dst 1 with
  | .error f => .stop s f
  | .ok (entry, ns) =>
    let cap := entry.getD {}
    match objAccess s r dst cap (bits e.w1 47 0 + 64 * i) 64 1 kStore with
    | .error f => .stop s f
    | .ok t =>
      let x := nowPiece t 64 (bits e.w1 47 0 + 64 * i) cap.oid
      match s.nowGate r dst x 5 true with
      | some f => .stop s f
      | none =>
        if (s.stalePiece dst 5 cap [x]).isSome then .status 2 (s.loseLease dst)
        else if !s.hasEntry dst then .stall
        else
          let s := (s.sendLines dst t 64 5 true (capToken s dst cap)).keepNotes r dst (ns ++ t.notes)
          let (v, s) := (s.storeAt (t.loc r dst) 5 {} msg).takeFree
          let s := s.modGrotto (fun g => { g with filter := mput {} g.filter imm { e with used := e.used ++ [i] } })
          .status 0 (s.enterTask (e.task imm i v.toNat))

/-- XENQ's lookup of the entry (R355). -/
def State.sendMsg (s : State) (from_ imm : Nat) (msg : List Byte) : Delivery :=
  let e := mget {} s.grotto.filter imm
  let dst := bits e.w0 53 48
  if !e.w0.getLsbD 63 || bits e.w0 61 56 != from_ then .status 2 s
  else
    match e.freeSlot with
    | none => .status 1 s
    | some i =>
      if s.regionsOf dst (fun g => g.state == .owned) = [] then .status 3 s else s.deliverMsg e imm i msg

/-- XENQ. -/
def execXenq (sd sa c imm : Nat) (s : State) : Host.Outcome State Fault Refusal :=
  issueWith (.xenq sd sa c imm) s (fun sl =>
    if !s.quiet sl then .stall s
    else
      match s.loadObj sl (sl.ctx.cap c) (sl.ctx.reg sa).toNat 64 64 3 with
      | .fault s f => .lost s f
      | .stall s => .stall s
      | .ok s b =>
        match s.sendMsg sl.part imm b with
        | .stall => .stall s
        | .held f => .fault f
        | .status n s => .done (s.writeReg s.curCore s.curSlot sd (toW n)))

/-! ### Events of regions and frames -/

/-- REGION_RESET_RELEASE: 4 µs after the last assertion; a recorded SCRUB is then taken (R327). -/
def execRegionResetRelease (region : Nat) (s : State) : Host.Outcome State Fault Refusal :=
  if 63 < region then .fault .noUnit
  else
    let g := s.region region
    if g.state = .reset ∧ g.resetAt + 4000 ≤ s.tick then
      let t := ((s.modRegion region (fun h => { h with state := g.ret, recorded := false, peers := [] })).startClock region).steer g.part
      .next (if g.recorded then (t.scrubEvent region).1 else t)
    else .next s

/-- QUIESCE_COMPLETE (R336). -/
def execQuiesceComplete (region : Nat) (s : State) : Host.Outcome State Fault Refusal :=
  if 63 < region then .fault .noUnit else .next (if s.quiet? region then s.leavePartition region else s)

/-- SCRUB_PHASE_COMPLETE: every unit of the phase is done (R336). -/
def execScrubPhaseComplete (region : Nat) (s : State) : Host.Outcome State Fault Refusal :=
  if 63 < region then .fault .noUnit
  else .next (if (s.region region).phaseOver then s.phaseDone region else s)

/-- TOKEN_SIGNED (R338, R339). -/
def execTokenSigned (s : State) : Host.Outcome State Fault Refusal := .next (s.signNext.getD s)

/-- A stage-2 leaf names a system page of the pool. -/
def leafNames (l frame : Nat) : Bool := leafSpn l == frame && leafAper l != .cistern

/-- A frame of system memory zeroed by the pool. -/
def State.zeroFrame (s : State) (f : Nat) : State :=
  { s with mem := s.mem.filter (fun x => x.1 / 2 ^ 21 != f), memErr := s.memErr.filter (fun g => g / 2 ^ 18 != f) }

/-- Some partition has the frame in its pinned reserve. -/
def State.pinnedFrame (s : State) (f : Nat) : Bool := s.parts.any (fun kp => kp.2.pinned.contains f)

/-- Every copy of a freed frame's lines, and every cached leaf that names it, is invalidated, and a pinned copy is zeroed (R343). A LOCAL
page has one copy in the model, the pool's, which is zero from then on. -/
def State.forgetFrame (s : State) (f : Nat) : State :=
  let s := s.dropResAll (fun line => line / 2 ^ 14 == f)
  let s := (List.range 64).foldl (fun s r => s.dropL2 r (fun l => l.line / 2 ^ 14 == f)) s
  let s := { s with resErr := s.resErr.filter (fun g => g / 2 ^ 18 != f) }
  let s := if s.pinnedFrame f then s.zeroFrame f else s
  s.mapCaches (fun g => { g with nestTlb := g.nestTlb.filter (fun e => !leafNames e.val f) })

/-- FRAME_SCRUB_START: an engine takes the next frame, unless four are at work or the clean pool would have no room for it (R343). -/
def execFrameScrubStart (s : State) : Host.Outcome State Fault Refusal :=
  match s.grotto.scrubQ with
  | [] => .next s
  | f :: fs =>
    if s.grotto.scrubbing.length < 4 ∧ s.grotto.clean.length + s.grotto.scrubbing.length < 16384 then
      .next ((s.forgetFrame f).modGrotto (fun g => { g with scrubQ := fs, scrubbing := g.scrubbing ++ [f] }))
    else .next s

/-- The route of a request that is not for a line: the lowest UP conduit (R363). -/
def State.sends (s : State) (dest : Nat) : Bool :=
  match s.route dest 0 with
  | .sent _ => true
  | _ => false

/-- SCRUB_ON_FREE_ACK: it is retried while no route exists (R343). -/
def execScrubOnFreeAck (idx : Nat) (s : State) : Host.Outcome State Fault Refusal :=
  match s.grotto.scrubbing[idx]? with
  | none => .next s
  | some f =>
    if s.sends (s.sliceOf f) then
      .next ((s.zeroFrame f).modGrotto (fun g => { g with scrubbing := g.scrubbing.eraseIdx idx, clean := g.clean ++ [f] }))
    else .next s

end Sys2Proof.Machine
end

