-- ==== Sys2Proof/Machine/Conduit.lean ====
section
/-! DEFINITION. Conduits, leases and recovery (R357 to R380): conduit states, held requests, topology maps, step leases,
fencing, and the answers of the pool. -/

namespace Sys2Proof.Machine

/-! ### Conduits (R357, R358, R361) -/

/-- A conduit changed. -/
def State.modConduit (s : State) (n : Nat) (f : Conduit → Conduit) : State :=
  s.modLinks (fun l => { l with conduits := mput {} l.conduits n (f (s.conduit n)) })

/-- The lanes of a conduit that carry data while it is UP or DRAINING: the spare takes the place of the lane that the repair
image names (R361, R384). -/
def State.lanes (s : State) (n : Nat) : Nat :=
  if (s.conduit n).state = .up ∨ (s.conduit n).state = .draining then
    let x := (s.host.image.drop (64 + n)).headD 0xFF
    if s.host.repaired ∧ x < 8 then 0x1FF - 2 ^ x else 0xFF
  else 0

/-- A conduit event of R358 is logged (R388). -/
def State.logConduit (s : State) (n : Nat) : State := s.logError 2 65 5 0xFF n (s.lanes n)

/-- The code of a conduit state (R361). -/
def CState.code : CState → Nat
  | .down => 0
  | .training => 1
  | .up => 2
  | .draining => 3
  | .drained => 4
  | .retuning => 5

/-- An LSACQ waits at the pool through conduit `n`. -/
def Part.acquiresOn (q : Part) (n : Nat) : Bool := q.acq.any (fun a => a.done.isNone && a.conduit == some n)

/-- Requests outstanding on a conduit: accesses, and acquires that wait at the pool (R361, R363). -/
def State.outstanding (s : State) (n : Nat) : Nat :=
  s.allP0.countP (fun a => a.req == .sent n) + s.parts.countP (fun kp => kp.2.acquiresOn n)

/-- The port word of a conduit (R361). -/
def State.portWord (s : State) (n : Nat) : Word :=
  toW (min 65535 (s.outstanding n) * 2 ^ 32 + s.lanes n * 2 ^ 8 + (s.conduit n).state.code)

/-! ### Requests that wait for a route (R363, R364) -/

/-- An outstanding access is given up with a fault: its outcome may be unknown. -/
def State.failAcc (s : State) (c k p code : Nat) (a : P0Acc) : State := ((s.giveUp c p a).deferAcc c k a code a.op.returns).settle c k

/-- The outstanding accesses of slots, as (core, slot number, partition, access), in the order in which they were first made. -/
def State.slotAccs (s : State) (sel : P0Acc → Bool) : List (Nat × Nat × Nat × P0Acc) :=
  sortBy (fun (a b : Nat × Nat × Nat × P0Acc) => decide (a.2.2.2.first ≤ b.2.2.2.first))
    (s.slots.flatMap (fun x => (x.2.2.p0.filter sel).map (fun a => (x.1, x.2.1, x.2.2.part, a))))

/-- Every saved context of the package changed. -/
def State.mapSaved (s : State) (f : Task → Task) : State :=
  { s with parts := s.parts.map (fun (kp : Nat × Part) => (kp.1, { kp.2 with tasks := kp.2.tasks.map f })) }

/-- The saved contexts with accesses, as (partition, task, access). -/
def State.savedAccs (s : State) (sel : P0Acc → Bool) : List (Nat × Task × P0Acc) :=
  s.parts.flatMap (fun kp => kp.2.tasks.flatMap (fun t => (t.p0.filter sel).map (fun a => (kp.1, t, a))))

/-- An access of a saved context changed. -/
def State.modSaved (s : State) (p id seq : Nat) (f : P0Acc → P0Acc) : State :=
  s.modTask p id (fun t => { t with p0 := t.p0.map (fun a => if a.seq = seq then f a else a) })

/-- An access of a saved context is given up with a fault, which its slot delivers after the restore. -/
def State.failSaved (s : State) (p : Nat) (t : Task) (code : Nat) (a : P0Acc) : State :=
  (s.giveUp t.core p a).modTask p t.id (fun t =>
    { t with p0 := t.p0.filter (fun b => b.seq != a.seq), deferred := t.deferred ++ [a.deferral (a.fault code) a.op.returns] })

/-- The conduit for an LSACQ that is held, if there is one now (R363, R364). -/
def State.acquireRoute (s : State) (name : Word) : Option Nat :=
  match s.route (s.sliceOfName name.toNat) 0 with
  | .sent n => some n
  | _ => none

/-- The acquires that are held go out where they may. -/
def State.routeAcquires (s : State) : State :=
  { s with parts := s.parts.map (fun (kp : Nat × Part) => (kp.1, { kp.2 with acq := kp.2.acq.map (fun (a : Acquire) =>
      if a.done.isNone && a.conduit.isNone then { a with conduit := s.acquireRoute a.name } else a) })) }

/-- The states of the conduits have changed: held requests go out where they may, in the order in which they were first made (R364), and
the recalls that other packages' writes wait for reach the package (R369). -/
def State.releaseHeld (s : State) : State :=
  let s := (s.slotAccs (fun a => a.req == .held)).foldl (fun s x => (s.retryHeld x.1 x.2.1 x.2.2.1 x.2.2.2).settle x.1 x.2.1) s
  (if s.mapst = 0 then s.routeAcquires else s).poolRetry

/-- A request that was outstanding on a conduit goes out again on the conduit that R363 now gives; without one it stays held. -/
def State.copySaved (s : State) (p : Nat) (t : Task) (a : P0Acc) : State :=
  match s.route (s.accDest a) (a.addr / 128) with
  | .sent m =>
    if s.lineBusy a.line m || a.expired s.tick then s
    else (if p = fontanier then s else s.sealMsg p a.key).modSaved p t.id a.seq (fun a => { a with req := .sent m })
  | _ => s

/-- The outstanding requests of a conduit that goes DOWN are sent again at once, or held (R364). -/
def State.resend (s : State) (n : Nat) : State :=
  let mine := fun (a : P0Acc) => a.req == .sent n
  let hold := fun (a : P0Acc) => if mine a then a.hold s.tick false else a
  let l := s.slotAccs mine
  let ts := s.savedAccs mine
  let s := l.foldl (fun s x => s.modAcc x.1 x.2.1 x.2.2.2.seq hold) (s.mapSaved (fun t => { t with p0 := t.p0.map hold }))
  let s := l.foldl (fun s x => s.sendP0 x.1 x.2.1 x.2.2.1 { x.2.2.2 with req := .held }) s
  let s := ts.foldl (fun s x => s.copySaved x.1 x.2.1 x.2.2) s
  ({ s with parts := s.parts.map (fun (kp : Nat × Part) =>
      (kp.1, { kp.2 with acq := kp.2.acq.map (fun (a : Acquire) => if a.conduit = some n then { a with conduit := none } else a) })) }).routeAcquires

/-- A conduit enters a state by an event of R358, which is logged; held requests may then go out. -/
def State.conduitTo (s : State) (n : Nat) (f : Conduit → Conduit) : State := ((s.modConduit n f).logConduit n).releaseHeld

/-- A conduit that loses its link goes DOWN (R358). -/
def State.linkLost (s : State) (n : Nat) : State :=
  match (s.conduit n).state with
  | .down => s
  | .drained => s
  | _ => (((s.modConduit n (fun x => { x with state := .down, tries := 0 })).logConduit n).resend n).releaseHeld

/-- A conduit event: the conduit exists, and its state is the one that the event is for. -/
def conduitEvent (s : State) (n : Nat) (st : CState) (f : State) : Host.Outcome State Fault Refusal :=
  if 47 < n then .fault .noUnit else .next (if (s.conduit n).state = st then f else s)

/-- The requests on a conduit that no event names come back with retry status when the drain marker is answered: those of saved contexts,
and acquires that wait at the pool, which are new requests when they go out again (R364, R365). -/
def State.returnRest (s : State) (n : Nat) : State :=
  let s := s.mapSaved (fun t => { t with p0 := t.p0.map (fun a => if a.req = .sent n then { a.hold s.tick false with retry := true } else a) })
  ({ s with parts := s.parts.map (fun (kp : Nat × Part) => (kp.1, { kp.2 with acq := kp.2.acq.map (fun (a : Acquire) =>
      if a.conduit = some n ∧ a.done = none then { a with conduit := none, ord := s.clock, sent := s.tick } else a) })) }).bump

/-- No access of a slot is outstanding on a conduit. -/
def State.drained (s : State) (n : Nat) : Bool := (s.slotAccs (fun a => a.req == .sent n)).isEmpty

/-- DRAIN_COMPLETE: the last outstanding request has completed or returned (R358). -/
def execDrainComplete (conduit : Nat) (s : State) : Host.Outcome State Fault Refusal :=
  conduitEvent s conduit .draining
    (if s.drained conduit then (s.returnRest conduit).conduitTo conduit (fun x => { x with state := .drained }) else s)

/-- TRAINING_ATTEMPT_SUCCESS (R358). -/
def execTrainingAttemptSuccess (conduit : Nat) (s : State) : Host.Outcome State Fault Refusal :=
  conduitEvent s conduit .training (s.conduitTo conduit (fun x => { x with state := .up, tries := 0 }))

/-- TRAINING_ATTEMPT_FAIL: after the third the conduit is DOWN (R358). -/
def execTrainingAttemptFail (conduit : Nat) (s : State) : Host.Outcome State Fault Refusal :=
  conduitEvent s conduit .training
    (if (s.conduit conduit).tries < 2 then s.modConduit conduit (fun x => { x with tries := x.tries + 1 })
     else s.conduitTo conduit (fun x => { x with state := .down, tries := 0 }))

/-- RETUNE_COMPLETE (R358). -/
def execRetuneComplete (conduit : Nat) (s : State) : Host.Outcome State Fault Refusal :=
  conduitEvent s conduit .retuning (s.conduitTo conduit (fun x => { x with state := .up, retune := false }))

/-- RETUNE_FAIL (R358). -/
def execRetuneFail (conduit : Nat) (s : State) : Host.Outcome State Fault Refusal :=
  conduitEvent s conduit .retuning (s.conduitTo conduit (fun x => { x with state := .down, retune := false }))

/-- LOSS_OF_SIGNAL (R358). -/
def execLossOfSignal (conduit : Nat) (s : State) : Host.Outcome State Fault Refusal :=
  if 47 < conduit then .fault .noUnit else .next (s.linkLost conduit)

/-- LINK_RETRY_EXHAUSTED (R357, R358). -/
def execLinkRetryExhausted (conduit : Nat) (s : State) : Host.Outcome State Fault Refusal :=
  if 47 < conduit then .fault .noUnit else .next (s.linkLost conduit)

/-! ### Requests and their answers (R364, R366, R373, R374) -/

/-- An outstanding access of a slot. -/
def accEvent (s : State) (c k idx : Nat) (f : Slot → P0Acc → State) : Host.Outcome State Fault Refusal :=
  slotEvent s c k (fun sl => (sl.p0[idx]?).map (f sl))

/-- A request that waits for a training conduit has waited its 1 ms while MAPST is ACTIVE, and the pool cannot have applied it (R364). -/
def State.heldOut (s : State) (a : P0Acc) : Bool :=
  a.req == .held && !a.unknown && a.timed.any (fun t => decide (t + 1000000 ≤ s.tick)) && s.mapst == 0 &&
    s.route (s.accDest a) (a.addr / 128) == .timed

/-- HELD_REQUEST_TIMEOUT: a request held for a training conduit for 1 ms has no route (R364). -/
def execHeldRequestTimeout (core slot idx : Nat) (s : State) : Host.Outcome State Fault Refusal :=
  accEvent s core slot idx (fun sl a => if s.heldOut a then s.failAcc core slot sl.part 0x12 a else s)

/-- REQUEST_OUTCOME_TIMEOUT: 2 ms after the first send the outcome is not known, and 0x0D reports it (R366). -/
def execRequestOutcomeTimeout (core slot idx : Nat) (s : State) : Host.Outcome State Fault Refusal :=
  accEvent s core slot idx (fun sl a => if a.expired s.tick then s.failAcc core slot sl.part 0x0D a else s)

/-- RETRY_STATUS: a request outstanding on a DRAINING conduit comes back, which promises that it was not applied, and is held (R364). -/
def execRetryStatus (core slot idx : Nat) (s : State) : Host.Outcome State Fault Refusal :=
  accEvent s core slot idx (fun _ a =>
    match a.req with
    | .sent n =>
      if (s.conduit n).state = .draining then
        s.modAcc core slot a.seq (fun a => { a.hold s.tick false with retry := true })
      else s
    | _ => s)

/-- The pool rejects the next write of a command of the slot: its step, which meets the rejection, is made (R211, R251, R373). -/
def staleCmd (s : State) (core : Nat) (m : Option Cmd) (f : Cmd → Host.Outcome State Fault Refusal) : Host.Outcome State Fault Refusal :=
  match m with
  | none => .next s
  | some m =>
    match s.slot? core m.slot with
    | none => .next s
    | some sl =>
      let l := (s.part sl.part).lease
      if m.leaseBound && s.poolStale l.name l.token then f m else .next s

/-- The next step of an XF command with its place among those of its core. -/
def xfNext (s : State) (core : Nat) (m : Cmd) : Host.Outcome State Fault Refusal :=
  let i := (s.xfCmds core).findIdx (fun x => x.slot == m.slot && x.seq == m.seq)
  if m.paid then execFlagStep core i s else if isPayload m.instr then execXfPayloadStep core i s else execXfSingleStep core i s

/-- STALE_ANSWER: the pool rejects a lease-bound write; 0x0D follows, and the lease is LOST (R156, R162, R251, R373). -/
def execStaleAnswer (core slot : Nat) (src : StaleSrc) (s : State) : Host.Outcome State Fault Refusal :=
  match src with
  | .p0 idx =>
    slotEvent s core slot (fun sl =>
      (sl.p0[idx]?).bind (fun a =>
        if a.onWay && s.accStale a then
          some (((s.loseLease sl.part).deferAcc core slot a 0x0D a.op.returns).settle core slot)
        else none))
  | .vs => if 64 < core ∨ 3 < slot then .fault .noUnit else staleCmd s core (s.first? core slot .vs) (fun _ => execVsStep core slot s)
  | .xf idx =>
    if 64 < core ∨ 3 < slot then .fault .noUnit
    else staleCmd s core ((s.slotCmds core slot).filter (fun m => m.eng == .xf))[idx]? (xfNext s core)

/-- The access has a request to the pool outstanding or held (R374). -/
def P0Acc.atPool (a : P0Acc) : Bool := a.req != .fresh && a.aper != .peer

/-- Every outstanding pool request is reported as 0x0D, in slots and in saved contexts (R374). -/
def State.fenceAll (s : State) : State :=
  let s := (s.slotAccs P0Acc.atPool).foldl (fun s x => s.failAcc x.1 x.2.1 x.2.2.1 0x0D x.2.2.2) s
  (s.savedAccs P0Acc.atPool).foldl (fun s x => s.failSaved x.1 x.2.1 0x0D x.2.2) s

/-- A partition after a FENCED answer: no step lease (R374). -/
def Part.fenced (q : Part) : Part := { q with lease := {}, acq := none }

/-- FENCED_ANSWER (R374). -/
def execFencedAnswer (s : State) : Host.Outcome State Fault Refusal :=
  let s := (s.modLinks (fun l => { l with fenced := true })).fenceAll.dropResAll (fun _ => true)
  let s := { s with parts := s.parts.map (fun (kp : Nat × Part) => (kp.1, kp.2.fenced)) }
  .next (s.logError 3 65 5 0xFF 0 0x0D)

/-- RECALL: every line in a range of 2^`size` bytes leaves the Reservoir with its lease, where a conduit carries the recall (R358,
R368). -/
def execRecall (base size : Nat) (s : State) : Host.Outcome State Fault Refusal :=
  .next (if s.carries (s.sliceOf (base / 2 ^ 21)) then (s.recallLines (base / 2 ^ size * 2 ^ size) size).poolRetry else s)

/-- READ_LEASE_EXPIRY: a line whose read lease has run out is not used again (R368). -/
def execReadLeaseExpiry (part line : Nat) (s : State) : Host.Outcome State Fault Refusal :=
  if 63 < part then .fault .noUnit
  else
    .next (if (s.part part).lines.any (fun l => l.line == line && decide (l.till ≤ s.tick)) then s.dropRes part (fun l => l == line)
           else s)

/-- JOIN: sent to each slice once a conduit is UP (R374). -/
def execJoin (s : State) : Host.Outcome State Fault Refusal :=
  if s.conduitsIn .up = [] ∨ s.links.fenced = true then .next s
  else .next (s.modLinks (fun l => { l with joinSent := List.range s.slices }))

/-- The requests that were held for the Join of a slice meet the conduits as they are now (R374). -/
def State.releaseSlice (s : State) (slice : Nat) : State :=
  ((s.slotAccs (fun a => a.req == .held && !a.wasSent)).foldl (fun s x =>
    if s.accDest x.2.2.2 = slice then (s.sendP0 x.1 x.2.1 x.2.2.1 x.2.2.2).settle x.1 x.2.1 else s) s).releaseHeld

/-- JOIN_ACCEPTED: requests held for the slice may go out (R374). -/
def execJoinAccepted (slice : Nat) (s : State) : Host.Outcome State Fault Refusal :=
  if 255 < slice then .fault .noUnit
  else if s.links.joinSent.contains slice ∧ !s.links.joined.contains slice ∧ s.links.fenced = false then
    .next ((s.modLinks (fun l => { l with joined := l.joined ++ [slice] })).releaseSlice slice)
  else .next s

/-- INBOUND_PEER_REQUEST: a request of another package is executed at the L2 slice, on words of 8 bytes or fewer (R155). -/
def execInboundPeerRequest (addr size : Nat) (op : PeerOp) (s : State) : Host.Outcome State Fault Refusal :=
  let old := rdN s.mem addr size
  let put := fun v => s.writeSys addr (leBytes size v)
  let answer := fun (t : State) v => t.modLinks (fun l => { l with replies := l.replies ++ [(addr, v)] })
  match op with
  | .read => if poisoned s.memErr addr size then .next s else .next (answer s old)
  | .write data => .next (put data)
  | .atomic op b => if poisoned s.memErr addr size then .next s else .next (answer (put (aopNew op (8 * size) old b)) old)
  | .cas b cmp => if poisoned s.memErr addr size then .next s else .next (answer (if old = cmp then put b else s) old)

/-! ### Link instructions (R375 to R377) -/

/-- LKST (R376). -/
def execLkst (sd sa : Nat) (port : Bool) (s : State) : Host.Outcome State Fault Refusal :=
  issueWith (.lkst sd sa port) s (fun sl =>
    let n := (sl.ctx.reg sa).toNat
    if port then
      if 47 < n then .fault (ctlFault 0x06 sl) else .done (s.writeReg s.curCore s.curSlot sd (s.portWord n))
    else .done (s.writeReg s.curCore s.curSlot sd s.lstate))

/-- The conduits of a list changed one after another, each change logged (R358). -/
def State.conduitsTo (s : State) (l : List Nat) (f : Conduit → Conduit) : State :=
  l.foldl (fun s n => (s.modConduit n f).logConduit n) s

/-- LKDRN (R377). -/
def execLkdrn (sd sa : Nat) (s : State) : Host.Outcome State Fault Refusal :=
  issueWith (.lkdrn sd sa) s (fun sl =>
    let a := sl.ctx.reg sa
    let l := (bitsOf 48 a).filter (fun n => (s.conduit n).state == .up)
    if bits a 63 48 ≠ 0 then .fault (ctlFault 0x02 sl)
    else .done ((s.conduitsTo l (fun x => { x with state := .draining })).writeReg s.curCore s.curSlot sd (maskOf l)))

/-- What LKRSM does to a conduit (R358). -/
def Conduit.resumed (x : Conduit) : Conduit :=
  match x.state with
  | .down => { x with state := .training, tries := 0 }
  | .drained => if x.retune then { x with state := .retuning } else { x with state := .up }
  | _ => x

/-- LKRSM (R359, R377). -/
def execLkrsm (sd sa : Nat) (s : State) : Host.Outcome State Fault Refusal :=
  issueWith (.lkrsm sd sa) s (fun sl =>
    let a := sl.ctx.reg sa
    let l := (bitsOf 48 a).filter (fun n => (s.conduit n).state == .down || (s.conduit n).state == .drained)
    if bits a 63 48 ≠ 0 then .fault (ctlFault 0x02 sl)
    else
      let s := (s.conduitsTo l Conduit.resumed).modLinks (fun x => { x with firstRsm := true })
      .done (s.releaseHeld.writeReg s.curCore s.curSlot sd (maskOf l)))

/-- A word of a topology map image (R362). -/
def mapWord (b : List Byte) (off : Nat) : Nat := leNat ((b.drop off).take 8)

/-- A must-be-zero bit of the image is set, or a bit of a MASK or of RETUNE above 47 (R362, R377). -/
def mapBad (b : List Byte) : Bool :=
  nbits (mapWord b 0) 63 40 != 0 || nbits (mapWord b 8) 63 48 != 0 || !zeroIn b 16 64 ||
    (List.range 512).any (fun d => nbits (mapWord b (64 + 8 * d)) 63 48 != 0)

/-- The map of an image that passed its checks. -/
def mapOfImage (b : List Byte) : Topo :=
  { seq := nbits (mapWord b 0) 31 0, nsm1 := nbits (mapWord b 0) 39 32, masks := mapOf 0 512 (fun d => nbits (mapWord b (64 + 8 * d)) 47 0) }

/-- LKTOP's outcome for an image without a bad bit: sd, and the state. -/
def State.installMap (s : State) (b : List Byte) : Nat × State :=
  let re := bitsOf 48 (toW (mapWord b 8))
  let free := fun n => (s.conduit n).state == .drained || (s.conduit n).state == .down
  if s.mapst ≠ 2 then (1, s)
  else if nbits (mapWord b 0) 31 0 ≤ s.lmap then (2, s)
  else if re.any (fun n => !free n) then (3, s)
  else
    let s := s.modLinks (fun l => { l with topo := some (mapOfImage b) })
    (0, re.foldl (fun s n => s.modConduit n (fun x => { x with retune := true })) s)

/-- LKTOP (R377). -/
def execLktop (sd sa c : Nat) (s : State) : Host.Outcome State Fault Refusal :=
  issueWith (.lktop sd sa c) s (fun sl =>
    let a := (sl.ctx.reg sa).toNat
    if a % 64 ≠ 0 then .fault { code := 0x0B, addr := a, oid := (sl.ctx.cap c).oid }
    else if !s.mayAccess sl .acq then .stall s
    else
      match s.loadObj sl (sl.ctx.cap c) a 4160 1 4 with
      | .fault s f => .lost s f
      | .stall s => .stall s
      | .ok s b =>
        if mapBad b then .fault (ctlFault 0x02 sl)
        else
          let (v, s) := s.installMap b
          .done (s.writeReg s.curCore s.curSlot sd (toW v)))

/-! ### Step leases (R370 to R373, R378, R379) -/

/-- A length operand in µs: DEFLEN for 0, none above 16,000 (R378). -/
def State.leaseTicks (s : State) (p : Nat) (b : Word) : Option Nat :=
  if b = 0 then some (bits (s.part p).lscfg 13 0 * 1000) else if 16000 < b.toNat then none else some (b.toNat * 1000)

/-- A grant: the pool's row, and the partition's LIVE lease (R371). -/
def State.grant (s : State) (p : Nat) (name tok : Word) (sent waited len : Nat) : State :=
  let s := s.setRow { name := name, holder := some (.own s.boots), token := tok, till := s.tick + len + 2000 }
  s.setPart p { s.part p with lease := { st := .live, name := name, token := tok, till := sent + waited + len } }

/-- What a request about a lease name meets on its way to its slice: a fault, or the reason for which it waits (R364, R374). -/
def State.leaseGate (s : State) (name : Word) (sl : Slot) : Option FaultRec :=
  ((s.route (s.sliceOfName name.toNat) 0).stop 0 0).map (fun f => { f with addr := sl.ctx.pc })

/-- The acquires of a name that wait at the pool (R372). -/
def State.waiters (s : State) (name : Word) : List Acquire :=
  (s.parts.filterMap (fun kp => kp.2.acq)).filter (fun a => a.name == name && a.done.isNone && a.conduit.isSome)

/-- The token of a new grant is above every earlier one of the name; how far above is the pool's choice (R372). -/
def State.nextToken (s : State) (name : Word) : Word × State :=
  let (v, s) := s.takeFree
  ((s.leaseRow name).token + 1 + toW (v.toNat % 65536), s)

/-- LSACQ goes to the pool: granted at once, refused, or left to wait there behind those that arrived before it (R372, R378). -/
def State.acquire (s : State) (p : Nat) (name : Word) (len : Nat) (wait : Bool) : Option (Nat × State) × State :=
  if s.grantable (s.leaseRow name) && (s.waiters name).isEmpty then
    let (tok, s) := s.nextToken name
    (some (0, s.grant p name tok s.tick 0 len), s)
  else if wait then
    (none, (s.setPart p { s.part p with
      acq := some { core := s.curCore, slot := s.curSlot, name := name, len := len, sent := s.tick, first := s.tick,
                    conduit := s.acquireRoute name, ord := s.clock : Acquire } }).bump)
  else (some (1, s), s)

/-- LSACQ (R378). -/
def execLsacq (sd sa sb : Nat) (wait : Bool) (s : State) : Host.Outcome State Fault Refusal :=
  issueWith (.lsacq sd sa sb wait) s (fun sl =>
    let c := s.curCore
    let k := s.curSlot
    let p := selPart c sl
    let name := sl.ctx.reg sa
    if p = fontanier then .fault (ctlFault 0x06 sl)
    else if name = 0 then .fault (ctlFault 0x02 sl)
    else
      match s.leaseTicks p (sl.ctx.reg sb) with
      | none => .fault (ctlFault 0x02 sl)
      | some len =>
        match (s.part p).acq with
        | some a =>
          match a.done with
          | some v =>
            if a.core = c ∧ a.slot = k then .done ((s.setPart p { s.part p with acq := none }).writeReg c k sd (toW v)) else .stall s
          | none => .stall s
        | none =>
          if s.leaseState p = .live then .done (s.writeReg c k sd 3)
          else
            match s.leaseGate name sl with
            | some f => .fault f
            | none =>
              match s.acquire p name len wait with
              | (some (v, t), _) => .done (t.writeReg c k sd (toW v))
              | (none, t) => .stall t)

/-- A waiting LSACQ has its answer, which its slot takes when it issues again. -/
def State.answerAcq (s : State) (p : Nat) (a : Acquire) (v : Nat) : State :=
  (s.setPart p { s.part p with acq := some { a with done := some v } }).modSlot a.core a.slot (fun sl => { sl with stalled := false })

/-- LEASE_GRANT: the grant of a waiting LSACQ arrives, with a token and the time it waited at the pool; the acquires of a name are
granted in the order of their arrival (R371, R372). -/
def execLeaseGrant (part token waited : Nat) (s : State) : Host.Outcome State Fault Refusal :=
  if 63 < part then .fault .noUnit
  else
    match (s.part part).acq with
    | none => .next s
    | some a =>
      let row := s.leaseRow a.name
      if a.done = none ∧ a.conduit.isSome = true ∧ (s.waiters a.name).all (fun b => decide (a.ord ≤ b.ord)) = true ∧
          s.grantable row = true ∧ row.token.toNat < token ∧ token < 2 ^ 64 ∧ a.sent + waited ≤ s.tick then
        .next ((s.grant part a.name (toW token) a.sent waited a.len).answerAcq part a 0)
      else .next s

/-- LSACQ_WAIT_TIMEOUT: 32 ms without a grant (R378). -/
def execLsacqWaitTimeout (part : Nat) (s : State) : Host.Outcome State Fault Refusal :=
  if 63 < part then .fault .noUnit
  else
    match (s.part part).acq with
    | none => .next s
    | some a => .next (if a.done = none ∧ a.first + 32000000 ≤ s.tick then s.answerAcq part a 2 else s)

/-- LSRNW (R371, R378). -/
def execLsrnw (sd sb : Nat) (s : State) : Host.Outcome State Fault Refusal :=
  issueWith (.lsrnw sd sb) s (fun sl =>
    let c := s.curCore
    let k := s.curSlot
    let p := selPart c sl
    let l := (s.part p).lease
    if p = fontanier then .fault (ctlFault 0x06 sl)
    else
      match s.leaseTicks p (sl.ctx.reg sb) with
      | none => .fault (ctlFault 0x02 sl)
      | some len =>
        if s.leaseState p ≠ .live then .done (s.writeReg c k sd 2)
        else
          match s.leaseGate l.name sl with
          | some f => .fault f
          | none =>
            let row := s.leaseRow l.name
            if s.poolStale l.name l.token then .done ((s.loseLease p).writeReg c k sd 1)
            else
              let s := s.setRow { row with till := max row.till (s.tick + len + 2000) }
              .done ((s.setPart p { s.part p with lease := { l with till := max l.till (s.tick + len) } }).writeReg c k sd 0))

/-- A lease-bound write of the partition is queued or outstanding, in a slot or with a saved context (R364, R378). -/
def State.leaseWrites (s : State) (p : Nat) : Bool :=
  s.slots.any (fun x => x.2.2.part == p &&
    (x.2.2.p0.any (fun a => a.token.isSome) || (s.slotCmds x.1 x.2.1).any Cmd.leaseBound)) ||
    (s.part p).tasks.any (fun t => t.bound || t.p0.any (fun a => a.token.isSome))

/-- LSREL (R370, R378). -/
def execLsrel (sd : Nat) (s : State) : Host.Outcome State Fault Refusal :=
  issueWith (.lsrel sd) s (fun sl =>
    let c := s.curCore
    let k := s.curSlot
    let p := selPart c sl
    let none_ := fun (s : State) => s.setPart p { s.part p with lease := {} }
    if p = fontanier then .fault (ctlFault 0x06 sl)
    else
      match s.leaseState p with
      | .none => .done (s.writeReg c k sd 2)
      | .lost => .done ((none_ s).writeReg c k sd 1)
      | .live =>
        if s.leaseWrites p then .stall s
        else
          match s.leaseGate (s.part p).lease.name sl with
          | some f => .fault f
          | none =>
            let t := s.giveLease p
            .done ((t.setPart p { t.part p with acq := (s.part p).acq }).writeReg c k sd 0))

/-- The code of a lease state (R379). -/
def LeaseSt.code : LeaseSt → Nat
  | .none => 0
  | .live => 1
  | .lost => 2

/-- An item of the step lease (R379). -/
def State.leaseItem (s : State) (p : Nat) (item : TokItem) : Word :=
  let l := (s.part p).lease
  let st := s.leaseState p
  match item with
  | .tok => if st = .none then 0 else l.token
  | .name => if st = .none then 0 else l.name
  | .left => if st = .live then toW ((l.till - s.tick) / 1000) else 0
  | .st => toW st.code

/-- LSTOK (R379). -/
def execLstok (sd : Nat) (item : TokItem) (s : State) : Host.Outcome State Fault Refusal :=
  issueWith (.lstok sd item) s (fun sl => .done (s.writeReg s.curCore s.curSlot sd (s.leaseItem (selPart s.curCore sl) item)))

/-- An atomic. -/
def P0Op.atomic : P0Op → Bool
  | .rmw .. => true
  | .cas .. => true
  | _ => false

/-- A lease-bound request that is reported as 0x0D when its step lease reaches its local expiry: one that is held, which is never
sent, and an atomic, of which the outcome has not arrived (R36, R364). -/
def P0Acc.endsWithLease (a : P0Acc) : Bool := a.token.isSome && (a.req == .held || (a.onWay && a.op.atomic))

/-- STEP_LEASE_EXPIRY: TICK has reached E_d (R36, R364, R370). -/
def execStepLeaseExpiry (part : Nat) (s : State) : Host.Outcome State Fault Refusal :=
  if 63 < part then .fault .noUnit
  else if (s.part part).lease.st = .live ∧ (s.part part).lease.till ≤ s.tick then
    let s := s.loseLease part
    let s := (s.slotAccs P0Acc.endsWithLease).foldl (fun s x =>
      if x.2.2.1 = part then s.failAcc x.1 x.2.1 part 0x0D x.2.2.2 else s) s
    .next ((s.savedAccs P0Acc.endsWithLease).foldl (fun s x => if x.1 = part then s.failSaved part x.2.1 0x0D x.2.2 else s) s)
  else .next s

end Sys2Proof.Machine
end

