-- ==== Sys2Proof/Machine/HostLink.lean ====
section
/-! DEFINITION. The host link, bring-up and features (R381 to R390): host commands and their completions, FEAT and ERRLOG, the
sideband, package reset, and the actions on power and junction temperature. -/

namespace Sys2Proof.Machine

/-! ### Functions and bring-up (R381, R383) -/

/-- The function exists: the physical one, or a virtual one of a partition. -/
def fnOk (fn : HostFn) : Bool :=
  match fn with
  | .pf => true
  | .vf n => decide (n < 64)

/-- The completion of a host command. -/
def State.complete (s : State) (d : HostDone) : State := s.modHost (fun h => { h with done := h.done ++ [d] })

/-- How a command that is first in its function's queue goes on: it takes effect, or waits for a Cistern write window, or for a
route. -/
inductive CmdAns where
  | done (s : State)
  | shut
  | held (f : FaultRec)

/-- What a command does when its turn comes, given the tick at which it began to wait for a route. -/
abbrev CmdNow := Option Nat → State → CmdAns

/-- A command that only the physical function may send (R381). -/
def pfOnly (fn : HostFn) (code : Nat) (f : HostDone → State → State) : CmdNow := fun _ s =>
  match fn with
  | .pf => .done (f { fn := fn, code := code, status := 0 } s)
  | .vf _ => .done (s.complete { fn := fn, code := code, status := 0xFE })

/-- A command joins the queue of those that wait. -/
def State.enqueue (s : State) (h : HostCmd) : State := s.modHost (fun x => { x with queue := x.queue ++ [h] })

/-- A command reaches the fontanier: it takes effect now, or waits; the commands of one function take effect in queue order (R381). -/
def State.command (s : State) (fn : HostFn) (w : HostWork) (now : CmdNow) : State :=
  if s.host.queue.any (fun h => h.fn == fn) then s.enqueue { fn := fn, work := w }
  else
    match now none s with
    | .done t => t
    | .shut => s.enqueue { fn := fn, work := w }
    | .held f => s.enqueue { fn := fn, work := w, heldAt := f.heldFrom none s.tick }

/-- A command event. -/
def hostEvent (fn : HostFn) (w : HostWork) (now : CmdNow) (s : State) : Host.Outcome State Fault Refusal :=
  if fnOk fn then .next (s.command fn w now) else .fault .noUnit

/-- The function may name the region: a VF only its own partition's (R381). -/
def State.fnRegion (s : State) (fn : HostFn) (r : Nat) : Bool :=
  match fn with
  | .pf => true
  | .vf n => decide (63 < r) || s.windowNamed n r

/-- The status that TOKCHK and TOKGET share, or none. -/
def State.tokenStatus (s : State) (fn : HostFn) (r : Nat) : Option Nat :=
  if !s.fnRegion fn r then some 0xFE else if 63 < r then some 0xFD else if !s.host.lock then some 4 else none

/-! ### LAUNCH (R382) -/

/-- The function may launch into the partition: the PF into any of 0 to 64, VF n into n. -/
def launchPart (fn : HostFn) (p : Nat) : Bool :=
  match fn with
  | .pf => decide (p ≤ 64)
  | .vf n => p == n

/-- The words of the extended list of a launched record: up to `k` of them, before the first that is zero (R268); with the notes of
their reads. -/
def State.launchExt (s : State) (p : Nat) : Nat → Nat → List Word × List Note → Except FaultRec (List Word × List Note)
  | 0, _, ws => .ok ws
  | k + 1, g, ws =>
    match s.gread fontanier p 2 g 8 with
    | .error f => .error f
    | .ok (b, ns) =>
      if leNat b = 0 then .ok (ws.1, ws.2 ++ ns) else s.launchExt p k (g + 8) (ws.1 ++ [toW (leNat b)], ws.2 ++ ns)

/-- The fault of R269 of a launched record. -/
def State.launchFault (s : State) (p : Nat) (b : List Byte) : Option Nat :=
  if recordBad b then some 0x02 else if recPin b ≠ 0x7F ∧ !s.holds p (recPin b) then some 0x06 else none

/-- Why a launch is not entered: status, index of the record, and the record of a read that failed or fault code. -/
structure LaunchErr where
  status : Nat
  index  : Nat
  fault  : FaultRec

/-- The tasks of a launch's records from record `i` on, in array order, with the notes of their reads (R382). -/
def State.launchRecords (s : State) (p addr : Nat) : Nat → Nat → Except LaunchErr (List Task × List Note)
  | 0, _ => .ok ([], [])
  | k + 1, i =>
    match s.gread fontanier p 2 (addr + 64 * i) 64 with
    | .error f => .error ⟨6, i, f⟩
    | .ok (b, ns) =>
      if p = fontanier ∧ recPin b % 128 ≠ 0x7F then .error ⟨5, i, walkFault 0 false 0⟩
      else
        match s.launchFault p b with
        | some code => .error ⟨1, i, walkFault code false 0⟩
        | none =>
          match (if recExt b = 0 then .ok ([], []) else s.launchExt p 60 (addr + 64 * i + recExt b) ([], [])) with
          | .error f => .error ⟨6, i, f⟩
          | .ok ws =>
            match s.launchRecords p addr k (i + 1) with
            | .error e => .error e
            | .ok ts => .ok (taskOfRecord p b ws.1 :: ts.1, ns ++ ws.2 ++ ts.2)

/-- Tasks of one launch entered whole, in array order, and its completion with the first task id (R270, R382). -/
def State.enterLaunch (s : State) (d : HostDone) (part : Nat) (ts : List Task) : State :=
  let n := s.host.nLaunch + 1
  let first := (s.part part).nextId
  (ts.foldl (fun s t => s.enterTask { t with launch := n }) (s.modHost (fun x => { x with nLaunch := n }))).complete { d with value := first }

/-- LAUNCH when its turn comes: the conditions of R382 in their order. While the partition's Cistern write window is open it waits. -/
def launchNow (fn : HostFn) (nrec part addr tag : Nat) : CmdNow := fun held s =>
  let d : HostDone := { fn := fn, code := 0x01, status := 0, tag := tag }
  if !s.host.lock then .done (s.complete { d with status := 4 })
  else if nrec = 0 ∨ 256 < nrec ∨ launchPart fn part = false then .done (s.complete { d with status := 5 })
  else if part ≠ fontanier ∧ s.placement part = [] then .done (s.complete { d with status := 3 })
  else if (s.part part).cstOpen then .shut
  else if s.entryCount part < (s.part part).tasks.length + nrec then .done (s.complete { d with status := 2 })
  else
    match s.launchRecords part addr nrec 0 with
    | .error e =>
      match e.fault.due held s.tick with
      | some f => .done (s.complete { d with status := e.status, index := e.index, value := f.code })
      | none => .held e.fault
    | .ok (ts, ns) => .done ((s.keepNotes fontanier part ns).enterLaunch d part ts)

/-- LAUNCH. -/
def execLaunch (fn : HostFn) (nrec part addr tag : Nat) (s : State) : Host.Outcome State Fault Refusal :=
  hostEvent fn (.launch nrec part addr tag) (launchNow fn nrec part addr tag) s

/-! ### TOKCHK and TOKGET (R381) -/

/-- TOKCHK, as a command, when its turn comes. -/
def tokchkNow (fn : HostFn) (region seq : Nat) : CmdNow := fun _ s =>
  let d : HostDone := { fn := fn, code := 0x02, status := 0 }
  match s.tokenStatus fn region with
  | some st => .done (s.complete { d with status := st })
  | none => .done ((s.checkToken region seq).2.complete { d with value := (s.checkToken region seq).1 })

/-- TOKCHK, as a command. -/
def execTokchkCommand (fn : HostFn) (region seq : Nat) (s : State) : Host.Outcome State Fault Refusal :=
  hostEvent fn (.tokchk region seq) (tokchkNow fn region seq) s

/-- The partition whose stage 2 translates a TOKGET's address: none, as for the fontanier, from the PF. -/
def fnPart (fn : HostFn) : Nat :=
  match fn with
  | .pf => fontanier
  | .vf n => n

/-- The piece of a TOKGET area that lies in one guest page, at its target: stage 2 with the right W, the aperture rules of a store (log
entry 59), the gates, and a route. -/
def State.areaPiece (s : State) (p g n : Nat) : Except FaultRec Piece :=
  match s2Alone s fontanier p [] g needW false with
  | .error f => .error f
  | .ok t =>
    match (t.apStop .scalar).or (s.nowGate fontanier p (nowPiece t n g 0) 5 true) with
    | some f => .error f
    | none => .ok (nowPiece t n g 0)

/-- The pieces of a TOKGET area of `n` bytes, which is shorter than a page: every byte is translated and checked before the first is
written (R381). -/
def State.areaPieces (s : State) (p g n : Nat) : Except FaultRec (List Piece) :=
  let m := min n (2 ^ 21 - g % 2 ^ 21)
  match s.areaPiece p g m with
  | .error f => .error f
  | .ok x =>
    if m = n then .ok [x]
    else
      match s.areaPiece p (g + m) (n - m) with
      | .error f => .error f
      | .ok y => .ok [x, y]

/-- Bytes written to the pieces of an area, at pool scope. -/
def State.writeArea (s : State) (p : Nat) : List Piece → List Byte → State
  | [], _ => s
  | x :: xs, bs =>
    let s := (s.sendLines p x.tgt x.len 5 true none).keepNotes fontanier p x.tgt.notes
    (s.storeAt (x.loc fontanier fontanier p) 5 {} (bs.take x.len)).writeArea p xs (bs.drop x.len)

/-- TOKGET when its turn comes. -/
def tokgetNow (fn : HostFn) (region addr : Nat) : CmdNow := fun held s =>
  let d : HostDone := { fn := fn, code := 0x03, status := 0 }
  match s.tokenStatus fn region with
  | some st => .done (s.complete { d with status := st })
  | none =>
    if addr % 8 ≠ 0 then .done (s.complete { d with status := 6, value := 0x0B })
    else
      match (s.region region).token with
      | none => .done (s.complete d)
      | some t =>
        match s.areaPieces (fnPart fn) addr 3732 with
        | .ok xs => .done ((s.writeArea (fnPart fn) xs t.bytes).complete { d with value := 3732 })
        | .error f =>
          match f.due held s.tick with
          | some f => .done (s.complete { d with status := 6, value := f.code })
          | none => .held f

/-- TOKGET. -/
def execTokget (fn : HostFn) (region addr : Nat) (s : State) : Host.Outcome State Fault Refusal :=
  hostEvent fn (.tokget region addr) (tokgetNow fn region addr) s

/-! ### REPAIR and ACCEPT (R383 to R385) -/

/-- The physical cores that a repair image disables on a die. -/
def disabled (img : List Nat) (die : Nat) : Nat × Nat :=
  let v := ((List.range 5).map (fun i => img.getD i 0 * 256 ^ i)).sum
  (nbits v (10 * die + 4) (10 * die), nbits v (10 * die + 9) (10 * die + 5))

/-- A repair image that REPAIR refuses (R384). -/
def repairBad (img : List Nat) : Bool :=
  let b := fun i => img.getD i 0
  let spare := fun s => b (48 + s)
  (List.range 4).any (fun d => (disabled img d).1 == (disabled img d).2 || decide (17 < (disabled img d).1) || decide (17 < (disabled img d).2)) ||
    (List.range 16).any (fun s => decide (31 < spare s) && spare s != 0xFF) ||
    (List.range 8).any (fun h => spare (2 * h) == spare (2 * h + 1) && spare (2 * h) != 0xFF) ||
    (List.range 48).any (fun n => decide (7 < b (64 + n)) && b (64 + n) != 0xFF) ||
    ([5, 6, 7] ++ (List.range 13).map (fun i => 35 + i) ++ (List.range 16).map (fun i => 112 + i)).any (fun i => b i != 0)

/-- REPAIR when its turn comes. -/
def repairNow (fn : HostFn) (image : List Nat) : CmdNow := pfOnly fn 0x10 (fun d s =>
  if s.host.lock || s.host.repaired then s.complete { d with status := 3 }
  else if repairBad image then s.complete { d with status := 2 }
  else (s.modHost (fun h => { h with repaired := true, image := (List.range 128).map (fun i => image.getD i 0) })).complete d)

/-- REPAIR. -/
def execRepair (fn : HostFn) (image : List Nat) (s : State) : Host.Outcome State Fault Refusal :=
  hostEvent fn (.repair image) (repairNow fn image) s

/-- ACCEPT when its turn comes: the feature set is locked, and the fontanier starts. -/
def acceptNow (fn : HostFn) (mask : Nat) : CmdNow := pfOnly fn 0x11 (fun d s =>
  let m := mask % 2 ^ 16
  if s.host.lock then s.complete { d with status := 3 }
  else if !s.host.repaired then s.complete { d with status := 4 }
  else if Nat.lor m Config.featOff.toNat ≠ Config.featOff.toNat then s.complete { d with status := 2 }
  else (s.modHost (fun h => { h with lock := true, accepted := m })).complete d)

/-- ACCEPT. -/
def execAccept (fn : HostFn) (mask : Nat) (s : State) : Host.Outcome State Fault Refusal :=
  hostEvent fn (.accept mask) (acceptNow fn mask) s

/-! ### KEYSET, PUBKEY, READLOG and other codes (R381) -/

/-- KEYSET when its turn comes. -/
def keysetNow (fn : HostFn) (part slot key : Nat) : CmdNow := pfOnly fn 0x12 (fun d s =>
  if 63 < part ∨ 15 < slot then s.complete { d with status := 2 }
  else (s.setPart part { s.part part with keys := mput none (s.part part).keys slot (some { key := key }) }).complete d)

/-- KEYSET. -/
def execKeyset (fn : HostFn) (part slot key : Nat) (s : State) : Host.Outcome State Fault Refusal :=
  hostEvent fn (.keyset part slot key) (keysetNow fn part slot key) s

/-- PUBKEY when its turn comes: the 60-byte public key and DEVID. -/
def pubkeyNow (fn : HostFn) : CmdNow :=
  pfOnly fn 0x13 (fun d s => s.complete { d with data := hssPublic ++ leBytes 16 Config.devId.toNat })

/-- PUBKEY. -/
def execPubkey (fn : HostFn) (s : State) : Host.Outcome State Fault Refusal := hostEvent fn HostWork.pubkey (pubkeyNow fn) s

/-- The 32 bytes of an error-log entry (R388). -/
def LogEntry.bytes (e : LogEntry) : List Byte :=
  leBytes 8 e.tick ++ leBytes 1 e.cls ++ leBytes 1 e.region ++ leBytes 1 e.block ++ leBytes 1 e.part ++ leBytes 4 e.dropped ++
    leBytes 8 e.addr ++ leBytes 8 e.detail

/-- READLOG when its turn comes. With the log empty the completion's status is not stated (log entry 3). -/
def readlogNow (fn : HostFn) : CmdNow := pfOnly fn 0x14 (fun d s =>
  match s.host.log with
  | [] => s.takeFree.2.complete { d with status := s.takeFree.1.toNat % 256 }
  | e :: es => (s.modHost (fun h => { h with log := es })).complete { d with data := e.bytes })

/-- READLOG. -/
def execReadlog (fn : HostFn) (s : State) : Host.Outcome State Fault Refusal := hostEvent fn HostWork.readlog (readlogNow fn) s

/-- The codes of the command table. -/
def listedCodes : List Nat := [0x01, 0x02, 0x03, 0x10, 0x11, 0x12, 0x13, 0x14]

/-- A command with another code when its turn comes. -/
def unlistedNow (fn : HostFn) (code : Nat) : CmdNow := fun _ s =>
  .done (if listedCodes.contains code then s else s.complete { fn := fn, code := code, status := 0xFF })

/-- A command with another code (R381). -/
def execUnlistedCommandCode (fn : HostFn) (code : Nat) (s : State) : Host.Outcome State Fault Refusal :=
  hostEvent fn (.unlisted code) (unlistedNow fn code) s

/-! ### Commands that waited (R381, R382) -/

/-- What a command that waits does when its turn comes. -/
def HostWork.now (fn : HostFn) (w : HostWork) : CmdNow :=
  match w with
  | .launch n p a t => launchNow fn n p a t
  | .tokchk r q => tokchkNow fn r q
  | .tokget r a => tokgetNow fn r a
  | .repair m => repairNow fn m
  | .accept m => acceptNow fn m
  | .keyset p k v => keysetNow fn p k v
  | .pubkey => pubkeyNow fn
  | .readlog => readlogNow fn
  | .unlisted c => unlistedNow fn c

/-- The commands that wait, in their order: those that may go on take effect, and behind one that may not its function's commands
stay. -/
def State.drainQueue (s : State) : List HostCmd → State
  | [] => s
  | h :: hs =>
    if s.host.queue.any (fun x => x.fn == h.fn) then (s.enqueue h).drainQueue hs
    else
      match h.work.now h.fn h.heldAt s with
      | .done t => t.drainQueue hs
      | .shut => (s.enqueue h).drainQueue hs
      | .held f => (s.enqueue { h with heldAt := f.heldFrom h.heldAt s.tick }).drainQueue hs

/-- The commands that wait try again. -/
def State.hostRetry (s : State) : State := (s.modHost (fun h => { h with queue := [] })).drainQueue s.host.queue

/-! ### CSTWIN (R323) -/

/-- The Cistern write window of a partition closes: the launches that waited are entered in queue order (R323, R382). -/
def State.closeWindow (s : State) (p : Nat) : State := (s.setPart p { s.part p with cstOpen := false }).hostRetry

/-- A task that keeps the Cistern write window shut: SUP = 0, and Running, Parked or Failed. -/
def Task.keepsShut (t : Task) : Bool :=
  !t.sup && (t.state == .running || t.state == .parkedFault || t.state == .parkedWait || t.state == .failed)

/-- The command writes the Cistern (R211, R251). -/
def Cmd.writesCistern (c : Cmd) : Bool :=
  match c.instr with
  | .vstc .. => true
  | .bget _ _ _ _ _ _ .cist => true
  | _ => false

/-- A Cistern write of the partition is queued or under way. -/
def State.cisternBusy (s : State) (p : Nat) : Bool :=
  s.slots.any (fun x => x.2.2.part == p && (s.slotCmds x.1 x.2.1).any (fun m => !m.marker && m.writesCistern))

/-- CSTWIN. -/
def execCstwin (sd : Nat) (close : Bool) (s : State) : Host.Outcome State Fault Refusal :=
  issueWith (.cstwin sd close) s (fun sl =>
    let c := s.curCore
    let k := s.curSlot
    let p := selPart c sl
    let q := s.part p
    if p = fontanier then .fault (ctlFault 0x06 sl)
    else if close then
      if !q.cstOpen then .done (s.writeReg c k sd 0)
      else if s.cisternBusy p then .stall s
      else .done ((s.closeWindow p).writeReg c k sd 0)
    else if q.cstOpen then .done (s.writeReg c k sd 0)
    else if q.tasks.any Task.keepsShut then .done (s.writeReg c k sd 1)
    else .done ((s.setPart p { q with cstOpen := true }).writeReg c k sd 0))

/-! ### FEAT and ERRLOG (R387, R388) -/

/-- An item of the feature state. -/
def State.featItem (s : State) (item : FeatItem) : Word :=
  match item with
  | .off => toW Config.featOff.toNat
  | .acc => toW (s.host.accepted % 2 ^ 16)
  | .lock => if s.host.lock then 1 else 0

/-- FEAT. -/
def execFeat (sd : Nat) (item : FeatItem) (s : State) : Host.Outcome State Fault Refusal :=
  issueWith (.feat sd item) s (fun _ => .done (s.writeReg s.curCore s.curSlot sd (s.featItem item)))

/-- ERRLOG. -/
def execErrlog (sd sa c : Nat) (pop : Bool) (s : State) : Host.Outcome State Fault Refusal :=
  issueWith (.errlog sd sa c pop) s (fun sl =>
    let core := s.curCore
    let k := s.curSlot
    let cap := sl.ctx.cap c
    let a := (sl.ctx.reg sa).toNat
    if !pop then .done (s.writeReg core k sd (toW (s.host.log.length * 2 ^ 32 + s.host.dropped % 2 ^ 32)))
    else if a % 32 ≠ 0 then .fault ((cap.refuses a 32 32 kStore).getD (ctlFault 0x0B sl))
    else
      match s.host.log with
      | [] => .done (s.writeReg core k sd (BitVec.allOnes 64))
      | e :: es =>
        if !s.mayAccess sl .rel then .stall s
        else
          match s.storeObj sl cap a 32 5 e.bytes with
          | .fault s f => .lost s f
          | .stall s => .stall s
          | .ok s _ => .done ((s.modHost (fun h => { h with log := es })).writeReg core k sd (toW es.length)))

/-! ### Sideband (R389) -/

/-- An answer of the sideband. -/
def State.answerSide (s : State) (cmd : Nat) (v : Option (List Nat)) : State :=
  s.modHost (fun h => { h with side := h.side ++ [(cmd, v)] })

/-- Readings of `n` sensors, which are free values (log entry 3). -/
def State.sensors (s : State) : Nat → List Nat × State
  | 0 => ([], s)
  | n + 1 => ((s.takeFree.2.sensors n).1.cons (s.takeFree.1.toNat % 256), (s.takeFree.2.sensors n).2)

/-- SIDEBAND_TEMPERATURE: each of the nine dies of R17. -/
def execSidebandTemperature (s : State) : Host.Outcome State Fault Refusal :=
  .next ((s.sensors 9).2.answerSide 0x01 (some (s.sensors 9).1))

/-- SIDEBAND_POWER. -/
def execSidebandPower (s : State) : Host.Outcome State Fault Refusal :=
  .next (s.takeFree.2.answerSide 0x02 (some [s.takeFree.1.toNat % 65536]))

/-- SIDEBAND_PWST. -/
def execSidebandPwst (s : State) : Host.Outcome State Fault Refusal :=
  .next (s.answerSide 0x03 (some ((List.range 64).map (fun r => (s.region r).cur))))

/-- SIDEBAND_LSTATE. -/
def execSidebandLstate (s : State) : Host.Outcome State Fault Refusal := .next (s.answerSide 0x04 (some [s.lstate.toNat]))

/-- SIDEBAND_DEVID. -/
def execSidebandDevid (s : State) : Host.Outcome State Fault Refusal := .next (s.answerSide 0x05 (some [Config.devId.toNat]))

/-- SIDEBAND_PUBKEY. -/
def execSidebandPubkey (s : State) : Host.Outcome State Fault Refusal := .next (s.answerSide 0x06 (some (hssPublic.map (fun b => b.toNat))))

/-- SIDEBAND_NACK: a write, or a command code that is not listed. -/
def execSidebandNack (cmd : Nat) (s : State) : Host.Outcome State Fault Refusal := .next (s.answerSide cmd none)

/-! ### Package reset (R326, R337, R339, R358, R374, R383, R388) -/

/-- What a package reset leaves of a core: the contents of its tile file and scratchpad. -/
def Core.afterReset (co : Core) : Core := co.cleared

/-- The pool's lease table as the new incarnation meets it: a name this package held belongs to the old one until E_p. -/
def PoolLease.afterReset (tick : Nat) (l : PoolLease) : PoolLease := { l with till := l.till - tick }

/-- The package right after a further reset: memory, scratchpads and tile files keep what they held, the pool keeps its lease
table and what other packages' writes wait for there, and all else is as at reset. -/
def State.packageReset (s : State) : State :=
  { State.reset with
    boots := s.boots + 1
    agenda := s.agenda
    free := s.free
    mem := s.mem
    memErr := s.memErr
    cist := s.cist
    cistErr := s.cistErr
    cores := s.cores.map (fun (kc : Nat × Core) => (kc.1, kc.2.afterReset))
    links := { leases := s.links.leases.map (PoolLease.afterReset s.tick), waits := s.links.waits,
               past := (s.poolLeases.filter (fun x => decide (s.tick < x.2))).map (fun x => (x.1, x.2 - s.tick)) } }

/-- PACKAGE_RESET. -/
def execPackageReset (s : State) : Host.Outcome State Fault Refusal := .next s.packageReset

/-! ### Power and junction temperature (R390) -/

/-- PWST.BASE of a region set: its steps are withdrawn first, and its clock follows where it runs at PWST.CUR (R281, R328, R390). -/
def State.setBase (s : State) (r b : Nat) : State :=
  let g := s.region r
  let s := s.modRegion r (fun g => { g with base := b })
  if g.state = .owned ∨ g.state = .held ∨ g.state = .quiesce then s.steer g.part else s

/-- A thermal event is logged (R388). -/
def State.logThermal (s : State) (r : Nat) : State := s.logError 4 r 0 0xFF 0 0

/-- The regions of a compute die (R18). -/
def dieRegions (die : Nat) : List Nat := (List.range 16).map (fun i => 16 * die + i)

/-- One step down for a list of regions, to 8 at the lowest. -/
def State.stepDown (s : State) (l : List Nat) : State := l.foldl (fun s r => s.setBase r (max 8 ((s.region r).base - 1))) s

/-- One step up, to the reset value 16 at the highest. -/
def State.stepUp (s : State) (l : List Nat) : State := l.foldl (fun s r => s.setBase r (min 16 ((s.region r).base + 1))) s

/-- POWER_LIMIT: one step of 10 µs with the draw above 3.2 kW. -/
def execPowerLimit (s : State) : Host.Outcome State Fault Refusal := .next ((s.stepDown (List.range 64)).logThermal 65)

/-- JUNCTION_THROTTLE: one step of 10 µs with the die's junction above 100 °C. -/
def execJunctionThrottle (die : Nat) (s : State) : Host.Outcome State Fault Refusal :=
  if 3 < die then .fault .noUnit else .next ((s.stepDown (dieRegions die)).logThermal (16 * die))

/-- JUNCTION_COOLED: one step of 10 µs with the die's junction below 95 °C. -/
def execJunctionCooled (die : Nat) (s : State) : Host.Outcome State Fault Refusal :=
  if 3 < die then .fault .noUnit else .next ((s.stepUp (dieRegions die)).logThermal (16 * die))

/-- JUNCTION_SHUTDOWN: above 110 °C the rails are turned off. -/
def execJunctionShutdown (die : Nat) (s : State) : Host.Outcome State Fault Refusal :=
  if 3 < die then .fault .noUnit else .next { s.logThermal (16 * die) with off := true }

end Sys2Proof.Machine
end

