-- ==== Sys2Proof/Machine/Dispatch.lean ====
section
/-! DEFINITION. One arm for each row of the opcode table. -/

namespace Sys2Proof.Machine

/-- The meaning of an instruction, operation or event. -/
def exec (i : Instr) (s : State) : Host.Outcome State Fault Refusal :=
  match i with
  | .nop => Sys2Proof.Machine.execNop s
  | .mov sd sa => Sys2Proof.Machine.execMov sd sa s
  | .sel sd sa sb k => Sys2Proof.Machine.execSel sd sa sb k s
  | .lea sd sa sb shift => Sys2Proof.Machine.execLea sd sa sb shift s
  | .mfs sd spec => Sys2Proof.Machine.execMfs sd spec s
  | .mts sa spec => Sys2Proof.Machine.execMts sa spec s
  | .add sd sa sb mode => Sys2Proof.Machine.execAdd sd sa sb mode s
  | .sub sd sa sb mode => Sys2Proof.Machine.execSub sd sa sb mode s
  | .mul sd sa sb mode => Sys2Proof.Machine.execMul sd sa sb mode s
  | .mulh sd sa sb => Sys2Proof.Machine.execMulh sd sa sb s
  | .mulhu sd sa sb => Sys2Proof.Machine.execMulhu sd sa sb s
  | .div sd sa sb => Sys2Proof.Machine.execDiv sd sa sb s
  | .divu sd sa sb => Sys2Proof.Machine.execDivu sd sa sb s
  | .rem sd sa sb => Sys2Proof.Machine.execRem sd sa sb s
  | .remu sd sa sb => Sys2Proof.Machine.execRemu sd sa sb s
  | .min sd sa sb => Sys2Proof.Machine.execMin sd sa sb s
  | .max sd sa sb => Sys2Proof.Machine.execMax sd sa sb s
  | .minu sd sa sb => Sys2Proof.Machine.execMinu sd sa sb s
  | .maxu sd sa sb => Sys2Proof.Machine.execMaxu sd sa sb s
  | .and sd sa sb => Sys2Proof.Machine.execAnd sd sa sb s
  | .or sd sa sb => Sys2Proof.Machine.execOr sd sa sb s
  | .xor sd sa sb => Sys2Proof.Machine.execXor sd sa sb s
  | .andn sd sa sb => Sys2Proof.Machine.execAndn sd sa sb s
  | .shl sd sa sb => Sys2Proof.Machine.execShl sd sa sb s
  | .shr sd sa sb => Sys2Proof.Machine.execShr sd sa sb s
  | .sra sd sa sb => Sys2Proof.Machine.execSra sd sa sb s
  | .rol sd sa sb => Sys2Proof.Machine.execRol sd sa sb s
  | .clz sd sa => Sys2Proof.Machine.execClz sd sa s
  | .ctz sd sa => Sys2Proof.Machine.execCtz sd sa s
  | .popc sd sa => Sys2Proof.Machine.execPopc sd sa s
  | .brev sd sa => Sys2Proof.Machine.execBrev sd sa s
  | .sext sd sa size => Sys2Proof.Machine.execSext sd sa size s
  | .zext sd sa size => Sys2Proof.Machine.execZext sd sa size s
  | .addi sd sa mode imm => Sys2Proof.Machine.execAddi sd sa mode imm s
  | .muli sd sa mode imm => Sys2Proof.Machine.execMuli sd sa mode imm s
  | .andi sd sa imm => Sys2Proof.Machine.execAndi sd sa imm s
  | .ori sd sa imm => Sys2Proof.Machine.execOri sd sa imm s
  | .xori sd sa imm => Sys2Proof.Machine.execXori sd sa imm s
  | .shli sd sa imm => Sys2Proof.Machine.execShli sd sa imm s
  | .shri sd sa imm => Sys2Proof.Machine.execShri sd sa imm s
  | .srai sd sa imm => Sys2Proof.Machine.execSrai sd sa imm s
  | .ldi sd imm => Sys2Proof.Machine.execLdi sd imm s
  | .ldih sd imm => Sys2Proof.Machine.execLdih sd imm s
  | .cmp kd sa sb cond => Sys2Proof.Machine.execCmp kd sa sb cond s
  | .cmpi kd sa cond imm => Sys2Proof.Machine.execCmpi kd sa cond imm s
  | .kand kd ka kb => Sys2Proof.Machine.execKand kd ka kb s
  | .kor kd ka kb => Sys2Proof.Machine.execKor kd ka kb s
  | .kxor kd ka kb => Sys2Proof.Machine.execKxor kd ka kb s
  | .knot kd ka => Sys2Proof.Machine.execKnot kd ka s
  | .vany kd p => Sys2Proof.Machine.execVany kd p s
  | .vall kd p => Sys2Proof.Machine.execVall kd p s
  | .prep bd disp => Sys2Proof.Machine.execPrep bd disp s
  | .prepr bd sa => Sys2Proof.Machine.execPrepr bd sa s
  | .br bd k => Sys2Proof.Machine.execBr bd k s
  | .bra bd k => Sys2Proof.Machine.execBra bd k s
  | .call bd k => Sys2Proof.Machine.execCall bd k s
  | .ret k => Sys2Proof.Machine.execRet k s
  | .loop lc sa body count => Sys2Proof.Machine.execLoop lc sa body count s
  | .loopp lc depth sa p k count e => Sys2Proof.Machine.execLoopp lc depth sa p k count e s
  | .brk lc k => Sys2Proof.Machine.execBrk lc k s
  | .lds sd c sa o size imm => Sys2Proof.Machine.execLds sd c sa o size imm s
  | .sts sd c sa o size imm => Sys2Proof.Machine.execSts sd c sa o size imm s
  | .ldp sd sa o imm => Sys2Proof.Machine.execLdp sd sa o imm s
  | .stp sd sa o imm => Sys2Proof.Machine.execStp sd sa o imm s
  | .lde sd d sa o size imm => Sys2Proof.Machine.execLde sd d sa o size imm s
  | .ste sd d sa o size imm => Sys2Proof.Machine.execSte sd d sa o size imm s
  | .atom c sa o op size space sb => Sys2Proof.Machine.execAtom c sa o op size space sb s
  | .atomf sd c sa o op size space sb => Sys2Proof.Machine.execAtomf sd c sa o op size space sb s
  | .acas sd c sa o size space sb sc => Sys2Proof.Machine.execAcas sd c sa o size space sb sc s
  | .capsel cd sa imm => Sys2Proof.Machine.execCapsel cd sa imm s
  | .capnar cd ca sb form => Sys2Proof.Machine.execCapnar cd ca sb form s
  | .capinf sd ca item => Sys2Proof.Machine.execCapinf sd ca item s
  | .capclr cd => Sys2Proof.Machine.execCapclr cd s
  | .tdset dd sa f => Sys2Proof.Machine.execTdset dd sa f s
  | .tdget sd da f => Sys2Proof.Machine.execTdget sd da f s
  | .tdcap dd ca => Sys2Proof.Machine.execTdcap dd ca s
  | .pref d sa sb cls scope evict rep => Sys2Proof.Machine.execPref d sa sb cls scope evict rep s
  | .hint d sa sb rep cls => Sys2Proof.Machine.execHint d sa sb rep cls s
  | .fence paths scope classes => Sys2Proof.Machine.execFence paths scope classes s
  | .fencem engines => Sys2Proof.Machine.execFencem engines s
  | .joinm => Sys2Proof.Machine.execJoinm s
  | .waitc loads stores copies tileops => Sys2Proof.Machine.execWaitc loads stores copies tileops s
  | .waita sd c sa o size space imm => Sys2Proof.Machine.execWaita sd c sa o size space imm s
  | .tokp sluice sa => Sys2Proof.Machine.execTokp sluice sa s
  | .tokg sd sluice => Sys2Proof.Machine.execTokg sd sluice s
  | .tokn sd sluice => Sys2Proof.Machine.execTokn sd sluice s
  | .vld row sp sa sb o rep pN => Sys2Proof.Machine.execVld row sp sa sb o rep pN s
  | .vlds row sp sa sb o rep pN dim => Sys2Proof.Machine.execVlds row sp sa sb o rep pN dim s
  | .vldt row sp sa sb o rep pN => Sys2Proof.Machine.execVldt row sp sa sb o rep pN s
  | .vldg row sp sa sb o rep pN => Sys2Proof.Machine.execVldg row sp sa sb o rep pN s
  | .vldc row d sa sb cls rep pN => Sys2Proof.Machine.execVldc row d sa sb cls rep pN s
  | .vst row sp sa sb o rep pN => Sys2Proof.Machine.execVst row sp sa sb o rep pN s
  | .vsts row sp sa sb o rep pN dim => Sys2Proof.Machine.execVsts row sp sa sb o rep pN dim s
  | .vstt row sp sa sb o rep pN => Sys2Proof.Machine.execVstt row sp sa sb o rep pN s
  | .vsct row sp sa sb o rep pN => Sys2Proof.Machine.execVsct row sp sa sb o rep pN s
  | .vstc row d sa sb cls rep pN => Sys2Proof.Machine.execVstc row d sa sb cls rep pN s
  | .vadd dst a b sN pN rep => Sys2Proof.Machine.execVadd dst a b sN pN rep s
  | .vsub dst a b sN pN rep => Sys2Proof.Machine.execVsub dst a b sN pN rep s
  | .vmul dst a b sN pN rep => Sys2Proof.Machine.execVmul dst a b sN pN rep s
  | .vfma dst a b sN pN rep => Sys2Proof.Machine.execVfma dst a b sN pN rep s
  | .vfms dst a b sN pN rep => Sys2Proof.Machine.execVfms dst a b sN pN rep s
  | .vneg dst a sN pN rep => Sys2Proof.Machine.execVneg dst a sN pN rep s
  | .vabs dst a sN pN rep => Sys2Proof.Machine.execVabs dst a sN pN rep s
  | .vmin dst a b sN pN rep => Sys2Proof.Machine.execVmin dst a b sN pN rep s
  | .vmax dst a b sN pN rep => Sys2Proof.Machine.execVmax dst a b sN pN rep s
  | .vrcp dst a sN pN rep => Sys2Proof.Machine.execVrcp dst a sN pN rep s
  | .vrsq dst a sN pN rep => Sys2Proof.Machine.execVrsq dst a sN pN rep s
  | .vexp2 dst a sN pN rep => Sys2Proof.Machine.execVexp2 dst a sN pN rep s
  | .vlog2 dst a sN pN rep => Sys2Proof.Machine.execVlog2 dst a sN pN rep s
  | .viadd dst a b sN pN rep mode => Sys2Proof.Machine.execViadd dst a b sN pN rep mode s
  | .visub dst a b sN pN rep mode => Sys2Proof.Machine.execVisub dst a b sN pN rep mode s
  | .vimul dst a b sN pN rep mode => Sys2Proof.Machine.execVimul dst a b sN pN rep mode s
  | .vand dst a b sN pN rep => Sys2Proof.Machine.execVand dst a b sN pN rep s
  | .vor dst a b sN pN rep => Sys2Proof.Machine.execVor dst a b sN pN rep s
  | .vxor dst a b sN pN rep => Sys2Proof.Machine.execVxor dst a b sN pN rep s
  | .vshl dst a b sN pN rep => Sys2Proof.Machine.execVshl dst a b sN pN rep s
  | .vshr dst a b sN pN rep => Sys2Proof.Machine.execVshr dst a b sN pN rep s
  | .vsra dst a b sN pN rep => Sys2Proof.Machine.execVsra dst a b sN pN rep s
  | .vimin dst a b sN pN rep uns => Sys2Proof.Machine.execVimin dst a b sN pN rep uns s
  | .vimax dst a b sN pN rep uns => Sys2Proof.Machine.execVimax dst a b sN pN rep uns s
  | .vcmp pd cond a b sN pN => Sys2Proof.Machine.execVcmp pd cond a b sN pN s
  | .vicmp pd cond a b sN pN => Sys2Proof.Machine.execVicmp pd cond a b sN pN s
  | .pand pd pa pb => Sys2Proof.Machine.execPand pd pa pb s
  | .por pd pa pb => Sys2Proof.Machine.execPor pd pa pb s
  | .pxor pd pa pb => Sys2Proof.Machine.execPxor pd pa pb s
  | .pnot pd pa => Sys2Proof.Machine.execPnot pd pa s
  | .pmov pd pa => Sys2Proof.Machine.execPmov pd pa s
  | .vmov dst a sN pN rep => Sys2Proof.Machine.execVmov dst a sN pN rep s
  | .vsel dst a b sN pS rep => Sys2Proof.Machine.execVsel dst a b sN pS rep s
  | .vbcst dst a sN pN rep => Sys2Proof.Machine.execVbcst dst a sN pN rep s
  | .vperm dst a b pN rep => Sys2Proof.Machine.execVperm dst a b pN rep s
  | .vrmg dst a b sN pN rep => Sys2Proof.Machine.execVrmg dst a b sN pN rep s
  | .vidx dst sN pN rep => Sys2Proof.Machine.execVidx dst sN pN rep s
  | .vred dst a pN rep op => Sys2Proof.Machine.execVred dst a pN rep op s
  | .vreds dst a pN rep op => Sys2Proof.Machine.execVreds dst a pN rep op s
  | .vscan dst a pN rep op => Sys2Proof.Machine.execVscan dst a pN rep op s
  | .vcvt dst a cw sN pN rep => Sys2Proof.Machine.execVcvt dst a cw sN pN rep s
  | .vcvts dst a cw sN pN rep => Sys2Proof.Machine.execVcvts dst a cw sN pN rep s
  | .vscl dst a b pN rep blk => Sys2Proof.Machine.execVscl dst a b pN rep blk s
  | .vpack dst a pN rep mode => Sys2Proof.Machine.execVpack dst a pN rep mode s
  | .vunpk dst a cw pN rep => Sys2Proof.Machine.execVunpk dst a cw pN rep s
  | .vqln dst a cw pN rep => Sys2Proof.Machine.execVqln dst a cw pN rep s
  | .ttag tile fmt scaled => Sys2Proof.Machine.execTtag tile fmt scaled s
  | .ttget sd tile => Sys2Proof.Machine.execTtget sd tile s
  | .fmtm sa mask => Sys2Proof.Machine.execFmtm sa mask s
  | .mma acc ma mb sK jet fa fb o => Sys2Proof.Machine.execMma acc ma mb sK jet fa fb o s
  | .mmas acc ma mb sK jet fa fb o ms => Sys2Proof.Machine.execMmas acc ma mb sK jet fa fb o ms s
  | .mmal acc ma mb sK jet fa fb o ms => Sys2Proof.Machine.execMmal acc ma mb sK jet fa fb o ms s
  | .mmaz acc ma mb sK jet fa fb o => Sys2Proof.Machine.execMmaz acc ma mb sK jet fa fb o s
  | .mxsa ma sa sb src => Sys2Proof.Machine.execMxsa ma sa sb src s
  | .mxsb mb sa sb src => Sys2Proof.Machine.execMxsb mb sa sb src s
  | .mxsm ms sa mode => Sys2Proof.Machine.execMxsm ms sa mode s
  | .mxrd sd item index => Sys2Proof.Machine.execMxrd sd item index s
  | .bget mem sa sb sc sF o dest => Sys2Proof.Machine.execBget mem sa sb sc sF o dest s
  | .bput mem sa sb sc sF o => Sys2Proof.Machine.execBput mem sa sb sc sF o s
  | .bcpy sp sa sb sc sF o => Sys2Proof.Machine.execBcpy sp sa sb sc sF o s
  | .bfill sp sloc sc sF o byte => Sys2Proof.Machine.execBfill sp sloc sc sF o byte s
  | .xflag sF o => Sys2Proof.Machine.execXflag sF o s
  | .bcan sF o => Sys2Proof.Machine.execBcan sF o s
  | .rlpub c sa sb sc sF o k => Sys2Proof.Machine.execRlpub c sa sb sc sF o k s
  | .rlstp sa sF o => Sys2Proof.Machine.execRlstp sa sF o s
  | .rlqry sb sF o => Sys2Proof.Machine.execRlqry sb sF o s
  | .cbind sb sF o kind index => Sys2Proof.Machine.execCbind sb sF o kind index s
  | .crel sF o kind index => Sys2Proof.Machine.execCrel sF o kind index s
  | .ccoll c sa sb sc sF o => Sys2Proof.Machine.execCcoll c sa sb sc sF o s
  | .ccmp c sa sb sc sF o put => Sys2Proof.Machine.execCcmp c sa sb sc sF o put s
  | .cdcp c sa sb sc sF o put => Sys2Proof.Machine.execCdcp c sa sb sc sF o put s
  | .cstat sb sF o => Sys2Proof.Machine.execCstat sb sF o s
  | .tspawn sd c sa sb dep => Sys2Proof.Machine.execTspawn sd c sa sb dep s
  | .tdep sd sa sb grp => Sys2Proof.Machine.execTdep sd sa sb grp s
  | .tend => Sys2Proof.Machine.execTend s
  | .ttrig => Sys2Proof.Machine.execTtrig s
  | .tyld => Sys2Proof.Machine.execTyld s
  | .tself sd item => Sys2Proof.Machine.execTself sd item s
  | .tprio sd sa sb => Sys2Proof.Machine.execTprio sd sa sb s
  | .gjoin sd sa imm => Sys2Proof.Machine.execGjoin sd sa imm s
  | .gleave sd sa imm => Sys2Proof.Machine.execGleave sd sa imm s
  | .gbar sd sa imm => Sys2Proof.Machine.execGbar sd sa imm s
  | .gmem sd sa imm => Sys2Proof.Machine.execGmem sd sa imm s
  | .tlinc sd c sa sb scope => Sys2Proof.Machine.execTlinc sd c sa sb scope s
  | .tlset sd c sa sb scope => Sys2Proof.Machine.execTlset sd c sa sb scope s
  | .tlwait sd c sa sb scope => Sys2Proof.Machine.execTlwait sd c sa sb scope s
  | .tlget sd c sa scope => Sys2Proof.Machine.execTlget sd c sa scope s
  | .resq sd sa sb region => Sys2Proof.Machine.execResq sd sa sb region s
  | .reshint sa sb region clear mask => Sys2Proof.Machine.execReshint sa sb region clear mask s
  | .trap sa imm hv => Sys2Proof.Machine.execTrap sa imm hv s
  | .eret sa form => Sys2Proof.Machine.execEret sa form s
  | .mfsp sd sa item => Sys2Proof.Machine.execMfsp sd sa item s
  | .mtsp sa sb item => Sys2Proof.Machine.execMtsp sa sb item s
  | .ctxsv sd sa sb c move scope => Sys2Proof.Machine.execCtxsv sd sa sb c move scope s
  | .ctxld sd sb c scope => Sys2Proof.Machine.execCtxld sd sb c scope s
  | .fltinfo sd sa item => Sys2Proof.Machine.execFltinfo sd sa item s
  | .tlbiv sd sa sb form => Sys2Proof.Machine.execTlbiv sd sa sb form s
  | .unmap sd sa shoot => Sys2Proof.Machine.execUnmap sd sa shoot s
  | .mapsync => Sys2Proof.Machine.execMapsync s
  | .cstwin sd close => Sys2Proof.Machine.execCstwin sd close s
  | .rgnasn sd sa sb => Sys2Proof.Machine.execRgnasn sd sa sb s
  | .rgnwin sd sa => Sys2Proof.Machine.execRgnwin sd sa s
  | .rgnrst sd sa => Sys2Proof.Machine.execRgnrst sd sa s
  | .scrub sd sa frame => Sys2Proof.Machine.execScrub sd sa frame s
  | .scrst sd sa alloc => Sys2Proof.Machine.execScrst sd sa alloc s
  | .tokchk sd sa sb c get => Sys2Proof.Machine.execTokchk sd sa sb c get s
  | .keyz sd sa => Sys2Proof.Machine.execKeyz sd sa s
  | .msgf sd sa c imm => Sys2Proof.Machine.execMsgf sd sa c imm s
  | .xenq sd sa c imm => Sys2Proof.Machine.execXenq sd sa c imm s
  | .lkst sd sa port => Sys2Proof.Machine.execLkst sd sa port s
  | .lkdrn sd sa => Sys2Proof.Machine.execLkdrn sd sa s
  | .lktop sd sa c => Sys2Proof.Machine.execLktop sd sa c s
  | .lkrsm sd sa => Sys2Proof.Machine.execLkrsm sd sa s
  | .lsacq sd sa sb wait => Sys2Proof.Machine.execLsacq sd sa sb wait s
  | .lsrnw sd sb => Sys2Proof.Machine.execLsrnw sd sb s
  | .lsrel sd => Sys2Proof.Machine.execLsrel sd s
  | .lstok sd item => Sys2Proof.Machine.execLstok sd item s
  | .feat sd item => Sys2Proof.Machine.execFeat sd item s
  | .errlog sd sa c pop => Sys2Proof.Machine.execErrlog sd sa c pop s
  | .loadDataReturn core slot idx => Sys2Proof.Machine.execLoadDataReturn core slot idx s
  | .postedAccessAck core slot idx => Sys2Proof.Machine.execPostedAccessAck core slot idx s
  | .markerRetire core slot eng => Sys2Proof.Machine.execMarkerRetire core slot eng s
  | .waitaRepoll core slot => Sys2Proof.Machine.execWaitaRepoll core slot s
  | .tokenEntry core slot => Sys2Proof.Machine.execTokenEntry core slot s
  | .sluiceReservationGrant core sluice => Sys2Proof.Machine.execSluiceReservationGrant core sluice s
  | .vlStep core slot => Sys2Proof.Machine.execVlStep core slot s
  | .vsStep core slot => Sys2Proof.Machine.execVsStep core slot s
  | .vaStep core slot => Sys2Proof.Machine.execVaStep core slot s
  | .mxStep core jet => Sys2Proof.Machine.execMxStep core jet s
  | .mxCommandStart core => Sys2Proof.Machine.execMxCommandStart core s
  | .xfPayloadStep core idx => Sys2Proof.Machine.execXfPayloadStep core idx s
  | .xfSingleStep core idx => Sys2Proof.Machine.execXfSingleStep core idx s
  | .flagStep core idx => Sys2Proof.Machine.execFlagStep core idx s
  | .rillFetch part => Sys2Proof.Machine.execRillFetch part s
  | .bindingExpiry kind index => Sys2Proof.Machine.execBindingExpiry kind index s
  | .arbiterRound res => Sys2Proof.Machine.execArbiterRound res s
  | .tlwaitRetest part task => Sys2Proof.Machine.execTlwaitRetest part task s
  | .dispatchDecision part => Sys2Proof.Machine.execDispatchDecision part s
  | .preemptionRequest core slot => Sys2Proof.Machine.execPreemptionRequest core slot s
  | .drainLimitExpiry core slot => Sys2Proof.Machine.execDrainLimitExpiry core slot s
  | .sliceExpiry core slot => Sys2Proof.Machine.execSliceExpiry core slot s
  | .handlerRecordEntry => Sys2Proof.Machine.execHandlerRecordEntry s
  | .frameSlotFreed core slot => Sys2Proof.Machine.execFrameSlotFreed core slot s
  | .fetchCheckFault => Sys2Proof.Machine.execFetchCheckFault s
  | .illegalInstruction word => Sys2Proof.Machine.execIllegalInstruction word s
  | .regionResetRelease region => Sys2Proof.Machine.execRegionResetRelease region s
  | .quiesceComplete region => Sys2Proof.Machine.execQuiesceComplete region s
  | .scrubPhaseComplete region => Sys2Proof.Machine.execScrubPhaseComplete region s
  | .tokenSigned => Sys2Proof.Machine.execTokenSigned s
  | .frameScrubStart => Sys2Proof.Machine.execFrameScrubStart s
  | .scrubOnFreeAck idx => Sys2Proof.Machine.execScrubOnFreeAck idx s
  | .translationLeaseExpiry region => Sys2Proof.Machine.execTranslationLeaseExpiry region s
  | .cisternRefreshWindow => Sys2Proof.Machine.execCisternRefreshWindow s
  | .drainComplete conduit => Sys2Proof.Machine.execDrainComplete conduit s
  | .trainingAttemptSuccess conduit => Sys2Proof.Machine.execTrainingAttemptSuccess conduit s
  | .trainingAttemptFail conduit => Sys2Proof.Machine.execTrainingAttemptFail conduit s
  | .retuneComplete conduit => Sys2Proof.Machine.execRetuneComplete conduit s
  | .retuneFail conduit => Sys2Proof.Machine.execRetuneFail conduit s
  | .lossOfSignal conduit => Sys2Proof.Machine.execLossOfSignal conduit s
  | .linkRetryExhausted conduit => Sys2Proof.Machine.execLinkRetryExhausted conduit s
  | .heldRequestTimeout core slot idx => Sys2Proof.Machine.execHeldRequestTimeout core slot idx s
  | .requestOutcomeTimeout core slot idx => Sys2Proof.Machine.execRequestOutcomeTimeout core slot idx s
  | .retryStatus core slot idx => Sys2Proof.Machine.execRetryStatus core slot idx s
  | .staleAnswer core slot src => Sys2Proof.Machine.execStaleAnswer core slot src s
  | .fencedAnswer => Sys2Proof.Machine.execFencedAnswer s
  | .recall base size => Sys2Proof.Machine.execRecall base size s
  | .readLeaseExpiry part line => Sys2Proof.Machine.execReadLeaseExpiry part line s
  | .join => Sys2Proof.Machine.execJoin s
  | .joinAccepted slice => Sys2Proof.Machine.execJoinAccepted slice s
  | .leaseGrant part token waited => Sys2Proof.Machine.execLeaseGrant part token waited s
  | .lsacqWaitTimeout part => Sys2Proof.Machine.execLsacqWaitTimeout part s
  | .stepLeaseExpiry part => Sys2Proof.Machine.execStepLeaseExpiry part s
  | .inboundPeerRequest addr size op => Sys2Proof.Machine.execInboundPeerRequest addr size op s
  | .launch fn nrec part addr tag => Sys2Proof.Machine.execLaunch fn nrec part addr tag s
  | .tokchkCommand fn region seq => Sys2Proof.Machine.execTokchkCommand fn region seq s
  | .tokget fn region addr => Sys2Proof.Machine.execTokget fn region addr s
  | .repair fn image => Sys2Proof.Machine.execRepair fn image s
  | .accept fn mask => Sys2Proof.Machine.execAccept fn mask s
  | .keyset fn part slot key => Sys2Proof.Machine.execKeyset fn part slot key s
  | .pubkey fn => Sys2Proof.Machine.execPubkey fn s
  | .readlog fn => Sys2Proof.Machine.execReadlog fn s
  | .unlistedCommandCode fn code => Sys2Proof.Machine.execUnlistedCommandCode fn code s
  | .sidebandTemperature => Sys2Proof.Machine.execSidebandTemperature s
  | .sidebandPower => Sys2Proof.Machine.execSidebandPower s
  | .sidebandPwst => Sys2Proof.Machine.execSidebandPwst s
  | .sidebandLstate => Sys2Proof.Machine.execSidebandLstate s
  | .sidebandDevid => Sys2Proof.Machine.execSidebandDevid s
  | .sidebandPubkey => Sys2Proof.Machine.execSidebandPubkey s
  | .sidebandNack cmd => Sys2Proof.Machine.execSidebandNack cmd s
  | .packageReset => Sys2Proof.Machine.execPackageReset s
  | .powerLimit => Sys2Proof.Machine.execPowerLimit s
  | .junctionThrottle die => Sys2Proof.Machine.execJunctionThrottle die s
  | .junctionShutdown die => Sys2Proof.Machine.execJunctionShutdown die s
  | .junctionCooled die => Sys2Proof.Machine.execJunctionCooled die s

end Sys2Proof.Machine
end

