-- ==== Sys2Proof/Machine/Idle.lean ====
section
/-! DEFINITION. What happens where the agenda names nothing: the events that may be due, in the order in which they are
tried (log entry 4). -/

namespace Sys2Proof.Machine

/-- An event with its arguments. -/
abbrev Happening := State → Host.Outcome State Fault Refusal

/-- The events of a slot that may be due. -/
def slotEvents (c k : Nat) (sl : Slot) : List Happening :=
  (List.range sl.p0.length).flatMap (fun i =>
      [execLoadDataReturn c k i, execPostedAccessAck c k i, execHeldRequestTimeout c k i, execRequestOutcomeTimeout c k i]) ++
    [execVlStep c k, execVaStep c k, execVsStep c k, execTokenEntry c k, execSliceExpiry c k, execDrainLimitExpiry c k,
      execFrameSlotFreed c k] ++ [Eng.vl, .va, .vs, .mx, .xf].map (execMarkerRetire c k)

/-- The events of a core that may be due. -/
def coreEvents (c : Nat) (co : Core) : List Happening :=
  co.slots.flatMap (fun ks => slotEvents c ks.1 ks.2) ++ (List.range 16).map (execSluiceReservationGrant c) ++
    [execMxCommandStart c, execMxStep c 0, execMxStep c 1, execMxStep c 2] ++
    (List.range (co.cmds.filter (fun x => x.eng == .xf)).length).flatMap (fun i =>
      [execXfPayloadStep c i, execXfSingleStep c i, execFlagStep c i])

/-- The grant of a partition's waiting LSACQ. -/
def State.grantEvents (s : State) (p : Nat) (v : Part) : List Happening :=
  match v.acq with
  | some a => if a.done = none then [execLeaseGrant p ((s.leaseRow a.name).token.toNat + 1) (s.tick - a.sent)] else []
  | none => []

/-- The events of a partition that may be due. -/
def State.partEvents (s : State) (p : Nat) (v : Part) : List Happening :=
  s.grantEvents p v ++ [execStepLeaseExpiry p, execLsacqWaitTimeout p, execDispatchDecision p, execRillFetch p] ++
    v.tasks.map (fun t => execTlwaitRetest p t.id)

/-- The events of a region that may be due. -/
def regionEvents (r : Nat) : List Happening :=
  [execRegionResetRelease r, execQuiesceComplete r, fun s => .next (s.scrubUnit r), execScrubPhaseComplete r]

/-- The events of the commons, the Grotto and the links that may be due. -/
def State.packageEvents (s : State) : List Happening :=
  [execHandlerRecordEntry, execTokenSigned, execFrameScrubStart, execScrubOnFreeAck 0, execArbiterRound .bulk,
    execArbiterRound .compress, execArbiterRound .collect, execArbiterRound .conduit, execArbiterRound .rill, execJoin] ++
    s.links.joinSent.map execJoinAccepted ++ (s.conduitsIn .draining).map execDrainComplete ++
    s.grotto.bindings.map (fun b => execBindingExpiry b.kind b.index) ++
    [fun s => .next s.releaseHeld, fun s => .next s.hostRetry]

/-- All events that may be due, in the order in which they are tried. -/
def State.dueEvents (s : State) : List Happening :=
  s.cores.flatMap (fun kc => coreEvents kc.1 kc.2) ++ s.parts.flatMap (fun kp => s.partEvents kp.1 kp.2) ++
    s.regions.flatMap (fun kr => regionEvents kr.1) ++ s.packageEvents

/-- The state after the first event of a list that changes it. -/
def firstEvent (s : State) : List Happening → Option State
  | [] => none
  | f :: fs =>
    match f s with
    | .next t => if t = s then firstEvent s fs else some t
    | _ => firstEvent s fs

end Sys2Proof.Machine
end

