-- ==== Sys2Proof/Machine/Step.lean ====
section
/-! DEFINITION. One step of the package: the next turn of the agenda, or what comes next without one. -/

namespace Sys2Proof.Machine

/-- The control core's issue turn for a slot: it fetches, decodes and executes one word. -/
def issueTurn (s : State) (c k : Nat) : Host.Outcome State Fault Refusal :=
  let s := { s with curCore := c, curSlot := k }
  match s.slot? c k with
  | none => .fault .noTask
  | some sl =>
    if !sl.issues then .next (s.modSlot c k (fun sl => { sl with stalled := true }))
    else
      match s.fetch c sl with
      | .error _ => exec .fetchCheckFault s
      | .ok (w, t) =>
        match decodeWord w with
        | some i => exec i t
        | none => exec (.illegalInstruction w) t

/-- An event, after which stalled slots try again. -/
def eventTurn (s : State) (i : Instr) : Host.Outcome State Fault Refusal :=
  match exec i s with
  | .next t => .next t.wake
  | o => o

/-- What still happens while the rails are off (R390): package reset, and what others and physics do at the pool. -/
def Act.whileOff : Act → Bool
  | .event i => i == .packageReset
  | .poolWrite .. => true
  | .poison store _ _ => store == 0
  | .otherLease .. => true
  | _ => false

/-- One turn. The control core of a core visits its slots in order: a slot behind a ready one does not issue (R30). -/
def turn (s : State) (a : Act) : Host.Outcome State Fault Refusal :=
  if s.off && !a.whileOff then .next s
  else
  match a with
  | .issue c k => if (s.core c).mayIssue k then issueTurn s c k else .next s
  | .event i => eventTurn s i
  | .poolWrite addr bytes => .next (s.poolWrite addr bytes)
  | .poison store core g => .next (s.poison store core g)
  | .corrected store core g => .next (s.correctedAt store core g)
  | .scrubUnit r => .next (s.scrubUnit r)
  | .otherLease pkg inc name hold len => .next (s.otherLease pkg inc name hold len)

/-- What happens without an agenda: the next ready slot issues (R30), else an event that is due happens, else time passes. -/
def idleTurn (s : State) : Host.Outcome State Fault Refusal :=
  match s.nextIssue with
  | some (c, k) => issueTurn s c k
  | none =>
    match firstEvent s s.dueEvents with
    | some t => .next t.wake
    | none => .next { s.wake with tick := s.tick + 1 }

/-- One step. -/
def step (s : State) : Host.Outcome State Fault Refusal :=
  match s.agenda with
  | t :: ts => turn { s with agenda := ts, tick := s.tick + t.wait } t.act
  | [] => if s.off then .next s else idleTurn s

/-- The state in which the next step fetches and runs the instruction whose bits are `w` (log entry 14). -/
def State.withFetchWord (s : State) (nbits w : Nat) : State := s.load (w % 2 ^ nbits % 2 ^ 64)

end Sys2Proof.Machine
end

