-- ==== Sys2Proof/Safety.lean ====
section
/-! DEFINITION. What a safe run is, and the words in which statements are made: when an instruction issues normally, the state
after a word has issued, and the parts of the package that an instruction leaves alone. -/

namespace Sys2Proof

/-- The run of `n` steps from `s` neither faults nor refuses. -/
def Safe (n : Nat) (s : Machine.State) : Prop := ∃ t, core.run n s = .next t

/-- The destination of the instructions of R116 to R120 that write a scalar register and do nothing else. -/
def Instr.scalarTarget : Instr → Option Nat
  | .mov sd .. => some sd
  | .sel sd .. => some sd
  | .lea sd .. => some sd
  | .add sd .. => some sd
  | .sub sd .. => some sd
  | .mul sd .. => some sd
  | .mulh sd .. => some sd
  | .mulhu sd .. => some sd
  | .div sd .. => some sd
  | .divu sd .. => some sd
  | .rem sd .. => some sd
  | .remu sd .. => some sd
  | .min sd .. => some sd
  | .max sd .. => some sd
  | .minu sd .. => some sd
  | .maxu sd .. => some sd
  | .and sd .. => some sd
  | .or sd .. => some sd
  | .xor sd .. => some sd
  | .andn sd .. => some sd
  | .shl sd .. => some sd
  | .shr sd .. => some sd
  | .sra sd .. => some sd
  | .rol sd .. => some sd
  | .clz sd .. => some sd
  | .ctz sd .. => some sd
  | .popc sd .. => some sd
  | .brev sd .. => some sd
  | .sext sd .. => some sd
  | .zext sd .. => some sd
  | .addi sd .. => some sd
  | .muli sd .. => some sd
  | .andi sd .. => some sd
  | .ori sd .. => some sd
  | .xori sd .. => some sd
  | .shli sd .. => some sd
  | .shri sd .. => some sd
  | .srai sd .. => some sd
  | .ldi sd .. => some sd
  | .ldih sd .. => some sd
  | _ => none

/-- The engine into whose queue an instruction goes whose issue does nothing but push it; TTAG, FMTM and BCAN also act at
issue (R71, R104, R106, R254). -/
def Instr.pushedTo : Instr → Option Eng
  | .pref .. => some .vl
  | .hint .. => some .vl
  | .vld .. => some .vl
  | .vlds .. => some .vl
  | .vldt .. => some .vl
  | .vldg .. => some .vl
  | .vldc .. => some .vl
  | .vst .. => some .vs
  | .vsts .. => some .vs
  | .vstt .. => some .vs
  | .vsct .. => some .vs
  | .vstc .. => some .vs
  | .vadd .. => some .va
  | .vsub .. => some .va
  | .vmul .. => some .va
  | .vfma .. => some .va
  | .vfms .. => some .va
  | .vneg .. => some .va
  | .vabs .. => some .va
  | .vmin .. => some .va
  | .vmax .. => some .va
  | .vrcp .. => some .va
  | .vrsq .. => some .va
  | .vexp2 .. => some .va
  | .vlog2 .. => some .va
  | .viadd .. => some .va
  | .visub .. => some .va
  | .vimul .. => some .va
  | .vand .. => some .va
  | .vor .. => some .va
  | .vxor .. => some .va
  | .vshl .. => some .va
  | .vshr .. => some .va
  | .vsra .. => some .va
  | .vimin .. => some .va
  | .vimax .. => some .va
  | .vcmp .. => some .va
  | .vicmp .. => some .va
  | .pand .. => some .va
  | .por .. => some .va
  | .pxor .. => some .va
  | .pnot .. => some .va
  | .pmov .. => some .va
  | .vmov .. => some .va
  | .vsel .. => some .va
  | .vbcst .. => some .va
  | .vperm .. => some .va
  | .vrmg .. => some .va
  | .vidx .. => some .va
  | .vred .. => some .va
  | .vreds .. => some .va
  | .vscan .. => some .va
  | .vcvt .. => some .va
  | .vcvts .. => some .va
  | .vscl .. => some .va
  | .vpack .. => some .va
  | .vunpk .. => some .va
  | .vqln .. => some .va
  | .mma .. => some .mx
  | .mmas .. => some .mx
  | .mmal .. => some .mx
  | .mmaz .. => some .mx
  | .bget .. => some .xf
  | .bput .. => some .xf
  | .bcpy .. => some .xf
  | .bfill .. => some .xf
  | .xflag .. => some .xf
  | .rlpub .. => some .xf
  | .rlstp .. => some .xf
  | .rlqry .. => some .xf
  | .cbind .. => some .xf
  | .crel .. => some .xf
  | .ccoll .. => some .xf
  | .ccmp .. => some .xf
  | .cdcp .. => some .xf
  | .cstat .. => some .xf
  | _ => none

end Sys2Proof

namespace Sys2Proof.Machine

/-- The commands of the current slot. -/
def State.cmdsHere (s : State) : List Cmd := s.slotCmds s.curCore s.curSlot

/-- Instruction `i` issues normally for the current slot, which holds `sl`: no pre-emption waits, the slot issues (R30), and
`i` passes every check of R43 and every stall before its effect. -/
structure Issues (s : State) (sl : Slot) (i : Instr) : Prop where
  slot   : s.slot? s.curCore s.curSlot = some sl
  run    : sl.phase = .run
  issues : sl.issues = true
  check  : issueCheck s s.curCore sl s.cmdsHere i = .pass

/-- The state in which the current slot has just issued and holds `v`; nothing else has changed (R30). -/
def State.putSlot (s : State) (v : Slot) : State :=
  s.setCore s.curCore { s.core s.curCore with last := s.curSlot, slots := mset (s.core s.curCore).slots s.curSlot v }

/-- The slot `v` past the word at its offset, the following word being at offset `next`: its context as R126, R129 and R131
move it, and its next issue number. -/
def Slot.past (v : Slot) (next : Nat) : Slot := v.retire (v.ctx.retire next)

/-- The slot `v` past a word that is followed by the next word. -/
def Slot.pastWord (v : Slot) : Slot := v.past (v.ctx.pc + 8)

/-- Every byte of the pool, the Reservoir and the Cistern, with its errors, is the same in `t` as in `s`. -/
def sameMemory (s t : State) : Prop :=
  t.mem = s.mem ∧ t.memErr = s.memErr ∧ t.cist = s.cist ∧ t.cistErr = s.cistErr ∧ t.resErr = s.resErr

/-- What lies outside core `c` is the same in `t` as in `s`: memory, other cores, regions, partitions, the Grotto, the
conduits, the host link, and the clocks. -/
def sameOutside (c : Nat) (s t : State) : Prop :=
  sameMemory s t ∧ (∀ d, d ≠ c → t.core d = s.core d) ∧ t.regions = s.regions ∧ t.parts = s.parts ∧ t.grotto = s.grotto ∧
    t.links = s.links ∧ t.host = s.host ∧ t.tick = s.tick ∧ t.boots = s.boots ∧ t.off = s.off ∧ t.agenda = s.agenda ∧
    t.curCore = s.curCore ∧ t.curSlot = s.curSlot

/-- Core `c` keeps its scratchpad, tiles, sluices and engine queues, and its slots other than `k`. -/
def sameCoreBut (c k : Nat) (s t : State) : Prop :=
  (t.core c).spad = (s.core c).spad ∧ (t.core c).cells = (s.core c).cells ∧ (t.core c).sluices = (s.core c).sluices ∧
    (t.core c).cmds = (s.core c).cmds ∧ (t.core c).tileErr = (s.core c).tileErr ∧ (t.core c).spadErr = (s.core c).spadErr ∧
    (t.core c).sluiceRq = (s.core c).sluiceRq ∧ ∀ j, j ≠ k → t.slot? c j = s.slot? c j

/-- Every store of the package is in canonical form: system memory, the Cistern and every scratchpad as lists of bytes, and the
Reservoir share of every partition, which holds a line at most once. -/
structure State.storesWf (s : State) : Prop where
  mem   : Bytes.wf s.mem = true
  cist  : Bytes.wf s.cist = true
  spad  : ∀ c, Bytes.wf (s.core c).spad = true
  lines : ∀ p, ((s.part p).lines.map ResLine.line).Nodup

/-- The state in which the current slot, having stalled, waits to issue the same word again (R30). -/
def State.waiting (s : State) : State := s.modSlot s.curCore s.curSlot (fun sl => { sl with stalled := true })

/-- The state after the current slot, at the word of `i`, takes fault `code` of the control core (R295, R297). -/
def State.trapped (s : State) (sl : Slot) (i : Instr) (code : Nat) : State :=
  s.raiseFault s.curCore s.curSlot { ctlFault code sl with word := encode i, pc := sl.ctx.pc }

/-- The state after the current slot, at the word of `i`, takes the fault `f` of an access (R295, R297). -/
def State.faulted (s : State) (sl : Slot) (i : Instr) (f : FaultRec) : State :=
  s.raiseFault s.curCore s.curSlot { f with word := encode i, pc := sl.ctx.pc }

/-- One byte as the model reads it: of the scratchpad of core `c`, of the Cistern, or of system memory, by its aperture. -/
def State.byteAt (s : State) (ap : Aper) (c a : Nat) : Byte :=
  match ap with
  | .spad => rd8 (s.core c).spad a
  | .cistern => rd8 s.cist a
  | _ => rd8 s.mem a

/-- Two apertures, each with a core, name the same byte store. -/
def sameStore (a : Aper) (c : Nat) (b : Aper) (d : Nat) : Bool :=
  match a, b with
  | .spad, .spad => c == d
  | .spad, _ => false
  | _, .spad => false
  | .cistern, .cistern => true
  | .cistern, _ => false
  | _, .cistern => false
  | _, _ => true

/-- Every byte of every store reads as before. -/
def sameBytes (s t : State) : Prop := ∀ ap c a, t.byteAt ap c a = s.byteAt ap c a

/-- Every byte outside `n` bytes from `a` of the store of `ap` and core `c` reads as before. -/
def sameBytesBut (ap : Aper) (c a n : Nat) (s t : State) : Prop :=
  ∀ bp d x, (sameStore ap c bp d = true → x < a ∨ a + n ≤ x) → t.byteAt bp d x = s.byteAt bp d x

/-- The slot continues at offset `n` after a transfer of control by its word. -/
def Slot.goesTo (v : Slot) (n : Nat) : Slot := v.retire (v.ctx.jumpTo n)

/-! ### Results as the rules write them -/

/-- The slot after its instruction has written `v` to scalar register `sd` and has issued. -/
def Slot.wrote (sl : Slot) (sd : Nat) (v : Word) : Slot := (sl.writeReg sd v).pastWord

/-- The slot after its instruction has written `v` to condition register `kd` and has issued. -/
def Slot.wroteK (sl : Slot) (kd : Nat) (v : Bool) : Slot := { sl with ctx := sl.ctx.setK kd v }.pastWord

/-- An exact signed result clamped to [−2^63, 2^63 − 1] (R117). -/
def clampSigned (z : Int) : Word :=
  if z < -9223372036854775808 then BitVec.intMin 64 else if 9223372036854775807 < z then BitVec.intMax 64 else BitVec.ofInt 64 z

/-- An exact unsigned result clamped to [0, 2^64 − 1] (R117). -/
def clampUnsigned (z : Int) : Word :=
  if z < 0 then 0 else if 18446744073709551615 < z then BitVec.allOnes 64 else BitVec.ofInt 64 z

/-- The result of a saturation mode from the wrapped result, the exact signed one and the exact unsigned one (R117). -/
def satResult (m : Sat) (wrapped : Word) (s u : Int) : Word :=
  match m with
  | .wrap => wrapped
  | .sat => clampSigned s
  | .satu => clampUnsigned u

/-- A compare condition of R121 on two register values. -/
def condHolds (c : Cond) (a b : Word) : Prop :=
  match c with
  | .eq => a = b
  | .ne => a ≠ b
  | .lt => a.toInt < b.toInt
  | .ge => b.toInt ≤ a.toInt
  | .le => a.toInt ≤ b.toInt
  | .gt => b.toInt < a.toInt
  | .ltu => a.toNat < b.toNat
  | .geu => b.toNat ≤ a.toNat
  | .leu => a.toNat ≤ b.toNat
  | .gtu => b.toNat < a.toNat
  | .tst => a &&& b ≠ 0
  | .ntst => a &&& b = 0

end Sys2Proof.Machine
end

