-- ==== Sys2Proof/Certificates/Slice0/Obligations.lean ====
section
/-! DEFINITION. The statements for the provers. -/

open Sys2Proof Sys2Proof.Machine

/-- For every well-formed instruction of the 215 of wbas, with every operand at every value its field admits, decoding its word gives exactly that instruction, or the fault code that its own fields raise at checks 5 and 6 of R43 where its entry refuses them. No bit of an encoding is dropped. -/
def Obligations.EncodeThenDecode : Prop :=
  ∀ i : Instr, i.wf = true → i.isWbas = true →
    decode (encode i) = (match i.staticFault with | none => Decoded.ok i | some c => Decoded.refused c)

/-- Every word that decodes to an instruction is the encoding of that instruction, so that no two words decode to one instruction, and the instruction is well formed, one of wbas, and refused by none of its own fields; the zero word and every word of class 0x9 to 0xF decode to none. -/
def Obligations.DecodeThenEncode : Prop :=
  (∀ w i, decodeWord w = some i → encode i = w ∧ i.wf = true ∧ i.isWbas = true ∧ i.staticFault = none) ∧
    (∀ w v i, decodeWord w = some i → decodeWord v = some i → w = v) ∧
    decode 0 = .illegal ∧ (∀ w, 9 ≤ fld w 60 4 → decode w = .illegal)

/-- The word 0x0410_8502_0000_0064 is the manual's own encoding of cmpi.lt k2, s5, 100 and 0x7020_0000_0000_0000 that of TEND; words assembled by hand from R48, R53 and R54 decode to ADD, to VADD and to a dense MMA of BF16 operands with its jet hint and its ordering fields; the all-zero word and the word of all ones decode to nothing. -/
def Obligations.WordsOfTheSpecDecode : Prop :=
  decodeTableWord 64 0x0410850200000064 = some (.cmpi 2 5 .lt 100) ∧
    decodeTableWord 64 0x7020000000000000 = some .tend ∧
    decodeTableWord 64 (0x10 * 2 ^ 52 + 3 * 2 ^ 46 + 4 * 2 ^ 40 + 5 * 2 ^ 34 + 2 * 2 ^ 16) = some (.add 3 4 5 .satu) ∧
    decodeTableWord 64 (3 * 2 ^ 60 + 0x20 * 2 ^ 52 + (2 * 32 + 7) * 2 ^ 40 + (4 * 32 + 1) * 2 ^ 28 + (5 * 32 + 3) * 2 ^ 16 + 1 * 2 ^ 7 + 3 * 2 ^ 2) =
      some (.vadd (.h 2 7) (.h 4 1) (.h 5 3) 0 1 3) ∧
    decodeTableWord 64 (5 * 2 ^ 60 + 31 * 2 ^ 47 + 5 * 2 ^ 44 + 6 * 2 ^ 41 + 9 * 2 ^ 35 + 1 * 2 ^ 32 + 2 * 2 ^ 28 + 2 * 2 ^ 24 + 4 * 2 ^ 20 + 1 * 2 ^ 18 + 3 * 2 ^ 15 + 0xF * 2 ^ 8) =
      some (.mma 31 5 6 9 1 .bf16 .bf16 ⟨4, .acq, 3, 0⟩) ∧
    decodeTableWord 64 0 = none ∧ decodeTableWord 64 0xFFFFFFFFFFFFFFFF = none

/-- When it is a slot's turn to issue, by the agenda with no ready slot before it in the cyclic order of R30, or because the agenda is empty and the slot is the next ready one, step is exec, for that slot, of the instruction that the word fetched at its offset decodes to, in the state that the fetch leaves; a word that decodes to nothing, and a fetch that fails its checks, run the two events that the table has for them. Where the checks of R40 give a target, the word is the 8 little-endian bytes at its place in the line of the instruction cache, or, where that does not hold the line and nothing stops the request, in the line of memory that fills it; the fetch changes no byte of memory and leaves the slot as it was. -/
def Obligations.StepRunsTheDecodedInstruction : Prop :=
  (∀ (s : State) (c k n : Nat) (ts : List Turn) (sl : Slot), s.off = false →
    (s.agenda = ⟨n, .issue c k⟩ :: ts ∧ (s.core c).mayIssue k = true ∨ (s.agenda = [] ∧ s.nextIssue = some (c, k) ∧ n = 0 ∧ ts = [])) →
    let s' := { s with agenda := ts, tick := s.tick + n, curCore := c, curSlot := k }
    s'.slot? c k = some sl → sl.issues = true →
      (∀ w u, s'.fetch c sl = .ok (w, u) →
        (∀ i, decodeWord w = some i → step s = exec i u) ∧ (decodeWord w = none → step s = exec (.illegalInstruction w) u)) ∧
      (∀ f, s'.fetch c sl = .error f → step s = exec .fetchCheckFault s')) ∧
  (∀ (s : State) (c k : Nat) (sl : Slot), s.slot? c k = some sl →
    (∀ f, sl.first = some f ∨ sl.first = none ∧ objAccess s c sl.part sl.codeCap sl.ctx.pc 8 8 kFetch = .error f → s.fetch c sl = .error f) ∧
    (∀ tgt, sl.first = none → objAccess s c sl.part sl.codeCap sl.ctx.pc 8 8 kFetch = .ok tgt →
      let held := (s.core c).icache.find? (fun l => l.aper == tgt.aper && l.line == tgt.addr / 128)
      let line := (fetchPiece sl tgt).loc c c sl.part
      (∀ l, held = some l → s.fetch c sl = .ok (rowWord l.data (tgt.addr % 128), s.keepNotes c sl.part tgt.notes)) ∧
      (∀ f, held = none → s.lineStop c sl (fetchPiece sl tgt) = some f → s.fetch c sl = .error f) ∧
      (held = none → s.lineStop c sl (fetchPiece sl tgt) = none →
        ∃ u, s.fetch c sl = .ok (rowWord (bytesRow (s.locBytes line 128 3)) (tgt.addr % 128), u) ∧ u.slot? c k = some sl ∧
          u.curCore = s.curCore ∧ u.curSlot = s.curSlot ∧ sameBytes s u))) ∧
  (∀ (bs : List Byte) (o : Nat), bs.length = 128 → o % 8 = 0 → o < 128 → rowWord (bytesRow bs) o = leNat ((bs.drop o).take 8))

/-- For every state whose current slot holds a task and every well-formed instruction, operation or event, exec answers a next state: it has its effect, or it stalls, or it takes a fault as R297 says; it never stops the machine and is never refused. -/
def Obligations.NoInstructionStops : Prop :=
  ∀ (s : State) (sl : Slot) (i : Instr), s.slot? s.curCore s.curSlot = some sl → i.wf = true → ∃ t, exec i s = .next t

/-- In the reset state each region is DIRTY and belongs to no partition, each conduit is DOWN, MAPST is DRAINED with no map, no partition has a task, a group, a key or a step lease, no slot is occupied, no feature is accepted, the error log is empty, TICK is 0 and memory lists nothing (that an unlisted byte reads 0 is log entry 1). -/
def Obligations.ResetState : Prop :=
  let s := State.reset
  (∀ r, (s.region r).state = .dirty ∧ (s.region r).part = 0xFF ∧ (s.region r).token = none ∧ (s.region r).base = 16 ∧ (s.region r).cur = 16) ∧
    (∀ n, (s.conduit n).state = .down) ∧ s.links.topo = none ∧ s.mapst = 2 ∧
    (∀ p, (s.part p).tasks = [] ∧ (s.part p).groups = [] ∧ (s.part p).keys = [] ∧ (s.part p).lease.st = .none ∧ (s.part p).xwgt = 0x01010101) ∧
    (∀ c k, s.slot? c k = none) ∧ s.host.accepted = 0 ∧ s.host.lock = false ∧ s.host.log = [] ∧ s.tick = 0 ∧ s.mem = [] ∧ s.off = false

/-- If in a state each byte store (system memory, the Cistern, and the scratchpad of every core) lists its bytes at strictly rising addresses with no byte that an unlisted address would read, which is the form of log entries 69 and 1, and no partition's Reservoir share lists a line twice, and a step answers a next state, then the same holds there. So a byte of the pool and of a Reservoir copy has one value and equal memories are equal data, whatever instruction, event or outside write the step was. -/
def Obligations.StoresStayCanonical : Prop :=
  ∀ s t : State, s.storesWf → step s = .next t → t.storesWf

/-- The reset state meets the invariant of StoresStayCanonical: nothing is listed in any byte store (log entries 69 and 1), and every Reservoir share is empty. -/
def Obligations.ResetStoresCanonical : Prop :=
  State.reset.storesWf

/-- In a state whose rails are off, a step that is no package reset runs no instruction and no event: every core, region, partition, task, register, conduit, binding, key, lease of this package, the Cistern, the error log and the host link stay as they are, and the rails stay off. Only what others and physics do at the pool goes on: its bytes and their errors, the writes that wait there and the table of leases (log entry 4 gives the turns). -/
def Obligations.OffUntilPackageReset : Prop :=
  ∀ s t : State, s.off = true → step s = .next t →
    (∃ n ts, s.agenda = ⟨n, .event .packageReset⟩ :: ts) ∨
      (t.off = true ∧ t.cores = s.cores ∧ t.regions = s.regions ∧ t.parts = s.parts ∧ t.grotto = s.grotto ∧ t.host = s.host ∧
        t.cist = s.cist ∧ t.cistErr = s.cistErr ∧ t.resErr = s.resErr ∧ t.boots = s.boots ∧ t.free = s.free ∧
        t.links = { s.links with leases := t.links.leases, waits := t.links.waits })

/-- Where it issues normally, ADD, SUB, MUL, ADDI or MULI in each saturation mode answers the next state in which the slot has written the wrapped, signed-clamped or unsigned-clamped result of R117 to sd (nothing for s0), has moved past the word, and nothing else has changed; an immediate keeps its signed reading. MULH to REMU write the high half of the product, the quotient truncated towards zero or all ones for a divisor of zero, and the remainder or the dividend itself for a divisor of zero. The last two clauses give the corner of −2^63 by −1. -/
def Obligations.ArithmeticResults : Prop :=
  ∀ (s : State) (sl : Slot) (sd sa sb : Nat) (m : Sat) (z : Int),
    let a := sl.ctx.reg sa
    let b := sl.ctx.reg sb
    (Issues s sl (.add sd sa sb m) → exec (.add sd sa sb m) s =
      .next (s.putSlot (sl.wrote sd (satResult m (a + b) (a.toInt + b.toInt) (a.toNat + b.toNat))))) ∧
    (Issues s sl (.sub sd sa sb m) → exec (.sub sd sa sb m) s =
      .next (s.putSlot (sl.wrote sd (satResult m (a - b) (a.toInt - b.toInt) (a.toNat - b.toNat))))) ∧
    (Issues s sl (.mul sd sa sb m) → exec (.mul sd sa sb m) s =
      .next (s.putSlot (sl.wrote sd (satResult m (a * b) (a.toInt * b.toInt) (a.toNat * b.toNat))))) ∧
    (Issues s sl (.addi sd sa m z) → exec (.addi sd sa m z) s =
      .next (s.putSlot (sl.wrote sd (satResult m (a + BitVec.ofInt 64 z) (a.toInt + z) (a.toNat + z))))) ∧
    (Issues s sl (.muli sd sa m z) → exec (.muli sd sa m z) s =
      .next (s.putSlot (sl.wrote sd (satResult m (a * BitVec.ofInt 64 z) (a.toInt * z) (a.toNat * z))))) ∧
    (Issues s sl (.mulh sd sa sb) → exec (.mulh sd sa sb) s =
      .next (s.putSlot (sl.wrote sd (((a.signExtend 128) * (b.signExtend 128)).extractLsb' 64 64)))) ∧
    (Issues s sl (.mulhu sd sa sb) → exec (.mulhu sd sa sb) s =
      .next (s.putSlot (sl.wrote sd (((a.zeroExtend 128) * (b.zeroExtend 128)).extractLsb' 64 64)))) ∧
    (Issues s sl (.div sd sa sb) → exec (.div sd sa sb) s =
      .next (s.putSlot (sl.wrote sd (if b = 0 then BitVec.allOnes 64 else a.sdiv b)))) ∧
    (Issues s sl (.divu sd sa sb) → exec (.divu sd sa sb) s =
      .next (s.putSlot (sl.wrote sd (if b = 0 then BitVec.allOnes 64 else a / b)))) ∧
    (Issues s sl (.rem sd sa sb) → exec (.rem sd sa sb) s =
      .next (s.putSlot (sl.wrote sd (if b = 0 then a else a.srem b)))) ∧
    (Issues s sl (.remu sd sa sb) → exec (.remu sd sa sb) s =
      .next (s.putSlot (sl.wrote sd (if b = 0 then a else a % b)))) ∧
    (a = BitVec.intMin 64 → b = BitVec.allOnes 64 → Issues s sl (.div sd sa sb) → exec (.div sd sa sb) s =
      .next (s.putSlot (sl.wrote sd (BitVec.intMin 64)))) ∧
    (a = BitVec.intMin 64 → b = BitVec.allOnes 64 → Issues s sl (.rem sd sa sb) → exec (.rem sd sa sb) s =
      .next (s.putSlot (sl.wrote sd 0)))

/-- Where it issues normally, each answers the next state in which sd has the value of R116 or R118 to R120 and nothing else changes but the slot's place in its program; NOP changes nothing else at all. A shift takes bits [5:0] of b; immediates are zero-extended and shift immediates are below 64. CLZ and CTZ are stated by the bits they count past, BREV bit by bit, and 64 is their count for zero. -/
def Obligations.RegisterResults : Prop :=
  (∀ (s : State) (sl : Slot) (sd sa sb n : Nat),
    let a := sl.ctx.reg sa
    let b := sl.ctx.reg sb
    let c := b.toNat % 64
    let put := fun v : Word => Host.Outcome.next (ρ := Refusal) (φ := Fault) (s.putSlot (sl.wrote sd v))
    (Issues s sl (.min sd sa sb) → exec (.min sd sa sb) s = put (if a.slt b then a else b)) ∧
    (Issues s sl (.max sd sa sb) → exec (.max sd sa sb) s = put (if a.slt b then b else a)) ∧
    (Issues s sl (.minu sd sa sb) → exec (.minu sd sa sb) s = put (if a < b then a else b)) ∧
    (Issues s sl (.maxu sd sa sb) → exec (.maxu sd sa sb) s = put (if a < b then b else a)) ∧
    (Issues s sl (.and sd sa sb) → exec (.and sd sa sb) s = put (a &&& b)) ∧
    (Issues s sl (.or sd sa sb) → exec (.or sd sa sb) s = put (a ||| b)) ∧
    (Issues s sl (.xor sd sa sb) → exec (.xor sd sa sb) s = put (a ^^^ b)) ∧
    (Issues s sl (.andn sd sa sb) → exec (.andn sd sa sb) s = put (a &&& ~~~b)) ∧
    (Issues s sl (.shl sd sa sb) → exec (.shl sd sa sb) s = put (BitVec.ofNat 64 (a.toNat * 2 ^ c))) ∧
    (Issues s sl (.shr sd sa sb) → exec (.shr sd sa sb) s = put (BitVec.ofNat 64 (a.toNat / 2 ^ c))) ∧
    (Issues s sl (.sra sd sa sb) → exec (.sra sd sa sb) s = put (BitVec.ofInt 64 (a.toInt / 2 ^ c))) ∧
    (Issues s sl (.rol sd sa sb) → exec (.rol sd sa sb) s = put (a.rotateLeft c)) ∧
    (Issues s sl (.andi sd sa n) → exec (.andi sd sa n) s = put (a &&& BitVec.ofNat 64 n)) ∧
    (Issues s sl (.ori sd sa n) → exec (.ori sd sa n) s = put (a ||| BitVec.ofNat 64 n)) ∧
    (Issues s sl (.xori sd sa n) → exec (.xori sd sa n) s = put (a ^^^ BitVec.ofNat 64 n)) ∧
    (n < 64 → Issues s sl (.shli sd sa n) → exec (.shli sd sa n) s = put (BitVec.ofNat 64 (a.toNat * 2 ^ n))) ∧
    (n < 64 → Issues s sl (.shri sd sa n) → exec (.shri sd sa n) s = put (BitVec.ofNat 64 (a.toNat / 2 ^ n))) ∧
    (n < 64 → Issues s sl (.srai sd sa n) → exec (.srai sd sa n) s = put (BitVec.ofInt 64 (a.toInt / 2 ^ n)))) ∧
  (∀ (s : State) (sl : Slot) (sd sa sb k n : Nat) (z : Int),
    let a := sl.ctx.reg sa
    let b := sl.ctx.reg sb
    let put := fun v : Word => Host.Outcome.next (ρ := Refusal) (φ := Fault) (s.putSlot (sl.wrote sd v))
    (Issues s sl .nop → exec .nop s = .next (s.putSlot sl.pastWord)) ∧
    (Issues s sl (.mov sd sa) → exec (.mov sd sa) s = put a) ∧
    (Issues s sl (.sel sd sa sb k) → exec (.sel sd sa sb k) s = put (if k = 0 ∨ sl.ctx.kreg.testBit k then a else b)) ∧
    (n < 8 → Issues s sl (.lea sd sa sb n) → exec (.lea sd sa sb n) s = put (BitVec.ofNat 64 (a.toNat + b.toNat * 2 ^ n))) ∧
    (Issues s sl (.clz sd sa) → ∃ c : Nat, exec (.clz sd sa) s = put (BitVec.ofNat 64 c) ∧ c ≤ 64 ∧
      (∀ i, i < c → a.getMsbD i = false) ∧ (c < 64 → a.getMsbD c = true)) ∧
    (Issues s sl (.ctz sd sa) → ∃ c : Nat, exec (.ctz sd sa) s = put (BitVec.ofNat 64 c) ∧ c ≤ 64 ∧
      (∀ i, i < c → a.getLsbD i = false) ∧ (c < 64 → a.getLsbD c = true)) ∧
    (Issues s sl (.popc sd sa) → exec (.popc sd sa) s =
      put (BitVec.ofNat 64 ((List.range 64).filter (fun i => a.getLsbD i)).length)) ∧
    (Issues s sl (.brev sd sa) → ∃ v : Word, exec (.brev sd sa) s = put v ∧ ∀ i, i < 64 → v.getLsbD i = a.getLsbD (63 - i)) ∧
    (∀ z, Issues s sl (.sext sd sa z) → exec (.sext sd sa z) s =
      put (match z with
        | .b => (a.setWidth 8).signExtend 64
        | .h => (a.setWidth 16).signExtend 64
        | .w => (a.setWidth 32).signExtend 64)) ∧
    (∀ z, Issues s sl (.zext sd sa z) → exec (.zext sd sa z) s =
      put (match z with
        | .b => (a.setWidth 8).setWidth 64
        | .h => (a.setWidth 16).setWidth 64
        | .w => (a.setWidth 32).setWidth 64)) ∧
    (Issues s sl (.ldi sd z) → exec (.ldi sd z) s = put (BitVec.ofInt 64 z)) ∧
    (n < 2 ^ 32 → Issues s sl (.ldih sd n) → exec (.ldih sd n) s =
      put ((BitVec.ofNat 32 n) ++ ((sl.ctx.reg sd).setWidth 32))))

/-- Where it issues normally, each of these answers the next state in which condition kd has the value of R121, R122 or R123 and nothing else changes but the slot's place in its program. The target is not k0, which R46 refuses. VANY and VALL do so once no VA command of the slot that writes pM is queued, or where M is 0, when both give 1; while such a command is queued the slot waits, or takes 0x0F where the command belongs to the segment under way of a LOOPP. -/
def Obligations.ConditionResults : Prop :=
  (∀ (s : State) (sl : Slot) (kd sa sb ka kb : Nat) (c : Cond) (z : Int),
    let a := sl.ctx.reg sa
    let b := sl.ctx.reg sb
    (Issues s sl (.cmp kd sa sb c) → ∃ v, exec (.cmp kd sa sb c) s = .next (s.putSlot (sl.wroteK kd v)) ∧ (v = true ↔ condHolds c a b)) ∧
    (Issues s sl (.cmpi kd sa c z) → ∃ v, exec (.cmpi kd sa c z) s = .next (s.putSlot (sl.wroteK kd v)) ∧
      (v = true ↔ condHolds c a (BitVec.ofInt 64 z))) ∧
    (Issues s sl (.kand kd ka kb) → exec (.kand kd ka kb) s = .next (s.putSlot (sl.wroteK kd (sl.ctx.k ka && sl.ctx.k kb)))) ∧
    (Issues s sl (.kor kd ka kb) → exec (.kor kd ka kb) s = .next (s.putSlot (sl.wroteK kd (sl.ctx.k ka || sl.ctx.k kb)))) ∧
    (Issues s sl (.kxor kd ka kb) → exec (.kxor kd ka kb) s = .next (s.putSlot (sl.wroteK kd (sl.ctx.k ka ^^ sl.ctx.k kb)))) ∧
    (Issues s sl (.knot kd ka) → exec (.knot kd ka) s = .next (s.putSlot (sl.wroteK kd (!sl.ctx.k ka))))) ∧
  (∀ (s : State) (sl : Slot) (kd p : Nat),
    let writes := s.cmdsHere.filter (fun c => c.eng == .va && !c.marker && c.instr.predOut.contains p)
    let v := sl.ctx.pred p
    (Issues s sl (.vany kd p) → (p = 0 ∨ writes = []) →
      ∃ b, exec (.vany kd p) s = .next (s.putSlot (sl.wroteK kd b)) ∧ (b = true ↔ ∃ n, n < 128 ∧ v.getLsbD n = true)) ∧
    (Issues s sl (.vall kd p) → (p = 0 ∨ writes = []) →
      ∃ b, exec (.vall kd p) s = .next (s.putSlot (sl.wroteK kd b)) ∧ (b = true ↔ ∀ n, n < 128 → v.getLsbD n = true)) ∧
    (∀ i ∈ [Instr.vany kd p, Instr.vall kd p], Issues s sl i → p ≠ 0 → writes ≠ [] →
      exec i s = .next (if writes.any (fun c => sl.ctx.pipe.any (fun q => c.inPipe && c.seg == q.iter)) then s.trapped sl i 0x0F else s.waiting)))

/-- Where one of the 40 scalar instructions of R116 to R120 issues normally and answers a next state, everything outside the core, the core's scratchpad, tiles, sluices, queues and other slots, and in the slot every scalar register but sd, the conditions, predicates, capabilities, descriptors, images, queues, tags, FMTMODE, SPTAG and branch targets, are unchanged; a loop counter changes only where the word is a loop end (R129). With destination s0 it answers the next state in which the slot has only moved past the word. -/
def Obligations.FrameOfRegisterInstructions : Prop :=
  (∀ (s t : State) (sl : Slot) (i : Instr) (sd : Nat), i.scalarTarget = some sd → Issues s sl i →
    exec i s = .next t →
      sameOutside s.curCore s t ∧ sameCoreBut s.curCore s.curSlot s t ∧
      ∃ v, t.slot? s.curCore s.curSlot = some v ∧
        (∀ r, r ≠ sd → v.ctx.reg r = sl.ctx.reg r) ∧ v.ctx.kreg = sl.ctx.kreg ∧ v.ctx.preds = sl.ctx.preds ∧
        v.ctx.caps = sl.ctx.caps ∧ v.ctx.descs = sl.ctx.descs ∧ v.ctx.ma = sl.ctx.ma ∧ v.ctx.mb = sl.ctx.mb ∧ v.ctx.ms = sl.ctx.ms ∧
        v.ctx.queues = sl.ctx.queues ∧ v.ctx.bal = sl.ctx.bal ∧ v.ctx.fmtmode = sl.ctx.fmtmode ∧ v.ctx.sptag = sl.ctx.sptag ∧
        v.ctx.tags = sl.ctx.tags ∧ v.ctx.bt = sl.ctx.bt ∧ v.flt = sl.flt ∧ v.hsel = sl.hsel ∧ v.rsel = sl.rsel ∧
        (sl.ctx.loops = [] → v.ctx.lc = sl.ctx.lc)) ∧
  (∀ (s : State) (sl : Slot) (i : Instr), i.scalarTarget = some 0 → Issues s sl i → exec i s = .next (s.putSlot sl.pastWord))

/-- Where MFS issues normally and the register exists at the slot's level, sd is written and nothing else changes but the slot's place and, for REGION and PART on the fontanier, the model's counter of free values; every register that a chapter assigns reads as its layout table places the fields that the state holds, field by field for STATUS, LPST, CSTREF, QBAL, KREG, PWST, SCRPROG, KEYST, RGNMAP, WGRP, LSTATE and FEATACC (LSTATE as the conduits are, log entry 76). An unassigned index raises 0x02, one above the slot's level 0x10, and with HSEL at 0x40 each register that R293 lists as existing only for partitions raises 0x06 on the fontanier. -/
def Obligations.SpecialRegisterReads : Prop :=
  ∀ (s : State) (sl : Slot) (sd n : Nat), Issues s sl (.mfs sd n) →
    let c := s.curCore
    let x := sl.ctx
    let q := s.part (selPart c sl)
    let g := s.region c
    let h := s.region sl.rsel
    (sreg? n = none → exec (.mfs sd n) s = .next (s.trapped sl (.mfs sd n) 0x02)) ∧
    (∀ r, sreg? n = some r → (slotLevel c sl).rank < r.rd.rank → exec (.mfs sd n) s = .next (s.trapped sl (.mfs sd n) 0x10)) ∧
    (c = fontanier → sl.hsel = 0x40 → n ∈ [0x084, 0x0C1, 0x0C2, 0x104, 0x108, 0x203, 0x204, 0x207, 0x304] →
      exec (.mfs sd n) s = .next (s.trapped sl (.mfs sd n) 0x06)) ∧
    (sregGate c sl n false = none → ∃ f v, exec (.mfs sd n) s = .next (({ s with free := f } : State).putSlot (sl.wrote sd v)) ∧
      (c < 64 → f = s.free) ∧
      (n = 0x000 → v = BitVec.ofNat 64 ((g.cyc10 + (s.tick - g.cycAt) * g.cur) / 10)) ∧
      (n = 0x001 → v = BitVec.ofNat 64 s.tick) ∧ (n = 0x002 → v = BitVec.ofNat 64 s.curSlot) ∧ (n = 0x003 → v.toNat = sl.task % 2 ^ 48) ∧
      (n = 0x004 → c < 64 → v = BitVec.ofNat 64 c) ∧ (n = 0x005 → c < 64 → v = BitVec.ofNat 64 sl.part) ∧
      (n = 0x006 → bits v 63 12 = 0 ∧ bits v 7 4 = sl.banks % 16 ∧ v.getLsbD 0 = sl.sup ∧
        (∀ t, s.task? sl.part sl.task = some t → bits v 3 1 = t.prio % 8) ∧
        ∀ m, m < 4 → (v.getLsbD (8 + m) = true ↔ (∃ l ∈ x.loops, l.lc = m) ∨ ∃ p, x.pipe = some p ∧ p.lc = m)) ∧
      (n = 0x007 → v = BitVec.ofNat 64 (sl.slice - (s.cycles c - sl.sliceAt))) ∧
      (∀ m, m < 4 → n = 0x008 + m → v = x.lcv m) ∧ (∀ m, m < 4 → n = 0x00C + m → v = BitVec.ofNat 64 (x.btv m)) ∧
      (n = 0x010 → v.getLsbD 0 = true ∧ ∀ m, 1 ≤ m → m < 8 → v.getLsbD m = x.k m) ∧
      (n = 0x011 → (x.pipe = none → bits v 63 32 = 0) ∧ ∀ p, x.pipe = some p → p.lc < 4 → 1 ≤ p.depth → p.depth ≤ 8 →
        bits v 63 40 = 0 ∧ v.getLsbD 39 = true ∧ bits v 38 37 = p.lc ∧ bits v 36 34 = p.depth - 1 ∧ bits v 31 0 = p.iter % 2 ^ 32 ∧
          bits v 33 32 = (match p.seg with | .prologue => 1 | .kernel => 2 | .epilogue => 3)) ∧
      (n = 0x040 → v = q.captb) ∧ (n = 0x041 → v = q.captn) ∧ (n = 0x042 → v = BitVec.ofNat 64 sl.winSize) ∧
      (n = 0x080 → v = BitVec.ofNat 64 x.fmtmode) ∧ (n = 0x081 → v = BitVec.ofNat 64 x.sptag) ∧
      (n = 0x082 → bits v 63 56 = s.tick / 2000 % 32 ∧ bits v 55 0 = (s.tick / 2000 + 1) * 2000 % 2 ^ 56) ∧
      (n = 0x083 → ∀ m, m < 8 → bits v (8 * m + 7) (8 * m) = (x.balance m % 256).toNat) ∧ (n = 0x084 → v = q.xwgt) ∧
      (n = 0x0C0 → v = BitVec.ofNat 64 (g.base * 2 ^ 16 + g.cur * 2 ^ 8 + g.recv * 2 ^ 4 + (if g.donor = true then 8 else 0))) ∧
      (n = 0x0C1 → v = q.cqbase) ∧ (n = 0x0C2 → v = q.cqsize) ∧ (n = 0x0C3 → v = BitVec.ofNat 64 q.decn) ∧
      (n = 0x100 → v = sl.flt.code) ∧ (n = 0x101 → v = sl.flt.addr) ∧ (n = 0x102 → v = sl.flt.gpa) ∧ (n = 0x103 → v = sl.flt.task) ∧
      (n = 0x104 → v = q.hndl) ∧ (n = 0x105 → v = q.frmbase) ∧ (n = 0x106 → v = q.frmcnt) ∧ (n = 0x107 → v = q.sliceb) ∧
      (n = 0x108 → v = q.s2tb) ∧ (n = 0x109 → v = s.grotto.hvhndl) ∧ (n = 0x10A → v = BitVec.ofNat 64 sl.hsel) ∧
      (n = 0x200 → h.phase < 16 → h.done < 2 ^ 32 → bits v 63 60 = h.state.code ∧ bits v 59 56 = (if h.state = .scrub then h.phase else 0) ∧
        bits v 55 48 = (match h.state with
          | .owned | .held | .quiesce | .scrub | .sign => h.part % 256
          | .reset => if h.ret = .scrub then h.part % 256 else 0xFF
          | _ => 0xFF) ∧
        bits v 47 40 = min 255 h.restarts ∧ bits v 39 32 = 0 ∧ bits v 31 0 = h.done) ∧
      (n = 0x201 → v = BitVec.ofNat 64 sl.rsel) ∧
      (n = 0x202 → (h.token = none → v = 0) ∧ ∀ t, h.token = some t → v = BitVec.ofNat 64 (leNat ((t.body.drop 8).take 8))) ∧
      (n = 0x203 → v = q.pcfg) ∧ (n = 0x204 → ∀ i, v.getLsbD i = true ↔ i < 16 ∧ mget none q.keys i ≠ none) ∧
      (n = 0x205 → v = BitVec.ofNat 64 (s.grotto.scrubQ.length * 2 ^ 32 + s.grotto.clean.length)) ∧
      (n = 0x206 → v.getLsbD 63 = s.exh ∧ bits v 62 0 = s.sigLeft) ∧
      (n = 0x207 → ∀ r, r < 64 → (v.getLsbD r = true ↔
        (s.region r).part = selPart c sl ∧ ((s.region r).state = .owned ∨ (s.region r).state = .held))) ∧
      (n = 0x208 → c < 64 → ∀ r, r < 64 → (v.getLsbD r = true ↔ r ∈ s.windowGroup c)) ∧
      (n = 0x300 → bits v 63 60 = s.mapst ∧ bits v 55 48 = (s.conduitsIn .down).length ∧
        ∀ m, m < 48 → (v.getLsbD m = true ↔ (s.conduit m).state = .up)) ∧
      (n = 0x301 → (s.links.topo = none → v = 0) ∧ ∀ t, s.links.topo = some t → v = BitVec.ofNat 64 t.seq) ∧
      (n = 0x302 → v = BitVec.ofNat 64 Config.pkgId.toNat) ∧
      (n = 0x303 → v = BitVec.ofNat 64 ((Config.epoch.toNat + s.boots) % 2 ^ 32)) ∧ (n = 0x304 → v = q.lscfg) ∧
      (n = 0x380 → v = BitVec.ofNat 64 Config.featOff.toNat) ∧
      (n = 0x381 → v.getLsbD 63 = s.host.lock ∧ bits v 62 16 = 0 ∧ bits v 15 0 = s.host.accepted % 2 ^ 16) ∧
      (n = 0x382 → s.host.repaired = false → v = 0))

/-- Where MTS issues normally on a register with RW bits that exists at the slot's level, a 1 in a reserved bit raises 0x02 and leaves the register, a reserved value raises the code of R13 or R271, and otherwise the register reads afterwards the RW bits of sa with its fixed bits, memory and every general register staying as they are. No loop is active, since a loop end would count a loop counter down. -/
def Obligations.SpecialRegisterWrites : Prop :=
  ∀ (s : State) (sl : Slot) (sa n : Nat) (r : SReg), Issues s sl (.mts sa n) → sregGate s.curCore sl n true = none → sreg? n = some r →
    let v := (sl.ctx.reg sa).toNat
    (Nat.land v (allBits - Nat.lor r.rw r.ro) ≠ 0 → exec (.mts sa n) s = .next (s.trapped sl (.mts sa n) 0x02)) ∧
    (∀ code, Nat.land v (allBits - Nat.lor r.rw r.ro) = 0 → s.sregRefuse s.curCore sl n (Nat.land v r.rw) = some code →
      exec (.mts sa n) s = .next (s.trapped sl (.mts sa n) code)) ∧
    (Nat.land v (allBits - Nat.lor r.rw r.ro) = 0 → s.sregRefuse s.curCore sl n (Nat.land v r.rw) = none →
      sl.ctx.loops = [] → r.rw ≠ 0 →
      ∃ t sl', exec (.mts sa n) s = .next t ∧ t.slot? s.curCore s.curSlot = some sl' ∧ sl'.ctx.regs = sl.ctx.regs ∧
        sameMemory s t ∧ t.sregValue s.curCore s.curSlot sl' 0 n = BitVec.ofNat 64 (Nat.land v r.rw + (if n = 0x010 then 1 else 0)))

/-- Where it issues normally, PREP writes its offset plus 8 times the displacement, modulo 2^48, to bN, and PREPR bits [47:0] of sa. A taken BR, BRA, CALL or RET whose target lies in the span of any active LOOPP continues at the next word with its target pending after two words (CALL also writes the offset after them to s63), an untaken one with the word after them pending, an untaken BRA continues three words on at once, and a taken one out of the span raises 0x0F; the second of two further words then goes to the pending target (that an untaken branch counts two delay-slot words, and that these take part in no loop-back, is log entry 15). Nothing else changes. -/
def Obligations.BranchesAndTargets : Prop :=
  (∀ (s : State) (sl : Slot) (bd sa : Nat) (disp : Int),
    (Issues s sl (.prep bd disp) → ∃ y : Ctx, exec (.prep bd disp) s = .next (s.putSlot ({ sl with ctx := y } : Slot).pastWord) ∧
      y = { sl.ctx with bt := y.bt } ∧ (y.btv bd : Int) = ((sl.ctx.pc : Int) + 8 * disp) % 281474976710656 ∧ ∀ n, n ≠ bd → y.btv n = sl.ctx.btv n) ∧
    (Issues s sl (.prepr bd sa) → ∃ y : Ctx, exec (.prepr bd sa) s = .next (s.putSlot ({ sl with ctx := y } : Slot).pastWord) ∧
      y = { sl.ctx with bt := y.bt } ∧ y.btv bd = (sl.ctx.reg sa).toNat % 281474976710656 ∧ ∀ n, n ≠ bd → y.btv n = sl.ctx.btv n)) ∧
  (∀ (s : State) (sl : Slot) (bd k : Nat),
    let x := sl.ctx
    let pend := fun (v : Slot) (n : Nat) => Host.Outcome.next (ρ := Refusal) (φ := Fault)
      (s.putSlot (({ v with ctx := { v.ctx with delay := some ⟨n, 2⟩ } } : Slot).goesTo (x.pc + 8)))
    let far := fun n : Nat => x.pipe.any (fun p => decide (n < p.off) || decide (p.endWord ≤ n))
    let link := (sl.ctx.reg 63).toNat % 281474976710656
    (Issues s sl (.br bd k) → exec (.br bd k) s =
      (if x.k k = true then (if far (x.btv bd) = true then .next (s.trapped sl (.br bd k) 0x0F) else pend sl (x.btv bd)) else pend sl (x.pc + 24))) ∧
    (Issues s sl (.bra bd k) → exec (.bra bd k) s =
      (if x.k k = true then (if far (x.btv bd) = true then .next (s.trapped sl (.bra bd k) 0x0F) else pend sl (x.btv bd))
       else .next (s.putSlot (sl.goesTo (x.pc + 24))))) ∧
    (Issues s sl (.call bd k) → exec (.call bd k) s =
      (if x.k k = true then (if far (x.btv bd) = true then .next (s.trapped sl (.call bd k) 0x0F)
        else pend (sl.writeReg 63 (BitVec.ofNat 64 (x.pc + 24))) (x.btv bd)) else pend sl (x.pc + 24))) ∧
    (Issues s sl (.ret k) → exec (.ret k) s =
      (if x.k k = true then (if far link = true then .next (s.trapped sl (.ret k) 0x0F) else pend sl link) else pend sl (x.pc + 24))) ∧
    (∀ (v : Slot) (n m : Nat), v.ctx.delay = some ⟨n, 2⟩ → (v.past m).ctx = ({ v.ctx with delay := some ⟨n, 1⟩ } : Ctx).arrive m v.ctx.atLast) ∧
    (∀ (v : Slot) (n m : Nat), v.ctx.delay = some ⟨n, 1⟩ → (v.past m).ctx = ({ v.ctx with delay := none } : Ctx).arrive n v.ctx.atLast) ∧
    (∀ (y : Ctx) (n : Nat) (last : Bool), y.pipe = none → y.arrive n last = { y with pc := n }) ∧
    (∀ (y : Ctx) (p : Pipe) (n : Nat), y.pipe = some p → p.seg ≠ .prologue → n < p.endWord → y.arrive n false = { y with pc := n }))

/-- Where it issues normally, LOOP with a count of zero sets the counter to 0 and continues after the body; with another count it sets the counter, replaces any loop on it (the LOOPP of that counter too, log entry 15), makes the new loop the last started and continues at its start. With no LOOPP active, its words inside the code object and no passes left over from a forced epilogue, a LOOPP with a count of zero continues after its epilogue, and one with another count enters its prologue with tag 0 and none of the commands already queued inside it; with passes left over it runs those, its prologue tagged as the last kernel pass was. A second LOOPP inside one raises 0x0F and one that leaves the code object 0x06. After the last word of a kernel pass a count above 1 goes down by one and the next pass begins at the first kernel word with the next tag; otherwise the epilogue follows with the next tag, and without one the LOOPP is over. A forced loop epilogue cuts the count to the slip depth and keeps what it removed, and its last word leads back to the LOOPP with the tag of the last kernel pass (where it ends is log entry 81). No word issues in a segment while a command tagged the slip depth or more below it is queued, and no VL, VA or VS step is made of a command tagged with the segment under way. -/
def Obligations.LoopStarts : Prop :=
  (∀ (s : State) (sl : Slot) (lc sa body count : Nat), Issues s sl (.loop lc sa body count) →
    let x := sl.ctx
    let n := if sa = 0 then count else (x.reg sa).toNat
    (n = 0 → exec (.loop lc sa body count) s =
      .next (s.putSlot (({ sl with ctx := x.setLc lc 0 } : Slot).goesTo (x.pc + 8 * body + 8)))) ∧
    (n ≠ 0 → exec (.loop lc sa body count) s = .next (s.putSlot ({ sl with ctx := { x.setLc lc (BitVec.ofNat 64 n) with
      loops := ⟨lc, x.pc + 8, x.pc + 8 * body, false, sl.seq⟩ :: x.loops.filter (fun l => l.lc != lc),
      pipe := x.pipe.filter (fun p => p.lc != lc) } } : Slot).pastWord))) ∧
  (∀ (s : State) (sl : Slot) (lc depth sa p k count e : Nat), Issues s sl (.loopp lc depth sa p k count e) →
    let x := sl.ctx
    let i := Instr.loopp lc depth sa p k count e
    let n := if x.remIter = 0 then (if sa = 0 then count else (x.reg sa).toNat) else x.rem
    let last := if e = 0 then x.pc + 8 + 8 * (p + k) else x.pc + 8 * (p + k + e)
    (x.pipe ≠ none → exec i s = .next (s.trapped sl i 0x0F)) ∧
    (x.pipe = none → (last < sl.codeCap.lo ∨ sl.codeCap.hi < last + 8) → exec i s = .next (s.trapped sl i 0x06)) ∧
    (x.pipe = none → sl.codeCap.lo ≤ last → last + 8 ≤ sl.codeCap.hi →
      (n = 0 → x.remIter = 0 → exec i s = .next (s.putSlot (({ sl with ctx := { x with rem := 0, remIter := 0 } } : Slot).goesTo (x.pc + 8 + 8 * (p + k + e))))) ∧
      (n ≠ 0 → ∃ t v q, exec i s = .next t ∧ t.slot? s.curCore s.curSlot = some v ∧ sameOutside s.curCore s t ∧
        v.ctx.pipe = some q ∧ q.lc = lc ∧ q.depth = depth + 1 ∧ q.off = x.pc ∧ q.p = p ∧ q.k = k ∧ q.e = e ∧ q.pushes = [0, 0, 0, 0, 0] ∧
        q.forced = false ∧ (x.delay = none → x.loops = [] → p ≠ 0 → q.iter = x.remIter ∧ q.seg = .prologue ∧ v.ctx.lcv lc = BitVec.ofNat 64 n ∧
          v.ctx.pc = x.pc + 8 ∧ v.ctx.rem = 0 ∧ v.ctx.remIter = 0) ∧
        v.ctx.regs = x.regs ∧ ∀ c ∈ t.cmdsHere, c.inPipe = false))) ∧
  (∀ (x : Ctx) (p : Pipe) (l : LoopRec) (before rest : List LoopRec), x.pipe = some p → x.delay = none → p.forced = false → p.seg = .kernel →
    1 ≤ p.k → x.pc = p.kernelEnd → x.loops = before ++ l :: rest → (∀ b ∈ before ++ rest, b.stop ≠ x.pc) → l.pipe = true → l.lc = p.lc →
    l.start = p.kernel → l.stop = p.kernelEnd → l.ord = p.ord →
    let n := (x.lcv p.lc).toNat
    (1 < n → x.retire (x.pc + 8) = { x.setLc p.lc (x.lcv p.lc - 1) with
      pc := p.kernel, pipe := some { p with iter := p.iter + 1, pushes := [0, 0, 0, 0, 0] } }) ∧
    (n ≤ 1 → p.e ≠ 0 → x.retire (x.pc + 8) = { x.setLc p.lc 0 with
      pc := x.pc + 8, loops := before ++ rest, pipe := some { p with iter := p.iter + 1, pushes := [0, 0, 0, 0, 0], seg := .epilogue } }) ∧
    (n ≤ 1 → p.e = 0 → x.retire (x.pc + 8) = { x.setLc p.lc 0 with
      pc := x.pc + 8, loops := (before ++ rest).filter (fun m => !m.pipe), pipe := none })) ∧
  (∀ (x : Ctx) (p : Pipe), x.pipe = some p →
    (p.depth < 2 ^ 64 → ((x.clamp p).lcv p.lc).toNat = min (x.lcv p.lc).toNat p.depth ∧
      (x.clamp p).rem = (x.lcv p.lc).toNat - ((x.clamp p).lcv p.lc).toNat ∧ (x.clamp p).pipe = some { p with forced := true }) ∧
    (x.delay = none → p.forced = true → p.seg = .epilogue → p.e ≠ 0 → x.pc + 8 = p.endWord → (∀ b ∈ x.loops, b.stop ≠ x.pc) →
      x.retire (x.pc + 8) = { x with pipe := none, loops := x.loops.filter (fun l => !l.pipe), pc := p.off, remIter := p.iter - 1 })) ∧
  (∀ (s : State) (sl : Slot) (p : Pipe) (m : Cmd), s.slot? s.curCore s.curSlot = some sl → s.curCore ≤ 64 → s.curSlot ≤ 3 →
    sl.ctx.pipe = some p → m ∈ s.cmdsHere → m.inPipe = true → m.marker = false →
    (sl.issues = true → m.seg + p.depth ≤ p.iter → ∀ i : Instr, i.isWbas = true → exec i s = .next s.waiting) ∧
    (m.seg = p.iter →
      (s.head? s.curCore s.curSlot .vl = some m → execVlStep s.curCore s.curSlot s = .next s) ∧
      (s.head? s.curCore s.curSlot .va = some m → execVaStep s.curCore s.curSlot s = .next s) ∧
      (s.head? s.curCore s.curSlot .vs = some m → execVsStep s.curCore s.curSlot s = .next s)))

/-- When a word that does not transfer control itself has issued and no transfer is pending (log entry 15: the words of delay slots take no part), the active loops that end at its offset are taken latest started first (the order in which the list of loops holds them): a loop whose counter is 0 or 1 gets counter 0 and becomes inactive, and the next is tried; any other has its counter decremented and control goes to its start, the rest staying as they are. A loop that ends elsewhere stays active, wherever control goes. -/
def Obligations.LoopBack : Prop :=
  ∀ (x : Ctx) (n : Nat), x.delay = none → x.pipe = none →
    let o := x.pc
    ((∀ l ∈ x.loops, l.stop ≠ o) → x.retire n = { x with pc := n }) ∧
    (∀ before l rest, x.loops = before ++ l :: rest → l.stop = o → (∀ b ∈ before, b.stop ≠ o) →
      (1 < (x.lcv l.lc).toNat → x.retire n = { x.setLc l.lc (x.lcv l.lc - 1) with pc := l.start }) ∧
      ((x.lcv l.lc).toNat ≤ 1 → x.retire n = ({ x.setLc l.lc 0 with loops := before ++ rest } : Ctx).retire n)) ∧
    (∀ m last, (x.arrive m last).loops = x.loops)

/-- Where it issues normally, BRK with condition 0 only moves on; with condition 1 it raises 0x0F when its counter is inactive, and otherwise makes inactive the loop on the counter and those started after it, leaves the counter, and continues after the loop's end; where that ends the LOOPP, every command of the broken segment leaves its queue at once (log entry 19), the other commands of the slot stay, and the queue balances are zero. A LOOP inside the kernel leaves the LOOPP active, and one started before the LOOPP ends it too, its segment broken in the same way (log entry 82). -/
def Obligations.LoopBreak : Prop :=
  ∀ (s : State) (sl : Slot) (lc k : Nat), Issues s sl (.brk lc k) →
    let x := sl.ctx
    (x.k k = false → exec (.brk lc k) s = .next (s.putSlot sl.pastWord)) ∧
    (x.k k = true → (∀ p, x.pipe = some p → p.lc ≠ lc) → (∀ l ∈ x.loops, l.lc ≠ lc) →
      exec (.brk lc k) s = .next (s.trapped sl (.brk lc k) 0x0F)) ∧
    (∀ l, x.k k = true → x.pipe = none → x.loops.find? (fun l => l.lc == lc) = some l →
      exec (.brk lc k) s = .next (s.putSlot (({ sl with ctx := { x with loops := x.loops.filter (fun m => decide (m.ord < l.ord)) } } : Slot).goesTo (l.stop + 8)))) ∧
    (∀ l p, x.k k = true → x.pipe = some p → p.lc ≠ lc → x.loops.find? (fun l => l.lc == lc) = some l → p.ord < l.ord →
      exec (.brk lc k) s = .next (s.putSlot (({ sl with ctx := { x with loops := x.loops.filter (fun m => decide (m.ord < l.ord)) } } : Slot).goesTo (l.stop + 8)))) ∧
    (∀ l p, x.k k = true → x.pipe = some p → p.lc ≠ lc → x.loops.find? (fun l => l.lc == lc) = some l → l.ord ≤ p.ord →
      ∃ t v, exec (.brk lc k) s = .next t ∧ t.slot? s.curCore s.curSlot = some v ∧ v.ctx.pipe = none ∧ v.ctx.pc = l.stop + 8 ∧
        v.ctx.bal = [] ∧ v.ctx.regs = x.regs ∧ v.ctx.lc = x.lc ∧ (∀ m ∈ v.ctx.loops, m.ord < l.ord) ∧
        ∀ m ∈ t.cmdsHere, m.inPipe = false ∧ ∃ q ∈ s.cmdsHere, m = { q with inPipe := false } ∧ (q.inPipe = true → q.preMark = false → q.seg ≠ p.iter)) ∧
    (∀ p, x.k k = true → x.pipe = some p → p.lc = lc → ∃ t v, exec (.brk lc k) s = .next t ∧ t.slot? s.curCore s.curSlot = some v ∧
      v.ctx.pipe = none ∧ v.ctx.pc = p.endWord ∧ v.ctx.bal = [] ∧ v.ctx.regs = x.regs ∧ (∀ l ∈ v.ctx.loops, l.ord < p.ord) ∧
      ∀ m ∈ t.cmdsHere, m.inPipe = false ∧ ∃ q ∈ s.cmdsHere, m = { q with inPipe := false } ∧ (q.inPipe = true → q.preMark = false → q.seg ≠ p.iter))

/-- For every instruction of wbas at an occupied slot that may issue, with no fault of an earlier instruction to raise and no segment of a LOOPP to wait for: an absent feature gives 0x01; else a transfer in a delay slot or a branch too near a loop end 0x03; else a privileged instruction below its level 0x10; else a refused field 0x02, a destination k0, c0 or p0 among them; then, with no operand on its way and no deferred fault due, a refused operand value 0x02, a refused SCOPE 0x11, and a tile outside the slot's banks 0x04. Each takes the fault at this word and has no other effect. -/
def Obligations.IssueChecksInOrder : Prop :=
  (∀ (s : State) (sl : Slot) (i : Instr), s.slot? s.curCore s.curSlot = some sl → sl.issues = true → i.isWbas = true →
    slipOk sl s.cmdsHere = true → sl.ownFault = none →
    let x := sl.ctx
    let out := fun code => exec i s = .next (s.trapped sl i code)
    let present := ∀ b, i.feature = some b → s.feature b = true
    let wrongPlace := (i.transfer = true ∧ x.delay ≠ none) ∨ (i.branch = true ∧ nearLoopEnd x x.pc = true)
    let low := (slotLevel s.curCore sl).rank < i.level.rank
    let ready := dependStall sl i = false ∧ dueFault sl i = none
    ((∃ b, i.feature = some b ∧ s.feature b = false) → out 0x01) ∧
    (present → wrongPlace → out 0x03) ∧
    (present → ¬wrongPlace → low → out 0x10) ∧
    (present → ¬wrongPlace → ¬low → i.fieldsOk = false → out 0x02) ∧
    (present → ¬wrongPlace → ¬low → i.fieldsOk = true → ready →
      (i.valuesOk x s.feature = false → out 0x02) ∧
      (i.valuesOk x s.feature = true → i.scopeOk = false → out 0x11) ∧
      (i.valuesOk x s.feature = true → i.scopeOk = true → footprintOk sl.banks (i.tiles x) = false → out 0x04))) ∧
  (∀ sa sb z c n p, (Instr.cmp 0 sa sb c).fieldsOk = false ∧ (Instr.cmpi 0 sa c z).fieldsOk = false ∧ (Instr.kand 0 n p).fieldsOk = false ∧
    (Instr.kor 0 n p).fieldsOk = false ∧ (Instr.kxor 0 n p).fieldsOk = false ∧ (Instr.knot 0 n).fieldsOk = false ∧
    (Instr.vany 0 p).fieldsOk = false ∧ (Instr.vall 0 p).fieldsOk = false ∧ (Instr.capsel 0 sa n).fieldsOk = false ∧
    (Instr.capclr 0).fieldsOk = false ∧ (Instr.pand 0 n p).fieldsOk = false ∧ (Instr.por 0 n p).fieldsOk = false ∧
    (Instr.pxor 0 n p).fieldsOk = false ∧ (Instr.pnot 0 n).fieldsOk = false ∧ (Instr.pmov 0 n).fieldsOk = false)

/-- A task of partition p takes a fault: its record holds the fault, the tick and HV; it goes up to the hypervisor when a handler raised it, its code is 0x09, 0x0A or 0x14, a TRAP names it, or p has no handler; the hypervisor's handler, or else the partition's unless a handler raised it, is pended with the fault and the task; the task is Parked, fault under the hypervisor's handler and Failed otherwise; a fontanier task's fault pends nothing and is logged in class 5, and one that no handler takes is logged in class 6, with the tick, the region, the partition, the address and the code; a fault with a handler logs nothing. The slot is free, or holds the task without issuing until a frame slot takes its context. TICK does not move. -/
def Obligations.FaultIsTaken : Prop :=
  ∀ (s : State) (c k : Nat) (sl : Slot) (task : Task) (f : FaultRec) (hv : Bool), s.slot? c k = some sl →
    s.task? sl.part sl.task = some task → task.part = sl.part →
    let t := s.raiseFault c k f hv
    let guest := ((s.part sl.part).hndl).getLsbD 63
    let hyp := s.grotto.hvhndl.getLsbD 63
    let up := task.handler = true ∨ f.code = 0x09 ∨ f.code = 0x0A ∨ f.code = 0x14 ∨ hv = true ∨ guest = false
    let rec' := fun b : Bool => ({ f with hv := b, tick := s.tick } : FaultRec)
    (∃ u, t.task? sl.part sl.task = some u ∧
      (sl.part = 64 → u.fault = some (rec' false) ∧ u.state = .failed) ∧
      (sl.part ≠ 64 → up → u.fault = some (rec' true) ∧ u.state = (if hyp = true then .parkedFault else .failed)) ∧
      (sl.part ≠ 64 → ¬up → u.fault = some (rec' false) ∧ u.state = .failed)) ∧
    (sl.part = 64 → t.grotto.pend = s.grotto.pend) ∧
    (sl.part ≠ 64 → up → hyp = true →
      ∃ h, t.grotto.pend = s.grotto.pend ++ [h] ∧ h.part = 64 ∧ h.hv = true ∧ h.fpart = sl.part ∧ h.ftask = sl.task) ∧
    (sl.part ≠ 64 → up → hyp = false → guest = true → task.handler = false →
      ∃ h, t.grotto.pend = s.grotto.pend ++ [h] ∧ h.part = sl.part ∧ h.hv = false ∧ h.fpart = sl.part ∧ h.ftask = sl.task) ∧
    (sl.part ≠ 64 → up → hyp = false → (guest = false ∨ task.handler = true) → t.grotto.pend = s.grotto.pend) ∧
    (sl.part ≠ 64 → ¬up →
      ∃ h, t.grotto.pend = s.grotto.pend ++ [h] ∧ h.part = sl.part ∧ h.hv = false ∧ h.fpart = sl.part ∧ h.ftask = sl.task) ∧
    (let logged := fun (cls block part : Nat) =>
        s.host.log.length < 1024 → t.host.log = s.host.log ++ [⟨s.tick, cls, c, block, part, s.host.dropped, f.addr, f.code⟩];
      (sl.part = 64 → logged 5 6 0xFF) ∧
      (sl.part ≠ 64 → up → hyp = false → (guest = false ∨ task.handler = true) → logged 6 0 sl.part) ∧
      (sl.part ≠ 64 → (¬up ∨ hyp = true ∨ (guest = true ∧ task.handler = false)) → t.host.log = s.host.log)) ∧
    (t.slot? c k = none ∨ ∃ v, t.slot? c k = some v ∧ v.issues = false) ∧ t.tick = s.tick

/-- Without V or a right it needs, an access to z bytes at an offset is refused with 0x07; within rights but outside [LO, HI) with 0x06; within bounds but not aligned with 0x0B; what is granted passes all three, and its target never is one that the aperture rules of the access refuse. -/
def Obligations.ObjectChecksInOrder : Prop :=
  ∀ (s : State) (r p : Nat) (c : Cap) (off z al : Nat) (k : AccKind),
    let acc := objAccess s r p c off z al k
    (c.grants k.cap = false → ∃ f, acc = .error f ∧ f.code = 0x07 ∧ f.addr = off) ∧
    (c.grants k.cap = true → (off < c.lo ∨ c.hi < off + z) → ∃ f, acc = .error f ∧ f.code = 0x06 ∧ f.addr = off) ∧
    (c.grants k.cap = true → c.lo ≤ off → off + z ≤ c.hi → off % al ≠ 0 → ∃ f, acc = .error f ∧ f.code = 0x0B ∧ f.addr = off) ∧
    (∀ t, acc = .ok t → c.grants k.cap = true ∧ c.lo ≤ off ∧ off + z ≤ c.hi ∧ off % al = 0 ∧ apFault k.rule t = none) ∧
    (∀ f, acc = .error f → f.addr = off ∧ f.oid = c.oid)

/-- Where it issues normally, a scalar access or atomic whose object checks or window bounds pass, that no gate refuses (R24; which gate refuses is log entry 77), that has a route and room in the store buffer, adds one outstanding access with its operation, place, size and order, and moves on; no byte changes yet, the accesses before it stay in their order, and none of them still has its destination register (R109). One that a check refuses takes that fault, and one whose walk waits for a route stalls (R364; log entry 8); outside the window it is 0x06. The offset is a plus the displacement modulo 2^64, and a window address drops its low bits. -/
def Obligations.ScalarAccessesAreMade : Prop :=
  ∀ (s : State) (sl : Slot) (sd c sa sb sc : Nat) (o : AccOrd) (op : Aop) (z : Size) (imm : Int),
    let x := sl.ctx
    let disp := (x.reg sa + BitVec.ofInt 64 imm).toNat
    let low := fun (w : Word) => w.toNat % 256 ^ z.bytes
    let arg := fun (p : P0Op) (n off : Nat) => ({ op := p, size := n, cls := o.cls, ord := o.ord, scope := o.scope, off := off, cap := x.cap c } : AccArgs)
    let older := fun (sl : Slot) (op : P0Op) (l : List P0Acc) (acc : P0Acc) => ∃ before, l = before ++ [acc] ∧ before.length = sl.p0.length ∧
      before.map (fun b => (b.seq, b.aper, b.addr, b.size, b.cls, b.ord, b.scope)) = sl.p0.map (fun b => (b.seq, b.aper, b.addr, b.size, b.cls, b.ord, b.scope)) ∧
      ∀ n, n ≠ 0 → op.target = some n → ∀ b ∈ before, b.op.target ≠ some n
    let joins := fun (i : Instr) (a : AccArgs) (t : Target) (scope : Nat) =>
      ∃ u v acc, exec i s = .next u ∧ u.slot? s.curCore s.curSlot = some v ∧ older sl a.op v.p0 acc ∧ acc.op = a.op ∧ acc.addr = t.addr ∧
        acc.aper = t.aper ∧ acc.size = a.size ∧ acc.cls = o.cls ∧ acc.ord = o.ord ∧ acc.scope = scope ∧ acc.seq = sl.seq ∧
        v.ctx = sl.pastWord.ctx ∧ v.seq = sl.seq + 1 ∧ sameMemory s u
    let object := fun (i : Instr) (k : AccKind) (a : AccArgs) => Issues s sl i →
      (∀ t, objAccess s s.curCore sl.part a.cap a.off a.size a.size k = .ok t → ((a.op.writes = true ∨ Ord2.acquires o.ord = true) → s.homeReset s.curCore sl.part t o.scope = false) →
        s.accRoute sl.part t a.size o.scope a.op.writes ≠ some .down → s.accRoute sl.part t a.size o.scope a.op.writes ≠ some .fenced →
        (a.op.target = none → sl.posted.length < 16) → joins i a t o.scope) ∧
      (∀ f, objAccess s s.curCore sl.part a.cap a.off a.size a.size k = .error f →
        (f.hold = none → exec i s = .next (s.faulted sl i f)) ∧
        (f.hold = some .conduit → exec i s = .next (s.modSlot s.curCore s.curSlot (fun v => { v with stalled := true, heldAt := none }))))
    let window := fun (i : Instr) (a : AccArgs) => Issues s sl i →
      (a.off - a.off % a.size + a.size ≤ sl.winSize → (a.op.target = none → sl.posted.length < 16) →
        joins i a { aper := .spad, addr := sl.winBase + (a.off - a.off % a.size) } (min o.scope 1)) ∧
      (sl.winSize < a.off - a.off % a.size + a.size → exec i s = .next (s.faulted sl i { code := 0x06, addr := a.off, wr := a.op.writes }))
    object (.lds sd c sa o z imm) kLoad (arg (.load sd) z.bytes disp) ∧
    object (.sts sd c sa o z imm) kStore (arg (.store (low (x.reg sd))) z.bytes disp) ∧
    window (.ldp sd sa o imm) (arg (.load sd) 8 disp) ∧
    window (.stp sd sa o imm) (arg (.store (x.reg sd).toNat) 8 disp) ∧
    object (.atom c sa o op z .object sb) kAtom (arg (.rmw op (low (x.reg sb)) none) z.bytes (x.reg sa).toNat) ∧
    window (.atom c sa o op z .spad sb) (arg (.rmw op (low (x.reg sb)) none) z.bytes (x.reg sa).toNat) ∧
    object (.atomf sd c sa o op z .object sb) kAtomf (arg (.rmw op (low (x.reg sb)) (some sd)) z.bytes (x.reg sa).toNat) ∧
    window (.atomf sd c sa o op z .spad sb) (arg (.rmw op (low (x.reg sb)) (some sd)) z.bytes (x.reg sa).toNat) ∧
    object (.acas sd c sa o z .object sb sc) kAtomf (arg (.cas (low (x.reg sb)) (low (x.reg sc)) (some sd)) z.bytes (x.reg sa).toNat) ∧
    window (.acas sd c sa o z .spad sb sc) (arg (.cas (low (x.reg sb)) (low (x.reg sc)) (some sd)) z.bytes (x.reg sa).toNat)

/-- Where it issues normally, LDE or STE takes the code of R148 when its descriptor or that one's capability is refused, 0x06 for an element at or beyond the tensor's count, and 0x05 when its size is not the element size; otherwise its access at the tensor's BASE plus the element's position is checked and made as a scalar access is, and a fault of its checks carries the element's coordinates (R318). -/
def Obligations.ElementAccessesAreMade : Prop :=
  ∀ (s : State) (sl : Slot) (sd d sa : Nat) (o : AccOrd) (z : Size) (imm : Int),
    let x := sl.ctx
    let desc := x.desc d
    let cap := x.cap (bits desc.w0 35 32)
    let e := (x.reg sa + BitVec.ofInt 64 imm).toNat
    let off := desc.base * 65536 + bytePos desc (elemCoord desc e)
    ∀ (i : Instr) (k : AccKind) (op : P0Op),
      (i = .lde sd d sa o z imm ∧ k = kLoad ∧ op = .load sd ∨
        i = .ste sd d sa o z imm ∧ k = kStore ∧ op = .store ((x.reg sd).toNat % 256 ^ z.bytes)) → Issues s sl i →
      (∀ code, desc.refused cap = some code → ∃ f, exec i s = .next (s.faulted sl i f) ∧ f.code = code) ∧
      (desc.refused cap = none →
        (desc.elems ≤ e → ∃ f, exec i s = .next (s.faulted sl i f) ∧ f.code = 0x06) ∧
        (e < desc.elems → z.bytes ≠ desc.bytesPer → ∃ f, exec i s = .next (s.faulted sl i f) ∧ f.code = 0x05) ∧
        (e < desc.elems → z.bytes = desc.bytesPer →
          (∀ f, objAccess s s.curCore sl.part cap off z.bytes z.bytes k = .error f → f.hold = none → ∃ g, exec i s = .next (s.faulted sl i g) ∧ g.code = f.code ∧ g.addr = off ∧
            g.x0 = (elemCoord desc e).x0 ∧ g.xhi = (elemCoord desc e).high) ∧
          (∀ t, objAccess s s.curCore sl.part cap off z.bytes z.bytes k = .ok t →
            ((op.writes = true ∨ Ord2.acquires o.ord = true) → s.homeReset s.curCore sl.part t o.scope = false) →
            s.accRoute sl.part t z.bytes o.scope op.writes ≠ some .down → s.accRoute sl.part t z.bytes o.scope op.writes ≠ some .fenced →
            (op.target = none → sl.posted.length < 16) →
            ∃ u v acc before, exec i s = .next u ∧ u.slot? s.curCore s.curSlot = some v ∧ v.p0 = before ++ [acc] ∧ before.length = sl.p0.length ∧
              before.map (fun b => (b.seq, b.aper, b.addr, b.size)) = sl.p0.map (fun b => (b.seq, b.aper, b.addr, b.size)) ∧ acc.op = op ∧ acc.addr = t.addr ∧
              acc.aper = t.aper ∧ acc.size = z.bytes ∧ acc.seq = sl.seq ∧ v.ctx = sl.pastWord.ctx ∧ sameMemory s u)))

/-- For a running slot's outstanding access whose turn it is, which needs no request or has sent its own less than 2 ms ago, whose translation leases still run, which no gate stops (log entry 77) and whose lease token, if any, the pool holds for current: its bytes that a write changes become the little-endian new value of R157, R160 or R161 and every other byte of every store reads as before; a load or a returning atomic puts the zero-extended old value in its register; the access leaves the slot. Uncorrectable data (but under a plain store) changes no byte and no register and leaves a deferred fault 0x0E. -/
def Obligations.OutstandingAccessesArePerformed : Prop :=
  ∀ (s : State) (c k idx : Nat) (sl : Slot) (a : P0Acc), c ≤ 64 → k ≤ 3 → s.slot? c k = some sl →
    sl.phase = .run → sl.saving = none → sl.breaks = [] → sl.trigAt = none → sl.p0[idx]? = some a → a.req ≠ .held →
    (a.req = .fresh → s.p0Needs sl.part a = false) → a.expired s.tick = false → p0Free sl (s.slotCmds c k) a.seq a.cls a.ord = true →
    (a.aper = .spad ∨ s.tick < a.till) → s.accGate c sl.part a = .pass → s.accStale a = false →
    let loc := a.loc c sl.part
    let old := leNat (s.locBytes loc a.size a.scope)
    let new := a.op.newVal (8 * a.size) old
    let ev := if a.op.target = none then Instr.postedAccessAck c k idx else .loadDataReturn c k idx
    let bad := s.locPoison loc a.size a.scope = true ∧ ∀ d, a.op ≠ .store d
    ∃ u v, exec ev s = .next u ∧ u.slot? c k = some v ∧ v.p0 = sl.p0.filter (fun b => b.seq != a.seq) ∧
      (¬bad → v.deferred = sl.deferred ∧
        v.ctx = (match a.op.target with | some n => sl.ctx.setReg n (BitVec.ofNat 64 old) | none => sl.ctx) ∧
        (a.op.writes = false → sameBytes s u) ∧
        (a.op.writes = true → sameBytesBut a.aper c a.addr a.size s u ∧
          ∀ n, n < a.size → u.byteAt a.aper c (a.addr + n) = BitVec.ofNat 8 (new / 256 ^ n))) ∧
      (bad → v.ctx = sl.ctx ∧ sameBytes s u ∧
        ∃ d, v.deferred = sl.deferred ++ [d] ∧ d.seq = a.seq ∧ d.fault.code = 0x0E ∧ d.fault.addr = a.off)

/-- On operands of w bits ADD is the sum modulo 2^w, AND, OR and XOR are bitwise, SMIN, SMAX, UMIN and UMAX take the lesser or greater by their reading, XCHG is the operand, and ACAS writes its operand only where the old value equals the comparand. FADD, FMIN and FMAX of FP32 give 3.0, 1.0 and 2.0 for 1.0 and 2.0. -/
def Obligations.AtomicOperations : Prop :=
  (∀ w old b : Nat, old < 2 ^ w → b < 2 ^ w →
    aopNew .add w old b = (old + b) % 2 ^ w ∧ aopNew .and w old b = Nat.land old b ∧ aopNew .or w old b = Nat.lor old b ∧
    aopNew .xor w old b = Nat.xor old b ∧ aopNew .umin w old b = min old b ∧ aopNew .umax w old b = max old b ∧ aopNew .xchg w old b = b ∧
    (aopNew .smin w old b = if signedOf w b < signedOf w old then b else old) ∧ (aopNew .smax w old b = if signedOf w old < signedOf w b then b else old) ∧
    ∀ cmp sd, (P0Op.cas b cmp sd).newVal w old = (if old = cmp then b else old)) ∧
  aopNew .fadd 32 0x3F800000 0x40000000 = 0x40400000 ∧ aopNew .fmin 32 0x3F800000 0x40000000 = 0x3F800000 ∧
  aopNew .fmax 32 0x3F800000 0x40000000 = 0x40000000

/-- Where it issues normally, CAPSEL of an index below CAPTN takes the fault that the read of its table entry meets, and else loads the entry's 32 bytes unless it is invalid (0x07), an S entry for a level-U task (0x10) or ill-formed (0x02), and 0x06 at or above CAPTN; CAPNAR clears the rights that b does not have, or moves LO or HI within [LO, HI] (0x06 outside, 0x07 for an invalid capability); CAPINF gives OID, LO, HI, the attributes or TTP; CAPCLR gives the null capability. Nothing else changes but the slot's place, and for CAPSEL what the walk of its read leaves in the caches. -/
def Obligations.CapabilityInstructions : Prop :=
  ∀ (s : State) (sl : Slot) (cd ca sa sb sd imm : Nat),
    let x := sl.ctx
    let put := fun (v : Cap) => Host.Outcome.next (ρ := Refusal) (φ := Fault) (s.putSlot ({ sl with ctx := x.setCap cd v } : Slot).pastWord)
    let n := ((x.reg sa).toNat + imm) % 4294967296
    let q := s.part sl.part
    let cap := x.cap ca
    let b := x.reg sb
    (∀ r, Issues s sl (.capsel cd sa imm) → p0Free sl s.cmdsHere sl.seq 0 .acq = true →
      (bits q.captn 16 0 ≤ n → exec (.capsel cd sa imm) s = .next (s.trapped sl (.capsel cd sa imm) 0x06)) ∧
      (n < bits q.captn 16 0 → s.gread s.curCore sl.part 2 (bits q.captb 47 12 * 4096 + 32 * n) 32 = r →
        (∀ f, r = .error f → f.hold = none → exec (.capsel cd sa imm) s = .next (s.faulted sl (.capsel cd sa imm) { f with addr := x.pc })) ∧
        ∀ bs ns, r = .ok (bs, ns) →
        let v := Cap.ofBytes bs
        (v.valid = false → exec (.capsel cd sa imm) s = .next (s.trapped sl (.capsel cd sa imm) 0x07)) ∧
        (v.valid = true → v.sbit = true → slotLevel s.curCore sl = .u → exec (.capsel cd sa imm) s = .next (s.trapped sl (.capsel cd sa imm) 0x10)) ∧
        (v.valid = true → (v.sbit = false ∨ slotLevel s.curCore sl ≠ .u) → v.formed = false →
          exec (.capsel cd sa imm) s = .next (s.trapped sl (.capsel cd sa imm) 0x02)) ∧
        (v.valid = true → (v.sbit = false ∨ slotLevel s.curCore sl ≠ .u) → v.formed = true → exec (.capsel cd sa imm) s =
          .next ((s.keepNotes s.curCore sl.part ns).putSlot ({ sl with ctx := x.setCap cd v } : Slot).pastWord)))) ∧
    (∀ form, Issues s sl (.capnar cd ca sb form) → cap.valid = false →
      exec (.capnar cd ca sb form) s = .next (s.trapped sl (.capnar cd ca sb form) 0x07)) ∧
    (Issues s sl (.capnar cd ca sb .rights) → cap.valid = true → ∃ v, exec (.capnar cd ca sb .rights) s = put v ∧
      v = { cap with w0 := v.w0 } ∧ ∀ m, m < 64 → v.w0.getLsbD m = (cap.w0.getLsbD m && (!(decide (58 ≤ m) && decide (m ≤ 61)) || b.getLsbD (m - 58)))) ∧
    (∀ form, Issues s sl (.capnar cd ca sb form) → form ≠ .rights → cap.valid = true → (b.toNat < cap.lo ∨ cap.hi < b.toNat) →
      exec (.capnar cd ca sb form) s = .next (s.trapped sl (.capnar cd ca sb form) 0x06)) ∧
    (Issues s sl (.capnar cd ca sb .lo) → cap.valid = true → cap.lo ≤ b.toNat → b.toNat ≤ cap.hi → exec (.capnar cd ca sb .lo) s = put { cap with w1 := b }) ∧
    (Issues s sl (.capnar cd ca sb .hi) → cap.valid = true → cap.lo ≤ b.toNat → b.toNat ≤ cap.hi → exec (.capnar cd ca sb .hi) s = put { cap with w2 := b }) ∧
    (∀ item, Issues s sl (.capinf sd ca item) → exec (.capinf sd ca item) s = .next (s.putSlot (sl.wrote sd (match item with
      | .oid => BitVec.ofNat 64 (bits cap.w0 47 0) | .lo => BitVec.ofNat 64 (bits cap.w1 47 0) | .hi => BitVec.ofNat 64 (bits cap.w2 47 0)
      | .attr => BitVec.ofNat 64 (bits cap.w0 63 52) | .ttp => BitVec.ofNat 64 (bits cap.w3 47 6 * 64))))) ∧
    (Issues s sl (.capclr cd) → exec (.capclr cd) s = put {})

/-- Where it issues normally, TDSET of a field whose value R167 allows gives a descriptor that reads back that value and keeps every other field and its binding, W0 setting bits [21:0] and [28:24]; a value that R167 refuses raises 0x02. TDGET returns the field. TDCAP of a valid capability sets the bound bit, CIDX and TTP and keeps the rest, and raises 0x07 for an invalid one. Nothing else changes but the slot's place. -/
def Obligations.DescriptorInstructions : Prop :=
  ∀ (s : State) (sl : Slot) (dd ca sa sd : Nat) (f : TdField),
    let x := sl.ctx
    let d := x.desc dd
    let a := x.reg sa
    let n := a.toNat
    let put := fun (v : Desc) => Host.Outcome.next (ρ := Refusal) (φ := Fault) (s.putSlot ({ sl with ctx := x.setDesc dd v } : Slot).pastWord)
    let single := [TdField.handle, .fmt, .layout, .rank, .e0, .e1, .e2, .e3, .base]
    let ok := match f with
      | .handle => n < 65536
      | .fmt => n < 64 ∧ tagLegal s.feature (n % 32) (n.testBit 5) = true
      | .layout => n < 5
      | .rank => 1 ≤ n ∧ n ≤ 4
      | .e0 => 1 ≤ n ∧ n < 4294967296
      | .e1 => 1 ≤ n ∧ n < 4294967296
      | .e2 => 1 ≤ n ∧ n < 4294967296
      | .e3 => 1 ≤ n ∧ n < 4294967296
      | .base => n < 1099511627776
      | .w0 => bits a 23 22 = 0 ∧ bits a 26 24 < 5 ∧ tagLegal s.feature (bits a 20 16) (a.getLsbD 21) = true
      | .w1 => bits a 31 0 ≠ 0 ∧ bits a 63 32 ≠ 0
      | .w2 => bits a 31 0 ≠ 0 ∧ bits a 63 32 ≠ 0
      | .ttp => False
    (Issues s sl (.tdset dd sa f) → ¬ok → exec (.tdset dd sa f) s = .next (s.trapped sl (.tdset dd sa f) 0x02)) ∧
    (Issues s sl (.tdset dd sa f) → ok → ∃ v, exec (.tdset dd sa f) s = put v ∧ v.w4 = d.w4 ∧ v.bound = d.bound ∧ v.cidx = d.cidx ∧
      (f ≠ .w0 → v.get f = a) ∧ (f ∈ single → ∀ g ∈ single, g ≠ f → v.get g = d.get g) ∧
      (f = .w0 → v = { d with w0 := v.w0 } ∧ ∀ m, m < 64 → v.w0.getLsbD m = (if m < 22 ∨ (24 ≤ m ∧ m ≤ 28) then a.getLsbD m else d.w0.getLsbD m)) ∧
      (f = .w1 → v = { d with w1 := a }) ∧ (f = .w2 → v = { d with w2 := a })) ∧
    (Issues s sl (.tdget sd dd f) → exec (.tdget sd dd f) s = .next (s.putSlot (sl.wrote sd (match f with
      | .handle => BitVec.ofNat 64 (bits d.w0 15 0) | .fmt => BitVec.ofNat 64 (bits d.w0 21 16) | .layout => BitVec.ofNat 64 (bits d.w0 26 24)
      | .rank => BitVec.ofNat 64 (bits d.w0 28 27 + 1) | .e0 => BitVec.ofNat 64 (bits d.w1 31 0) | .e1 => BitVec.ofNat 64 (bits d.w1 63 32)
      | .e2 => BitVec.ofNat 64 (bits d.w2 31 0) | .e3 => BitVec.ofNat 64 (bits d.w2 63 32) | .base => BitVec.ofNat 64 (bits d.w3 39 0)
      | .w0 => d.w0 | .w1 => d.w1 | .w2 => d.w2 | .ttp => BitVec.ofNat 64 (bits d.w4 47 6 * 64))))) ∧
    (Issues s sl (.tdcap dd ca) → (x.cap ca).valid = false → exec (.tdcap dd ca) s = .next (s.trapped sl (.tdcap dd ca) 0x07)) ∧
    (ca < 16 → Issues s sl (.tdcap dd ca) → (x.cap ca).valid = true → ∃ v, exec (.tdcap dd ca) s = put v ∧ v.bound = true ∧ v.cidx = ca ∧
      v.ttp = (x.cap ca).ttp ∧ v.w1 = d.w1 ∧ v.w2 = d.w2 ∧ v.w3 = d.w3 ∧ bits v.w0 31 0 = bits d.w0 31 0)

/-- Where it issues normally: FENCE with fewer than 8 FENCEs from the oldest unsatisfied one on goes on, the slot keeping those and itself until the oldest is met, and otherwise waits for the oldest; FENCEM puts one marker at the end of each named queue that has room, or raises 0x0F where a LOOPP segment's reserve is spent, or waits; JOINM goes on once no marker is queued; WAITC goes on once the loads, stores, copies and tile operations outstanding are within its bounds. JOINM and WAITC raise 0x0F rather than wait for the segment under way. None changes a byte. -/
def Obligations.FencesMarkersAndWaits : Prop :=
  ∀ (s : State) (sl : Slot) (n scope classes a b c d : Nat),
    let here := fun (u : State) => u.slot? s.curCore s.curSlot
    let unmet := sl.fences.dropWhile (fun f => fenceMet sl s.cmdsHere f)
    let fn : FenceRec := { seq := sl.seq, paths := n, scope := scope, classes := classes, word := encode (.fence n scope classes) }
    let engines := ([(0, Eng.vl), (1, .va), (2, .vs), (3, .mx), (4, .xf)].filter (fun p => n.testBit p.1)).map (fun p => p.2)
    let within := fun (m : Cmd) => sl.ctx.pipe.any (fun p => m.inPipe && m.seg == p.iter)
    let marks := s.cmdsHere.filter (fun m => m.marker && !m.preMark)
    let bounds := [(0, a), (1, b), (2, c), (3, d)]
    (Issues s sl (.fence n scope classes) → unmet.length < 8 → ∃ u v, exec (.fence n scope classes) s = .next u ∧ here u = some v ∧
      v.fences = (unmet ++ [fn]).dropWhile (fun f => fenceMet sl s.cmdsHere f) ∧ v.ctx = sl.pastWord.ctx ∧ v.p0 = sl.p0 ∧ sameOutside s.curCore s u ∧
      sameCoreBut s.curCore s.curSlot s u) ∧
    (Issues s sl (.fence n scope classes) → 8 ≤ unmet.length → ∃ u v, exec (.fence n scope classes) s = .next u ∧ here u = some v ∧
      v.ctx = sl.ctx ∧ v.stalled = true ∧ v.fences = unmet) ∧
    (Issues s sl (.fencem n) → engines.any (segmentFull sl.ctx) = true → exec (.fencem n) s = .next (s.trapped sl (.fencem n) 0x0F)) ∧
    (Issues s sl (.fencem n) → engines.any (segmentFull sl.ctx) = false → engines.all (s.pushOk s.curCore s.curSlot) = false →
      exec (.fencem n) s = .next s.waiting) ∧
    (Issues s sl (.fencem n) → engines.any (segmentFull sl.ctx) = false → engines.all (s.pushOk s.curCore s.curSlot) = true →
      ∃ u v ms, exec (.fencem n) s = .next u ∧ here u = some v ∧ (u.core s.curCore).cmds = (s.core s.curCore).cmds ++ ms ∧
        ms.map (fun m => m.eng) = engines ∧ (∀ m ∈ ms, m.marker = true ∧ m.slot = s.curSlot ∧ m.seq = sl.seq) ∧
        (sl.ctx.pipe = none → v = sl.pastWord) ∧ sameOutside s.curCore s u) ∧
    (Issues s sl .joinm → (marks = [] → exec .joinm s = .next (s.putSlot sl.pastWord)) ∧
      (marks ≠ [] → marks.any within = true → exec .joinm s = .next (s.trapped sl .joinm 0x0F)) ∧
      (marks ≠ [] → marks.any within = false → exec .joinm s = .next s.waiting)) ∧
    (Issues s sl (.waitc a b c d) →
      let tooMany := bounds.any (fun q => decide (q.2 < s.cmdsHere.countP (fun m => waitKind m == some q.1 && within m)))
      let met := bounds.all (fun q => decide (s.cmdsHere.countP (fun m => waitKind m == some q.1) + waitP0 sl q.1 ≤ q.2))
      (tooMany = true → exec (.waitc a b c d) s = .next (s.trapped sl (.waitc a b c d) 0x0F)) ∧
      (tooMany = false → met = true → exec (.waitc a b c d) s = .next (s.putSlot sl.pastWord)) ∧
      (tooMany = false → met = false → exec (.waitc a b c d) s = .next s.waiting))

/-- Where WAITA issues normally, no earlier access is in local order before its read, its checks or window bounds pass, and its read meets no gate, no route that is not there, no other request for its line and no uncorrectable data, it goes on when the low bytes of sd are at most the word, and else waits with its context unchanged. A check that refuses the read is taken as a fault, and a walk that waits for a route stalls (log entry 8); beyond the window it is 0x06. A marker first of its slot in an engine's queue leaves it, and a slot that waits at a WAITA becomes ready again. No byte changes. -/
def Obligations.WaitaAndOrderingEvents : Prop :=
  (∀ (s : State) (sl : Slot) (sd c sa : Nat) (o : AccOrd) (z : Size) (sp : ASpace) (imm : Int) (t : Target),
    let i := Instr.waita sd c sa o z sp imm
    let off := (sl.ctx.reg sa + BitVec.ofInt 64 imm).toNat
    let base := off - off % z.bytes
    let scope := if sp = .spad then min o.scope 1 else o.scope
    let loc := t.loc s.curCore sl.part
    Issues s sl i → p0Free sl s.cmdsHere sl.seq o.cls .acq = true →
    ((sp = .object ∧ objAccess s s.curCore sl.part (sl.ctx.cap c) off z.bytes z.bytes kLoad = .ok t) ∨
      (sp = .spad ∧ base + z.bytes ≤ sl.winSize ∧ t = { aper := .spad, addr := sl.winBase + base }) →
      s.gateAt s.curCore sl.part t.aper t.addr scope = .pass →
      (∀ q, s.accRoute sl.part t z.bytes scope false = some q → ∃ n, q = .sent n ∧
        s.lineBusy (if t.aper = .peer then some (leafPeer t.leaf) else none, t.addr / 128) n = false) → s.locPoison loc z.bytes scope = false →
      let word := leNat (s.locBytes loc z.bytes scope)
      ∃ u v, exec i s = .next u ∧ u.slot? s.curCore s.curSlot = some v ∧ sameBytes s u ∧
        v = (if (sl.ctx.reg sd).toNat % 256 ^ z.bytes ≤ word then sl.pastWord else { sl with stalled := true })) ∧
    (∀ f, sp = .object → objAccess s s.curCore sl.part (sl.ctx.cap c) off z.bytes z.bytes kLoad = .error f → f.hold = none → exec i s = .next (s.faulted sl i f)) ∧
    (∀ f, sp = .object → objAccess s s.curCore sl.part (sl.ctx.cap c) off z.bytes z.bytes kLoad = .error f → f.hold = some .conduit →
      exec i s = .next (s.modSlot s.curCore s.curSlot (fun v => { v with stalled := true, heldAt := none }))) ∧
    (sp = .spad → sl.winSize < base + z.bytes → exec i s = .next (s.faulted sl i { code := 0x06, addr := off }))) ∧
  (∀ (s : State) (c k : Nat) (sl : Slot), c ≤ 64 → k ≤ 3 → s.slot? c k = some sl →
    (∀ e m, (s.core c).cmds.find? (fun x => x.slot == k && x.eng == e) = some m → m.marker = true → sl.saving = none → sl.phase = .run →
      sl.trigAt = none → ∃ u v, exec (.markerRetire c k e) s = .next u ∧ u.slot? c k = some v ∧ v.p0 = sl.p0 ∧ sameBytes s u ∧
        (u.core c).cmds = (s.core c).cmds.filter (fun x => !(x.slot == m.slot && x.seq == m.seq && x.eng == m.eng && x.preMark == m.preMark))) ∧
    (sl.stalled = true → s.atWaita c sl = true →
      exec (.waitaRepoll c k) s = .next (s.setSlot c k { sl with stalled := false })))

/-- Where it issues normally, TOKP with fewer than 8 tokens of its slot pending, a free entry and no other request before it on the sluice goes on, its token pending; without a free entry or with 8 pending it waits; TOKG gives the head token of the sluice and waits on an empty one, and TOKN gives it with bit 16 set, or 0; the token leaves that sluice and no other changes. A pending token is due once every command and P0 access before its TOKP is done; the first pending token of the slot whose condition was met first enters at the tail of its sluice, and the first request of a sluice with a free entry is granted. -/
def Obligations.SluiceTokens : Prop :=
  ∀ (s : State) (sl : Slot) (n sa sd : Nat),
    let co := s.core s.curCore
    let here := fun (u : State) => u.slot? s.curCore s.curSlot
    let others := fun (u : State) (c : Nat) => ∀ m, m ≠ n → (u.core c).tokens m = (s.core c).tokens m
    let me : SluiceReq := { sluice := n, slot := s.curSlot, seq := sl.seq }
    let first := fun (q : Core) => q.sluiceRq.find? (fun r => r.sluice == n)
    let shape := fun (t : TokpRec) => (t.seq, t.sluice, t.value, t.reserved, t.word)
    let room := fun (q : Core) => (q.tokens n).length + q.reserved n < 32
    (Issues s sl (.tokp n sa) → (first co = none ∨ first co = some me) → sl.tokps.length < 8 → room co → ∃ u v t before, exec (.tokp n sa) s = .next u ∧
      here u = some v ∧ v.tokps = before ++ [t] ∧ before.map shape = sl.tokps.map shape ∧ t.sluice = n ∧ t.value = (sl.ctx.reg sa).toNat % 65536 ∧ t.reserved = true ∧ v.ctx = sl.pastWord.ctx ∧
      (u.core s.curCore).sluices = co.sluices ∧ sameOutside s.curCore s u) ∧
    (Issues s sl (.tokp n sa) → 8 ≤ sl.tokps.length → exec (.tokp n sa) s = .next s.waiting) ∧
    (Issues s sl (.tokp n sa) → sl.tokps.length < 8 → ¬room co → ∃ u v, exec (.tokp n sa) s = .next u ∧ here u = some v ∧ v = { sl with stalled := true } ∧
      me ∈ (u.core s.curCore).sluiceRq ∧ (u.core s.curCore).sluices = co.sluices) ∧
    (∀ w rest, co.tokens n = w :: rest →
      (Issues s sl (.tokg sd n) → ∃ u, exec (.tokg sd n) s = .next u ∧ here u = some (sl.wrote sd (BitVec.ofNat 64 w)) ∧
        (u.core s.curCore).tokens n = rest ∧ others u s.curCore ∧ sameOutside s.curCore s u) ∧
      (Issues s sl (.tokn sd n) → ∃ u, exec (.tokn sd n) s = .next u ∧ here u = some (sl.wrote sd (BitVec.ofNat 64 (65536 + w))) ∧
        (u.core s.curCore).tokens n = rest ∧ others u s.curCore ∧ sameOutside s.curCore s u)) ∧
    (co.tokens n = [] → (Issues s sl (.tokg sd n) → exec (.tokg sd n) s = .next s.waiting) ∧
      (Issues s sl (.tokn sd n) → exec (.tokn sd n) s = .next (s.putSlot (sl.wrote sd 0)))) ∧
    (∀ c k x, s.slot? c k = some x → ∃ v, (s.markTokens c k).slot? c k = some v ∧ v.tokps = x.tokps.map (fun t =>
      if t.met = none ∧ (∀ m ∈ s.slotCmds c k, m.marker = true ∨ t.seq ≤ m.seq) ∧ (∀ a ∈ x.p0, t.seq ≤ a.seq) ∧
        (∀ d ∈ x.deferred, d.redo = none ∨ t.seq ≤ d.seq) then { t with met := some s.clock } else t)) ∧
    (∀ c k x t rest w, c ≤ 64 → k ≤ 3 → s.slot? c k = some x → x.tokps = t :: rest → t.sluice = n → t.reserved = true → t.met = some w →
      (∀ ks ∈ (s.core c).slots, ks = (k, x) ∨ ∀ q, ks.2.tokps.head? = some q → q.reserved = true → ∀ w', q.met = some w' → w < w') →
      ∃ u, exec (.tokenEntry c k) s = .next u ∧ (u.core c).tokens n = (s.core c).tokens n ++ [t.value] ∧ others u c ∧
        u.slot? c k = some { x with tokps := rest }) ∧
    (∀ c x r, c ≤ 64 → n ≤ 15 → first (s.core c) = some r → s.slot? c r.slot = some x → room (s.core c) →
      ∃ u v, exec (.sluiceReservationGrant c n) s = .next u ∧ u.slot? c r.slot = some v ∧ v.stalled = false ∧ v.ctx = x.ctx ∧
        (∀ t ∈ x.tokps, t.seq = r.seq → { t with reserved := true } ∈ v.tokps ∧ r ∉ (u.core c).sluiceRq))

/-- Where it issues normally, each of PREF, HINT, the VL and VS row accesses, the VA instructions, MMA, MMAS, MMAL, MMAZ and the XF instructions but BCAN puts one command behind the others of its core, for its engine, slot, issue number and word, at step 0, with the values of its scalar operands, FMTMODE and SPTAG as they are at issue; the slot keeps its registers and moves on. Without room the slot waits; where a LOOPP reserve, a queue balance or an unknown tag forbids the push it takes 0x0F. -/
def Obligations.EngineInstructionsArePushed : Prop :=
  ∀ (s : State) (sl : Slot) (i : Instr) (e : Eng), i.pushedTo = some e → Issues s sl i →
    let x := sl.ctx
    let forbidden := segmentFull x e = true ∨ balanceBad x i = true ∨ tagUnknown i x = true
    (forbidden → exec i s = .next (s.trapped sl i 0x0F)) ∧
    (¬forbidden → s.pushOk s.curCore s.curSlot e = false → exec i s = .next s.waiting) ∧
    (¬forbidden → s.pushOk s.curCore s.curSlot e = true → ∃ m v, exec i s = .next ((s.addCmd s.curCore m).putSlot v) ∧
      m.eng = e ∧ m.slot = s.curSlot ∧ m.seq = sl.seq ∧ m.instr = i ∧ m.word = encode i ∧ m.pc = x.pc ∧ m.mpc = 0 ∧ m.marker = false ∧
      m.va = x.reg i.capt.1 ∧ m.vb = x.reg i.capt.2.1 ∧ m.vc = x.reg i.capt.2.2.1 ∧ m.vf = x.reg i.capt.2.2.2 ∧ m.bval = x.reg i.bus ∧
      m.fmtmode = x.fmtmode ∧ m.sptag = x.sptag ∧ (∀ d, i.descReg? = some d → m.desc = x.desc d ∧ m.cap = x.cap (x.desc d).cidx) ∧
      v.seq = sl.seq + 1 ∧ v.p0 = sl.p0 ∧ v.ctx.regs = x.regs ∧ v.ctx.caps = x.caps ∧ v.ctx.descs = x.descs ∧ v.ctx.kreg = x.kreg ∧
      v.ctx.preds = x.preds ∧ v.ctx.queues = x.queues ∧ v.ctx.fmtmode = x.fmtmode ∧ v.ctx.sptag = x.sptag ∧
      (x.pipe = none → x.loops = [] → x.delay = none → v.ctx.pc = x.pc + 8))

/-- Where it issues normally and its VA entry can be pushed, TTAG gives the tile the tag and scaled bit and leaves every other tile's; FMTM gives FMTMODE the bits of sa under the mask, and raises 0x02 where that would set a reserved bit or a rounding mode that does not exist. TTGET writes the tile's scaled bit above its five tag bits to sd. Tiles keep their cells. -/
def Obligations.TagAndModeInstructions : Prop :=
  ∀ (s : State) (sl : Slot) (tile sa sd mask : Nat) (f : Fmt) (sc : Bool),
    let x := sl.ctx
    let room := segmentFull x .va = false ∧ x.bal = [] ∧ s.pushOk s.curCore s.curSlot .va = true
    let merged := Nat.lor (Nat.land x.fmtmode (255 - mask % 256)) (Nat.land (x.reg sa).toNat (mask % 256))
    let refused := Nat.land (Nat.land (x.reg sa).toNat mask) 14 ≠ 0 ∨ rndLegal s.feature (merged / 16 % 8) = false
    (Issues s sl (.ttag tile f sc) → room → ∃ m v, exec (.ttag tile f sc) s = .next ((s.addCmd s.curCore m).putSlot v) ∧
      m.eng = .va ∧ m.instr = .ttag tile f sc ∧ v.ctx.tag tile = ⟨f.tag, sc⟩ ∧ (∀ t, t ≠ tile → v.ctx.tag t = x.tag t) ∧ v.ctx.regs = x.regs) ∧
    (Issues s sl (.fmtm sa mask) → refused → exec (.fmtm sa mask) s = .next (s.trapped sl (.fmtm sa mask) 0x02)) ∧
    (Issues s sl (.fmtm sa mask) → ¬refused → room → ∃ m v, exec (.fmtm sa mask) s = .next ((s.addCmd s.curCore m).putSlot v) ∧
      m.eng = .va ∧ m.instr = .fmtm sa mask ∧ v.ctx.fmtmode = merged ∧ v.ctx.tags = x.tags ∧ v.ctx.regs = x.regs) ∧
    (Issues s sl (.ttget sd tile) → exec (.ttget sd tile) s =
      .next (s.putSlot (sl.wrote sd (BitVec.ofNat 64 ((x.tag tile).code + 32 * (if (x.tag tile).scaled = true then 1 else 0))))))

/-- When the first VA command of a slot is ready and VA has started it or starts it next, VA_STEP takes the fault of its sources if one is refused; otherwise, in a running slot, it writes each of its rows under the mask of active bytes, at the end of its queue with zeros where the mask is 0, or its predicate, leaves every other tile cell, every register and every byte of memory as it was, and the command is at its next step, or has left the queue after its last. A slot whose first command is not ready, or is not the one that VA starts, changes nothing. -/
def Obligations.VaStepsWriteTheirResult : Prop :=
  ∀ (s : State) (c k : Nat) (sl : Slot), c ≤ 64 → k ≤ 3 → s.slot? c k = some sl →
    ((∀ m, s.head? c k .va = some m → s.cmdReady c sl m = false ∨ s.mayStart c m = false) → exec (.vaStep c k) s = .next s) ∧
    (∀ m src, s.head? c k .va = some m → s.cmdReady c sl m = true → s.mayStart c m = true →
      let n : Cmd := { m with started := true }
      stepSources n (s.core c) sl.ctx n.per n.mpc = some src →
      (∀ code, vaResult n sl.ctx src = .error code → ∃ f, exec (.vaStep c k) s = .next (s.raiseFault c k f) ∧ f.code = code ∧ f.word = m.word ∧ f.pc = m.pc) ∧
      (∀ o, vaResult n sl.ctx src = .ok o → sl.phase = .run → sl.breaks = [] → sl.trigAt = none →
        ∃ u v, exec (.vaStep c k) s = .next u ∧ u.slot? c k = some v ∧ sameBytes s u ∧ v.ctx.regs = sl.ctx.regs ∧ v.ctx.pc = sl.ctx.pc ∧
          (m.instr.steps ≤ m.mpc + 1 → ∀ y ∈ (u.core c).cmds, y.slot = k → y.eng = .va → y.preMark = m.preMark → y.seq ≠ m.seq) ∧
          (m.mpc + 1 < m.instr.steps → ∃ y ∈ (u.core c).cmds, y.seq = m.seq ∧ y.eng = .va ∧ y.slot = k ∧ y.mpc = m.mpc + 1) ∧
          (∀ p, m.instr.outs = [p] → (p.at m.mpc).length = o.rows.length → o.scale = [] → (∀ q ∈ p.at m.mpc, (opCells q).Nodup ∧ (opCells q).length = 32) →
            (p.at m.mpc).Pairwise (fun a b => ∀ n ∈ opCells a, n ∉ opCells b) → (∀ j, p.op ≠ .q j) →
            (∀ qr ∈ (p.at m.mpc).zip o.rows, (u.core c).row qr.1 = mergeBytes o.mask qr.2 ((s.core c).row qr.1)) ∧
            ∀ n, (∀ q ∈ p.at m.mpc, n ∉ opCells q) → mget 0 (u.core c).cells n = mget 0 (s.core c).cells n) ∧
          (∀ p j, m.instr.outs = [p] → p.op = .q j → o.scale = [] → o.pred = none →
            v.ctx.queue j = (popQueues n sl.ctx).queue j ++ o.rows.map (fun r => ⟨mergeBytes o.mask r 0, m.outTag⟩) ∧ (u.core c).cells = (s.core c).cells) ∧
          (∀ w p, m.instr.outs = [] → o.pred = some w → m.instr.predOut = [p] → p ≠ 0 →
            v.ctx.pred p = w ∧ (∀ n, n ≠ p → v.ctx.pred n = sl.ctx.pred n) ∧ (o.scale = [] → (u.core c).cells = (s.core c).cells))))

/-- On rows a and b that carry the tag the entry expects, wrapping VIADD, VISUB and VIMUL give element by element the result modulo 2^32, with .sat the exact signed result clamped to the range of INT32 and with .satu the exact unsigned one to that of UINT32, VIMIN and VIMAX the lesser and greater, VAND, VOR and VXOR act on all 1,024 bits, VSHL, VSHR and VSRA shift by the low byte of b's element (32 or more shifts everything out, and VSRA leaves copies of the sign bit), VICMP sets the four bits of each active element for which its condition holds, the P instructions act on the 128 bits of predicates, VMOV copies, VBCST repeats the element that its value names modulo their number, VSEL takes active bytes from a and the others from b, VPERM picks cells, VRMG takes 128 bytes across the two rows, and VIDX counts from its base. -/
def Obligations.VectorIntegerAndMoveResults : Prop :=
  ∀ (m : Cmd) (x : Ctx) (a b : Row) (dst oa ob : WOp) (sN pN rep : Nat) (t : Tag),
    let rows := fun (t : Tag) => [[Src.row a t false], [Src.row b t false]]
    let gives := fun (i : Instr) (t : Tag) (p : Nat → Row → Prop) =>
      ∃ o r, vaResult { m with instr := i, tagA := t } x (rows t) = .ok o ∧ o.rows = [r] ∧ p 0 r
    let each := fun (f : Nat → Nat → Nat) => fun (_ : Nat) (r : Row) => ∀ j, j < 32 → elemOf r 32 j = f (elemOf a 32 j) (elemOf b 32 j)
    let tags := fun u : Bool => if u then tagU32 else tagI32
    let clamp := fun (lo hi z : Int) => (max lo (min hi z) % 4294967296).toNat
    let unsignedCond := fun (cond : Cond) => cond == .ltu || cond == .geu || cond == .leu || cond == .gtu
    let holds := fun (cond : Cond) (y z : Nat) => match cond with
      | .eq => y == z
      | .ne => y != z
      | .lt => decide (signedOf 32 y < signedOf 32 z)
      | .ge => decide (signedOf 32 z ≤ signedOf 32 y)
      | .le => decide (signedOf 32 y ≤ signedOf 32 z)
      | .gt => decide (signedOf 32 z < signedOf 32 y)
      | .ltu => decide (y < z)
      | .geu => decide (z ≤ y)
      | .leu => decide (y ≤ z)
      | .gtu => decide (z < y)
      | .tst => Nat.land y z != 0
      | .ntst => Nat.land y z == 0
    let less := fun (u : Bool) (y z : Nat) => if u then decide (y < z) else decide (signedOf 32 y < signedOf 32 z)
    gives (.viadd dst oa ob sN pN rep .wrap) tagI32 (each (fun y z => (y + z) % 4294967296)) ∧
    gives (.visub dst oa ob sN pN rep .wrap) tagI32 (each (fun y z => (y + 4294967296 - z) % 4294967296)) ∧
    gives (.vimul dst oa ob sN pN rep .wrap) tagI32 (each (fun y z => y * z % 4294967296)) ∧
    gives (.viadd dst oa ob sN pN rep .sat) tagI32 (each (fun y z => clamp (-2147483648) 2147483647 (signedOf 32 y + signedOf 32 z))) ∧
    gives (.visub dst oa ob sN pN rep .sat) tagI32 (each (fun y z => clamp (-2147483648) 2147483647 (signedOf 32 y - signedOf 32 z))) ∧
    gives (.vimul dst oa ob sN pN rep .sat) tagI32 (each (fun y z => clamp (-2147483648) 2147483647 (signedOf 32 y * signedOf 32 z))) ∧
    gives (.viadd dst oa ob sN pN rep .satu) tagU32 (each (fun y z => clamp 0 4294967295 ((y : Int) + z))) ∧
    gives (.visub dst oa ob sN pN rep .satu) tagU32 (each (fun y z => clamp 0 4294967295 ((y : Int) - z))) ∧
    gives (.vimul dst oa ob sN pN rep .satu) tagU32 (each (fun y z => clamp 0 4294967295 ((y : Int) * z))) ∧
    (∀ (pd : Nat) (cond : Cond), ∃ o, vaResult { m with instr := .vicmp pd cond oa ob sN pN } x (rows (if unsignedCond cond = true then tagU32 else tagI32)) = .ok o ∧
      o.rows = [] ∧ o.pred = some (predOf ((List.range 32).map (fun j => holds cond (elemOf a 32 j) (elemOf b 32 j) && (x.pred pN).getLsbD (4 * j))))) ∧
    (∀ u, gives (.vimin dst oa ob sN pN rep u) (tags u) (each (fun y z => if less u z y = true then z else y)) ∧
      gives (.vimax dst oa ob sN pN rep u) (tags u) (each (fun y z => if less u y z = true then z else y))) ∧
    (∀ u, gives (.vshl dst oa ob sN pN rep) (tags u) (each (fun y z => if 32 ≤ z % 256 then 0 else y * 2 ^ (z % 256) % 4294967296)) ∧
      gives (.vshr dst oa ob sN pN rep) (tags u) (each (fun y z => y / 2 ^ (z % 256))) ∧
      gives (.vsra dst oa ob sN pN rep) (tags u) (each (fun y z => (signedOf 32 y / 2 ^ min (z % 256) 31 % 4294967296).toNat))) ∧
    (t.scaled = false → (tagFmt t.code).isSome = true →
      gives (.vand dst oa ob sN pN rep) t (fun _ r => r = a &&& b) ∧ gives (.vor dst oa ob sN pN rep) t (fun _ r => r = a ||| b) ∧
      gives (.vxor dst oa ob sN pN rep) t (fun _ r => r = a ^^^ b) ∧ gives (.vmov dst oa sN pN rep) t (fun _ r => r = a) ∧
      gives (.vbcst dst oa sN pN rep) t (fun _ r => ∀ j, j < 1024 / t.width → elemOf r t.width j = elemOf a t.width (m.bval.toNat % (1024 / t.width))) ∧
      gives (.vsel dst oa ob sN pN rep) t (fun _ r => r = mergeBytes (byteMask (x.pred pN) t.width) a b) ∧
      gives (.vrmg dst oa ob sN pN rep) t (fun _ r => ∀ n, n < 128 →
        elemOf r 8 n = (if n + m.bval.toNat % 128 < 128 then elemOf a 8 (n + m.bval.toNat % 128) else elemOf b 8 (n + m.bval.toNat % 128 - 128))) ∧
      gives (.vperm dst oa ob pN rep) t (fun _ r => ∀ j, j < 32 → elemOf r 32 j = elemOf a 32 (elemOf b 32 j % 32))) ∧
    gives (.vidx dst sN pN rep) tagI32 (fun _ r => ∀ j, j < 32 → elemOf r 32 j = (m.bval.toNat + 32 * m.mpc + j) % 4294967296) ∧
    (∀ src pd pa pb, (vaResult { m with instr := .pand pd pa pb } x src).map (fun o => o.pred) = .ok (some (x.pred pa &&& x.pred pb)) ∧
      (vaResult { m with instr := .por pd pa pb } x src).map (fun o => o.pred) = .ok (some (x.pred pa ||| x.pred pb)) ∧
      (vaResult { m with instr := .pxor pd pa pb } x src).map (fun o => o.pred) = .ok (some (x.pred pa ^^^ x.pred pb)) ∧
      (vaResult { m with instr := .pnot pd pa } x src).map (fun o => o.pred) = .ok (some (~~~(x.pred pa))) ∧
      (vaResult { m with instr := .pmov pd pa } x src).map (fun o => o.pred) = .ok (some (x.pred pa)))

/-- On FP32 rows VADD, VSUB, VMUL, VFMA, VFMS, VNEG, VABS, VMIN, VMAX, VRCP, VRSQ, VEXP2 and VLOG2 give for each active element the value of the operation on its exact operands, rounded once under FMTMODE (VFMA and VFMS after the exact product), VCMP compares the values into all four bits of its element, and VRED gives the exact sum, least or greatest of the active elements, VSCAN that of the active elements up to each element, and VREDS, which keeps its rows until its last step, that of each active element over its rows; on integer rows the sum is modulo 2^32. VCVT converts the elements scaled by its power of two and fills with zeros, VUNPK widens into two rows, VCVTS takes the scale of each block and converts the scaled elements with saturation, VSCL expands a block by its scale byte (255 gives NaN), VPACK joins halves or quarters, and VQLN rounds the logarithm (how the exponentials and logarithms are computed is log entry 5); a source of another class or scale raises 0x05. -/
def Obligations.VectorFloatingResults : Prop :=
  ∀ (m : Cmd) (x : Ctx) (a b c : Row) (dst oa ob : WOp) (sN pN rep pd : Nat) (cond : FCond) (op : RedOp),
    let src := [[Src.row a tagF32 false], [Src.row b tagF32 false], [Src.row c tagF32 false]]
    let v := fun r : Row => (rowElems r 32).map fp32
    let act := (List.range 32).map (fun j => (x.pred pN).getLsbD (4 * j))
    let rdn := modeRnd m.fmtmode == .rdn
    let gives := fun (i : Instr) (vs : List Ex) => ∃ o, vaResult { m with instr := i, tagA := tagF32 } x src = .ok o ∧
      o.mask = byteMask (x.pred pN) 32 ∧
      o.rows = [elemsRow 32 (flt32.roundRow (modeRnd m.fmtmode) (modeSat m.fmtmode) (List.zipWith (fun w on => if on = true then some w else none) vs act))]
    gives (.vadd dst oa ob sN pN rep) (List.zipWith (Ex.add rdn) (v a) (v b)) ∧
    gives (.vsub dst oa ob sN pN rep) (List.zipWith (fun y z => Ex.add rdn y z.neg) (v a) (v b)) ∧
    gives (.vmul dst oa ob sN pN rep) (List.zipWith Ex.mul (v a) (v b)) ∧
    gives (.vfma dst oa ob sN pN rep) (List.zipWith (Ex.add rdn) (List.zipWith Ex.mul (v a) (v b)) (v c)) ∧
    gives (.vfms dst oa ob sN pN rep) (List.zipWith (fun y z => Ex.add rdn y z.neg) (List.zipWith Ex.mul (v a) (v b)) (v c)) ∧
    gives (.vneg dst oa sN pN rep) ((v a).map Ex.neg) ∧ gives (.vabs dst oa sN pN rep) ((v a).map Ex.abs) ∧
    gives (.vmin dst oa ob sN pN rep) (List.zipWith Ex.min (v a) (v b)) ∧ gives (.vmax dst oa ob sN pN rep) (List.zipWith Ex.max (v a) (v b)) ∧
    gives (.vrcp dst oa sN pN rep) ((v a).map Ex.rcp) ∧ gives (.vrsq dst oa sN pN rep) ((v a).map Ex.rsq) ∧
    gives (.vexp2 dst oa sN pN rep) ((v a).map Ex.exp2) ∧ gives (.vlog2 dst oa sN pN rep) ((v a).map Ex.log2) ∧
    (∃ o, vaResult { m with instr := .vcmp pd cond oa ob sN pN, tagA := tagF32 } x src = .ok o ∧ o.rows = [] ∧
      o.pred = some (predOf (List.zipWith (fun y on => y && on) (List.zipWith cond.holds (v a) (v b)) act))) ∧
    (∃ o, vaResult { m with instr := .vred dst oa pN rep op, tagA := tagF32 } x src = .ok o ∧
      o.rows = [elemsRow 32 (flt32.roundRow (modeRnd m.fmtmode) (modeSat m.fmtmode)
        [some (redFp op rdn ((chosen act (rowElems a 32)).map fp32))])]) ∧
    (let on := fun (p : Nat) (i : Nat) => (x.pred p).getLsbD i
     let upTo := fun (r : Row) (j : Nat) => ((List.range (j + 1)).filter (fun i => on pN (4 * i))).map (fun i => elemOf r 32 i)
     let column := fun (rs : List Row) (j : Nat) => if on pN (4 * j) = true then rs.map (fun r => elemOf r 32 j) else []
     let fpOf := fun (ls : List (List Nat)) => elemsRow 32 (flt32.roundRow (modeRnd m.fmtmode) (modeSat m.fmtmode) (ls.map (fun l => some (redFp op rdn (l.map fp32)))))
     let intOf := fun (u : Bool) (ls : List (List Nat)) => elemsRow 32 (ls.map (redInt op u))
     let run := fun (i : Instr) (t : Tag) (src : List (List Src)) => vaResult { m with instr := i, tagA := t } x src
     let one := fun (r : Row) (t : Tag) => [[Src.row r t false]]
     let itag := fun (u : Bool) => if u = true then tagU32 else tagI32
     let value := fun (f : Fmt) (r : Row) (i : Nat) => f.value (elemOf r f.width i)
     (∀ u, ∃ o, run (.vred dst oa pN rep op) (itag u) (one a (itag u)) = .ok o ∧ o.rows = [intOf u [chosen act (rowElems a 32)]]) ∧
     (∃ o, run (.vscan dst oa pN rep op) tagF32 (one a tagF32) = .ok o ∧ o.rows = [fpOf ((List.range 32).map (upTo a))]) ∧
     (∀ u, ∃ o, run (.vscan dst oa pN rep op) (itag u) (one a (itag u)) = .ok o ∧ o.rows = [intOf u ((List.range 32).map (upTo a))]) ∧
     (m.mpc < rep → ∃ o, run (.vreds dst oa pN rep op) tagF32 (one a tagF32) = .ok o ∧ o.rows = [] ∧ o.keep = m.rows ++ [a]) ∧
     (rep ≤ m.mpc → (∃ o, run (.vreds dst oa pN rep op) tagF32 (one a tagF32) = .ok o ∧ o.rows = [fpOf ((List.range 32).map (column (m.rows ++ [a])))]) ∧
       ∀ u, ∃ o, run (.vreds dst oa pN rep op) (itag u) (one a (itag u)) = .ok o ∧ o.rows = [intOf u ((List.range 32).map (column (m.rows ++ [a])))]) ∧
     (∀ (f : Fmt) (t : Tag) (cw : CvtWord), tagFmt t.code = some f → t.scaled = false →
       let df := cw.target
       let conv := fun (sat : Bool) (vs : Nat → Option Ex) => elemsRow df.width (df.convRow cw.rnd sat f.isInt ((List.range df.count).map vs))
       let live := fun (i : Nat) => on pN (df.width / 8 * i)
       let wide := f = .fp32 ∨ f = .fp16 ∨ f = .bf16
       (∃ o, run (.vcvt dst oa cw sN pN rep) t (one a t) = .ok o ∧ o.mask = byteMask (x.pred pN) df.width ∧
         o.rows = [conv cw.sat (fun i => if live i = true ∧ i < f.count then some ((value f a i).scale (signedOf 8 (m.bval.toNat % 256))) else none)]) ∧
       (df.width = 2 * f.width → ∃ o, run (.vunpk dst oa cw pN rep) t (one a t) = .ok o ∧ o.mask = byteMask (x.pred pN) df.width ∧
         o.rows = [elemsRow df.width (df.convRow cw.rnd cw.sat f.isInt (((List.range df.count).map (value f a)).zipIdx.map (fun vi => if live vi.2 = true then some vi.1 else none))),
           elemsRow df.width (df.convRow cw.rnd cw.sat f.isInt (((List.range df.count).map (fun i => value f a (df.count + i))).zipIdx.map (fun vi => if live vi.2 = true then some vi.1 else none)))]) ∧
       (df.width ≠ 2 * f.width → run (.vunpk dst oa cw pN rep) t (one a t) = .error 0x05) ∧
       (wide → ∃ o, run (.vqln dst oa cw pN rep) t (one a t) = .ok o ∧ o.mask = byteMask (x.pred pN) 8 ∧
         o.rows = [qlnRow cw.rnd ((List.range 128).map (fun i => if on pN i = true ∧ i < f.count then some (value f a i) else none))]) ∧
       (¬wide → run (.vqln dst oa cw pN rep) t (one a t) = .error 0x05) ∧
       (wide → f.width = 16 ∨ f.width = 32 → ∀ rs : List Row, rs.length = f.width / 8 → ∃ o,
         vaResult { m with instr := .vcvts dst oa cw sN pN rep, tagA := t } x [rs.map (fun r => Src.row r t false)] = .ok o ∧
         (let vs := rs.flatMap (fun r => (List.range f.count).map (value f r))
          o.scale = (List.range 4).map (fun n => blockScale df ((vs.drop (32 * n)).take 32)) ∧ o.mask = byteMask (x.pred pN) 8 ∧
          (df.width = 8 → o.rows = [elemsRow 8 (df.convRow cw.rnd true false ((List.range 128).map (fun i =>
            if on pN i = true then (vs[i]?).map (fun v => v.scale (127 - (o.scale.getD (i / 32) 127 : Int))) else none)))]))) ∧
       (∀ mode : PackMode, ∃ o, run (.vpack dst oa pN rep mode) t [[Src.row a t false, Src.row b t false]] = .ok o ∧
         o.mask = byteMask (x.pred pN) t.width ∧ ∃ r, o.rows = [r] ∧ ∀ n, n < 128 → elemOf r 8 n = (match mode with
           | .half => if n < 64 then elemOf a 8 n else elemOf b 8 (n - 64)
           | .qtr => if n < 32 then elemOf a 8 n else if n < 64 then elemOf b 8 (n - 32) else 0))) ∧
     (∀ (f : Fmt) (t tb : Tag) (ti ri blk : Nat), tagFmt t.code = some f → (tagFmt tb.code).isSome = true → blk < 4 → ri < 32 →
       let k := (ri + m.mpc) % 32
       let e := elemOf b 8 (4 * k + blk)
       (t.scaled = false → vaResult { m with instr := .vscl dst (.h ti ri) ob pN rep blk } x [[Src.row a t false], [Src.row b tb false]] = .error 0x05) ∧
       (t.scaled = true → ∃ o, vaResult { m with instr := .vscl dst (.h ti ri) ob pN rep blk } x [[Src.row a t false], [Src.row b tb false]] = .ok o ∧
         o.mask = byteMask (x.pred pN) 32 ∧ o.rows = [elemsRow 32 (flt32.roundRow (modeRnd m.fmtmode) (modeSat m.fmtmode) ((List.range 32).map (fun j =>
           if on pN (4 * j) = true then some (if e = 255 then .nan else (value f a (32 * blk + j)).scale ((e : Int) - 127)) else none)))])))

/-- When the first VL or VS command of a running slot is ready, its engine has started it or starts it next, and its accesses pass their checks, have their routes, hold a current lease token where they need one and find no uncorrectable data, VL_STEP puts the row of the bytes read, under its predicate, in the tile row or at the end of the queue and changes no byte; VS_STEP changes no byte outside its pieces, and each of the pieces into which the row splits takes the active bytes of its part of the row. In the scratchpad a plain step's row is the 128 aligned bytes at the window base plus a + b + 128m. A PREF or HINT step changes no byte and always completes. -/
def Obligations.VectorRowsMove : Prop :=
  ∀ (s : State) (c k : Nat) (sl : Slot) (m : Cmd) (a : RowArgs), c ≤ 64 → k ≤ 3 → s.slot? c k = some sl →
    sl.phase = .run → sl.breaks = [] → sl.trigAt = none →
    let may := fun e => s.head? c k e = some m ∧ s.cmdReady c sl m = true ∧ s.mayStart c m = true
    let n : Cmd := { m with started := true }
    (∀ t ps bs, may .vl → m.instr.rowArgs? = some a → descRefused n a = none →
      s.rowPlan c sl n a false = .ok ps → s.moveGate c sl.part a.scope a.acq false ps = .ok () →
      readPieces (s.sendPieces sl.part a.scope false none ps) c c sl.part a.scope { evict := a.evict, noL2 := true } ps = (t, .ok bs) →
      let row := bytesRow (scatter ps bs (List.replicate 128 0))
      let mask := byteMask (sl.ctx.pred a.pN) m.outTag.width
      ∃ u v, exec (.vlStep c k) s = .next u ∧ u.slot? c k = some v ∧ sameBytes s u ∧ v.ctx.regs = sl.ctx.regs ∧
        (∀ q, (Port.at ⟨a.op, 1⟩ m.mpc) = [q] → (∃ d j, q = .h d j ∧ d < 32 ∧ j < 32) →
          (u.core c).row q = mergeBytes mask row ((s.core c).row q) ∧ ∀ n, n ∉ opCells q → mget 0 (u.core c).cells n = mget 0 (s.core c).cells n) ∧
        (∀ n, a.op = .q n → v.ctx.queue n = sl.ctx.queue n ++ [⟨mergeBytes mask row 0, m.outTag⟩] ∧ (u.core c).cells = (s.core c).cells)) ∧
    (∀ ps src row w, may .vs → m.instr.rowArgs? = some a → descRefused n a = none →
      stepSources n (s.core c) sl.ctx 1 n.mpc = some src → storeRow n a (srcAt src 0) = .ok (row, w) →
      s.rowPlan c sl n a true = .ok ps → s.moveGate c sl.part a.scope a.acq true ps = .ok () → s.stalePiece sl.part a.scope n.cap ps = none →
      ∃ u v, exec (.vsStep c k) s = .next u ∧ u.slot? c k = some v ∧ v.ctx.regs = sl.ctx.regs ∧ (u.core c).cells = (s.core c).cells ∧
        (∀ bp d x, (∀ p ∈ ps, sameStore p.tgt.aper c bp d = true → x < p.tgt.addr ∨ p.tgt.addr + p.len ≤ x) → u.byteAt bp d x = s.byteAt bp d x) ∧
        (ps.Pairwise (fun p q => sameStore p.tgt.aper c q.tgt.aper c = true → p.tgt.addr + p.len ≤ q.tgt.addr ∨ q.tgt.addr + q.len ≤ p.tgt.addr) →
          ∀ p ∈ ps, p.from_ + p.len ≤ 128 → ∀ n, n < p.len → u.byteAt p.tgt.aper c (p.tgt.addr + n) =
          (if (byteMask (sl.ctx.pred a.pN) w).getLsbD (p.from_ + n) = true then row.extractLsb' (8 * (p.from_ + n)) 8 else s.byteAt p.tgt.aper c (p.tgt.addr + n)))) ∧
    (∀ wr, a.desc = false → a.form = .plain →
      let y := (m.va.toNat + m.vb.toNat + 128 * m.mpc) % 18446744073709551616
      y - y % 128 + 128 ≤ sl.winSize →
        s.rowPlan c sl m a wr = .ok [{ tgt := { aper := .spad, addr := sl.winBase + (y - y % 128) }, from_ := 0, len := 128, off := y - y % 128 }]) ∧
    (may .vl → ((∃ d sa sb cls sc ev rep, m.instr = .pref d sa sb cls sc ev rep) ∨ (∃ d sa sb rep cls, m.instr = .hint d sa sb rep cls)) →
      ∃ u v, exec (.vlStep c k) s = .next u ∧ u.slot? c k = some v ∧ v.ctx = sl.ctx ∧ sameBytes s u)

/-- Where it issues normally, MXSA and MXSB give their image the source and the two words, with copies of the descriptor and its capability for a descriptor source, and MXSM gives its image MODE and the fields of sa; a value with a reserved bit set, a stride that the source forbids, or a row field of another direction than h raises 0x02. MXRD writes the word of its item to sd. Nothing else changes but the slot's place. -/
def Obligations.MatrixImages : Prop :=
  ∀ (s : State) (sl : Slot) (n sa sb sd : Nat) (src : MxSrc) (mode : MsMode) (item : MxItem),
    let x := sl.ctx
    let a := x.reg sa
    let b := x.reg sb
    let refused := bits a 63 42 ≠ 0 ∨ (match src with
      | .tile => bits a 31 5 ≠ 0 ∨ b ≠ 0
      | .spad => bits a 31 19 ≠ 0 ∨ b.toNat % 32 ≠ 0 ∨ b = 0 ∨ 524288 < b.toNat
      | .desc => bits a 31 4 ≠ 0)
    let modeRefused := bits a 63 28 ≠ 0 ∨ bits a 15 12 ≠ 0 ∨ (match mode with
      | .bmap => bits a 27 16 ≠ 0 ∨ bits a 11 10 ≠ 0
      | .sp24 => bits a 11 0 ≠ 0 ∨ bits a 27 26 ≠ 0
      | .both => bits a 11 10 ≠ 0 ∨ bits a 27 26 ≠ 0)
    let image : MaImage := match src with
      | .desc => { src := .desc, wa := a, wb := b, desc := x.desc (bits a 3 0), cap := x.cap (bits (x.desc (bits a 3 0)).w0 35 32) }
      | t => { src := t, wa := a, wb := b }
    let with' := fun (i : Instr) (ok : Ctx → Prop) => ∃ y : Ctx, exec i s = .next (s.putSlot ({ sl with ctx := y } : Slot).pastWord) ∧
      y = { x with ma := y.ma, mb := y.mb, ms := y.ms } ∧ ok y
    (Issues s sl (.mxsa n sa sb src) → (refused → exec (.mxsa n sa sb src) s = .next (s.trapped sl (.mxsa n sa sb src) 0x02)) ∧
      (¬refused → with' (.mxsa n sa sb src) (fun y => y.mb = x.mb ∧ y.ms = x.ms ∧ mget {} y.ma n = image ∧
        ∀ m, m ≠ n → mget {} y.ma m = mget {} x.ma m))) ∧
    (Issues s sl (.mxsb n sa sb src) → (refused → exec (.mxsb n sa sb src) s = .next (s.trapped sl (.mxsb n sa sb src) 0x02)) ∧
      (¬refused → with' (.mxsb n sa sb src) (fun y => y.ma = x.ma ∧ y.ms = x.ms ∧ mget {} y.mb n = image ∧
        ∀ m, m ≠ n → mget {} y.mb m = mget {} x.mb m))) ∧
    (Issues s sl (.mxsm n sa mode) → (modeRefused → exec (.mxsm n sa mode) s = .next (s.trapped sl (.mxsm n sa mode) 0x02)) ∧
      (¬modeRefused → with' (.mxsm n sa mode) (fun y => y.ma = x.ma ∧ y.mb = x.mb ∧
        mget 0 y.ms n = BitVec.ofNat 64 (mode.code * 268435456 + a.toNat) ∧ ∀ m, m ≠ n → mget 0 y.ms m = mget 0 x.ms m))) ∧
    (Issues s sl (.mxrd sd item n) → ∃ v, exec (.mxrd sd item n) s = .next (s.putSlot (sl.wrote sd v)) ∧
      (item = .wb → v = (mget {} x.ma n).wb) ∧ (item = .mbwb → v = (mget {} x.mb n).wb) ∧ (item = .ms → v = mget 0 x.ms n) ∧
      (item = .wa → v = BitVec.ofNat 64 ((mget {} x.ma n).src.code * 2 ^ 62 + bits (mget {} x.ma n).wa 43 0)) ∧
      (item = .mbwa → v = BitVec.ofNat 64 ((mget {} x.mb n).src.code * 2 ^ 62 + bits (mget {} x.mb n).wa 43 0)) ∧
      ((∀ m ∈ s.cmdsHere, ¬(m.eng = .mx ∧ m.started = true ∧ m.jet = n)) → (item = .rp ∨ item = .stat) → v = 0))

/-- The oldest head command that is ready starts on the lowest free jet that its hint allows; while that jet is busy, and without a ready command, nothing changes. A step of a started command in its turn whose tags are right and whose tile rows are correctable makes each of the 32 elements of its accumulator row the FP32 sum of the old element and the chunk value of its products (the chunk value alone at the first chunk of a zeroing command), and no other cell and no byte of memory changes; its operands are tiles, or the rows read at their scratchpad addresses or tensor coordinates, once every check has passed, every request has gone out and the data are correctable. A check that refuses an operand is the step's fault (that A's comes before B's within a line of R241's table is the model's choice, as State.mxPieces says). With no chunk left the command completes. -/
def Obligations.MatrixSteps : Prop :=
  (∀ (s : State) (c : Nat), c ≤ 64 →
    let cmds := (s.core c).cmds
    let ready := fun y : Cmd => y.eng = .mx ∧ y.started = false ∧ isHead cmds y = true ∧ ∃ sl, s.slot? c y.slot = some sl ∧ s.cmdReady c sl y = true
    ((∀ y ∈ cmds, ¬ready y) → exec (.mxCommandStart c) s = .next s) ∧
    (∀ before m after a, cmds = before ++ m :: after → (∀ y ∈ before, ¬ready y) → ready m → m.instr.mma? = some a →
      let allowed := if a.jet = 0 then [0, 1, 2] else [a.jet - 1]
      ((∀ j ∈ allowed, s.onJet c j ≠ none) → exec (.mxCommandStart c) s = .next s) ∧
      (∀ j ∈ allowed, s.onJet c j = none → (∀ i ∈ allowed, i < j → s.onJet c i ≠ none) → m.preMark = false →
        ∃ u, exec (.mxCommandStart c) s = .next u ∧ { m with started := true, jet := j } ∈ (u.core c).cmds ∧
          (∀ y ∈ before, y.seq ≠ m.seq → y ∈ (u.core c).cmds) ∧ sameMemory s u ∧ (u.core c).slots = (s.core c).slots))) ∧
  (∀ (s : State) (c j : Nat) (sl : Slot) (m : Cmd) (a : Mma), c ≤ 64 → j ≤ 2 → s.onJet c j = some m → s.slot? c m.slot = some sl →
    m.instr.mma? = some a → mayWork sl (s.slotCmds c m.slot) m = true → hazardFree (s.slotCmds c m.slot) m = true →
    mxOrdered (s.slotCmds c m.slot) m = true → sl.phase = .run → sl.breaks = [] → sl.trigAt = none → a.acc < 32 →
    let co := s.core c
    let k := mmaK a.sK m.va a.fa m.ms
    let live := liveList co m k
    let n := 32 * chunkCount a m live.length
    let p := mxPlan co a m live
    let w := a.fa.bytes
    (∀ i ∈ bitmapRows m k, rowEmpty m i = false ∧ co.rowBad (fileRow i) = false) →
    (n ≤ m.mpc → ∃ u v, exec (.mxStep c j) s = .next u ∧ u.slot? c m.slot = some v ∧ sameBytes s u ∧ (u.core c).cells = co.cells ∧
      ∀ y ∈ (u.core c).cmds, y.slot = m.slot → y.eng = m.eng → y.preMark = m.preMark → y.seq ≠ m.seq) ∧
    (m.mpc < n →
      let row := WOp.h a.acc (m.mpc % 32)
      let ra := operandRows false a.fa m.ma p.readA
      let rb := operandRows true a.fb m.mb p.readB
      let adds := fun (memA memB : List (Nat × List Byte)) =>
        let chunk := fun c' : Nat => chunkValue a.fa a.fb
          ((p.prods.getD c' []).zipIdx.map (fun q => q.1.map (fun e => (leNat (operandBytes co memA false m.ma w (m.mpc % 32) (e * w) w),
            leNat (((operandBytes co memB true m.mb w c' (32 * (m.mpc / 32)) 32).drop (q.2 * w)).take w)))))
          (co.scaleOf a.fa m.ma (m.mpc % 32) (m.mpc / 32)) (co.scaleOf a.fb m.mb c' (m.mpc / 32))
        ∃ u v, exec (.mxStep c j) s = .next u ∧ u.slot? c m.slot = some v ∧ v.ctx.regs = sl.ctx.regs ∧ sameBytes s u ∧
          (∀ c', c' < 32 → elemOf ((u.core c).row row) 32 c' =
            (if a.z = true ∧ m.mpc / 32 = 0 then chunk c' else add32 (elemOf (co.row row) 32 c') (chunk c')) % 4294967296) ∧
          ∀ y, y ∉ opCells row → mget 0 (u.core c).cells y = mget 0 co.cells y
      (m.ma.src = .tile → m.mb.src = .tile → p.tagBad m = false → p.tileErr m co = false → adds [] []) ∧
      (∀ ps t bs, s.mxPieces c sl m p ra rb = .ok ps → s.moveGate c sl.part a.ord.scope (a.ord.ord == .acq) false ps = .ok () →
        p.tileErr m co = false → readPieces (s.sendPieces sl.part a.ord.scope false none ps) c c sl.part a.ord.scope { evict := a.ord.evict } ps = (t, .ok bs) →
        let buf := scatter ps bs (List.replicate (128 * (ra.length + rb.length)) 0)
        adds (operandMem ra 0 buf) (operandMem rb ra.length buf)) ∧
      (∀ f, s.mxPieces c sl m p ra rb = .error f → f.hold = none → exec (.mxStep c j) s = .next (s.raiseFault c m.slot (m.faultRec f m.engNow))))) ∧
  (∀ (m : MaImage) (isB : Bool) (w line o : Nat),
    (m.src = .spad → operandAddr isB m w line o = bits m.wa 31 0 / 32 * 32 + line * m.wb.toNat + o) ∧
    (m.src = .desc → isB = false → operandAddr isB m w line o = bytePos m.desc ⟨bits m.wb 31 0 + o / w, bits m.wb 63 32 + line, 0, 0⟩) ∧
    (m.src = .desc → isB = true → operandAddr isB m w line o = bytePos m.desc ⟨bits m.wb 31 0 + line, bits m.wb 63 32 + o / w, 0, 0⟩))

/-- A write of a step whose checks have passed, whose requests go out and whose lease token is current puts its bytes at the destination's pieces and changes no byte outside them. When the next payload step of BGET, BPUT, BCPY or BFILL may be made, with its unit in service, its checks passed and its source read, it writes the bytes read, or the fill byte; a BGET that names the Reservoir alone changes no byte. CCOLL writes what its operation makes of its inputs, CCMP the mask and the non-zero bytes of a block and at last the header, and CDCP the block that a mask and its bytes stand for. The counter moves on, and after the last block the command leaves its queue or has only its flag left. A command that XF has not started and does not start next changes nothing. -/
def Obligations.TransferPayloadSteps : Prop :=
  (∀ (s : State) (c idx : Nat) (sl : Slot) (m0 : Cmd), c ≤ 64 → (s.xfCmds c)[idx]? = some m0 → s.slot? c m0.slot = some sl →
    let m : Cmd := { m0 with started := true }
    let due := s.xfStarts c m0 = true ∧ m.paid = false ∧ s.xfMay c sl m (xfPath m.instr) (cmdOrd m.instr).2 = true
    (s.xfStarts c m0 = false → exec (.xfPayloadStep c idx) s = .next s) ∧
    (due → sl.phase = .run → sl.breaks = [] → sl.trigAt = none → m.preMark = false → m.payloadOver = false →
      let z := s.endExpired
      let scope := (xfOrd m.instr).scope
      z.unitState c sl m = .serve →
      let ends := fun (w : State) (mpc k : Nat) => ∃ u, exec (.xfPayloadStep c idx) s = .next u ∧ sameBytes w u ∧
        (k = 0 → ∀ y ∈ (u.core c).cmds, y.slot = m.slot → y.seq = m.seq → y.eng = m.eng → y.preMark = false → y.paid = true) ∧
        (k ≠ 0 → ∃ y ∈ (u.core c).cmds, y.slot = m.slot ∧ y.seq = m.seq ∧ y.eng = m.eng ∧ y.mpc = mpc)
      (∀ v, m.move? = some v → (m.mpc = 0 → bulkRefused sl m = none) →
        let k := (m.len + 127) / 128
        let lo := 128 * (if v.rev = true then k - 1 - m.mpc else m.mpc)
        let n := min m.len (lo + 128) - lo
        let reads : List XAcc := (v.src.map (fun x => (⟨x.at lo, n, false⟩ : XAcc))).toList
        (∀ d t bs w, v.dst = some d → z.xfRead c sl m m.readScope reads [⟨d.at lo, n, true⟩] = .ok t bs →
          t.xfWrite c sl m (d.at lo) (if v.src = none then List.replicate n v.fill else bs) = .ok w → ends w (m.mpc + 1) (k - (m.mpc + 1))) ∧
        (∀ t bs, v.dst = none → z.xfRead c sl m m.readScope reads [] = .ok t bs → ends s (m.mpc + 1) (k - (m.mpc + 1))) ∧
        (∀ t f, v.dst = none → z.xfRead c sl m m.readScope reads [] = .res (.fault t f) → f.hold = none →
          exec (.xfPayloadStep c idx) s = .next (t.raiseFault c m.slot (m.faultRec f m.engNow)))) ∧
      (∀ r a b q f o ws caps ns, m.instr = .ccoll r a b q f o → (m.mpc = 0 ∨ m.list = []) → z.readList c sl m = .ok (ws, caps, ns) →
        let y : Cmd := { m with list := ws, listCaps := caps }
        let op := bits (ws.headD 0) 3 0
        let lo := 128 * m.mpc
        let n := min y.payload (lo + 128) - lo
        let out := (XSide.object m.cap m.va.toNat).at lo
        ∀ t bs w, (z.keepNotes 64 sl.part ns).xfRead c sl y scope (collectReads y op lo n) [⟨out, n, true⟩] = .ok t bs →
          t.xfWrite c sl y out (if op = 3 then bs else collectBytes (bits (ws.headD 0) 12 8) op (splitBytes n (collectReads y op lo n).length bs)) = .ok w →
          ends w (m.mpc + 1) ((y.payload + 127) / 128 - (m.mpc + 1))) ∧
      (∀ r a b q f o put, m.instr = .ccmp r a b q f o put → packRefused sl m put (streamSides m put).1 = none →
        let k := m.mpc % 4294967296
        let out := m.mpc / 4294967296
        let n := (m.len + 127) / 128
        (∀ t bs w, k < n → z.xfRead c sl m scope [⟨(streamSides m put).1.at (128 * k), min m.len (128 * k + 128) - 128 * k, false⟩] [] = .ok t bs →
          t.xfWrite c sl m ((streamSides m put).2.at (16 + out)) (leBytes 16 (blockMask bs) ++ bs.filter (fun b => b != 0)) = .ok w →
          ends w ((out + 16 + (bs.filter (fun b => b != 0)).length) * 4294967296 + k + 1) 1) ∧
        (∀ w, n ≤ k → z.xfWrite c sl m (streamSides m put).2 (leBytes 8 m.len ++ leBytes 8 (16 + out)) = .ok w → ends w 0 0)) ∧
      (∀ r a b q f o put, m.instr = .cdcp r a b q f o put → m.mpc % 4294967296 ≠ 0 →
        let j := m.mpc % 4294967296 - 1
        let src := (streamSides m put).1
        ∀ t1 h t2 off t3 mb t4 bs w, z.readOne c sl m src 16 = (t1, .ok h) →
          let u := leNat (h.take 8)
          let n := min u (128 * j + 128) - 128 * j
          n ≠ 0 → t1.walkStream c sl m src false 0 j 16 = (t2, .ok off) → t2.readOne c sl m (src.at off) 16 = (t3, .ok mb) →
          t3.readOne c sl m (src.at (off + 16)) (maskCount (leNat mb)) = (t4, .ok bs) →
          t4.xfWrite c sl m ((streamSides m put).2.at (128 * j)) (unpackBlock (leNat mb) n 0 bs) = .ok w →
          ends w ((m.mpc / 4294967296 + n) * 4294967296 + j + 2) ((u + 127) / 128 - (j + 1))))) ∧
  (∀ (t : State) (c : Nat) (sl : Slot) (m : Cmd) (side : XSide) (data : List Byte) (ps : List Piece),
    let o := xfOrd m.instr
    t.xfPlan (m.via c) sl [⟨side, data.length, true⟩] = .ok ps → t.moveGate (m.via c) sl.part o.scope (Ord2.acquires o.ord) true ps = .ok () →
    t.stalePiece sl.part o.scope side.cap ps = none →
    ∃ w, t.xfWrite c sl m side data = .ok w ∧
      (∀ bp e x, (∀ p ∈ ps, sameStore p.tgt.aper c bp e = true → x < p.tgt.addr ∨ p.tgt.addr + p.len ≤ x) → w.byteAt bp e x = t.byteAt bp e x) ∧
      (ps.Pairwise (fun p q => sameStore p.tgt.aper c q.tgt.aper c = true → p.tgt.addr + p.len ≤ q.tgt.addr ∨ q.tgt.addr + q.len ≤ p.tgt.addr) →
        ∀ p ∈ ps, ∀ j b, j < p.len → data[p.from_ + j]? = some b → w.byteAt p.tgt.aper c (p.tgt.addr + j) = b)) ∧
  (∀ (bs : List Byte), (∀ i, (blockMask bs).testBit i = (bs.getD i 0 != 0)) ∧ unpackBlock (blockMask bs) bs.length 0 (bs.filter (fun b => b != 0)) = bs) ∧
  (∀ (x : Nat) (xs : List Nat), collectElem 10 0 (x :: xs) = (x :: xs).sum % 4294967296 ∧ collectElem 11 1 (x :: xs) = xs.foldl min x ∧
    collectElem 11 2 (x :: xs) = xs.foldl max x)

/-- A flag step that passes its checks and gates stores FVAL, or adds it to the word, in 8 little-endian bytes, changes no other byte, and its command leaves the queue; an XFLAG's single step is that flag, once no earlier XF command of its slot is queued. RLSTP raises CUR of a published schedule; RLPUB of no entries withdraws it, and of up to 65,536 entries through a readable capability publishes it (a larger count raises 0x06, a capability without R 0x07; on the fontanier it publishes nothing, log entry 83). CREL ends the partition's bindings that it names. RLQRY, CBIND and CSTAT write their record inside the window and nothing else, or raise 0x06: the step, look-ahead, READY, state, skipped and remaining counts of the schedule (log entry 85 where none is published); the status, kind, engine and end of the binding granted or renewed for 50 µs; the engines bound, the units pending for each kind (log entry 33) and the ends of the bindings. BCAN removes every XF command that its slot issued before it, in its own step (log entry 19). -/
def Obligations.TransferSingleStepsAndFlags : Prop :=
  (∀ (s : State) (c idx : Nat) (sl : Slot) (m0 : Cmd), c ≤ 64 → (s.xfCmds c)[idx]? = some m0 → s.slot? c m0.slot = some sl → s.xfStarts c m0 = true →
    sl.phase = .run → sl.breaks = [] → sl.trigAt = none → m0.preMark = false → m0.eng = .xf →
    let m : Cmd := { m0 with started := true }
    let z := s.endExpired
    let scope := (xfOrd m.instr).scope
    let gone := fun (u : State) => ∀ y ∈ (u.core c).cmds, y.slot = m.slot → y.seq = m.seq → y.eng = .xf → y.preMark = false → y.paid = true
    let single := m.paid = false ∧ m.mpc = 0 ∧ s.xfMay c sl m (xfPath m.instr) (cmdOrd m.instr).2 = true
    let ends := fun (ok : State → Prop) => ∃ u, exec (.xfSingleStep c idx) s = .next u ∧ gone u ∧ sameBytes s u ∧ ok u
    let faults := fun (code : Nat) => ∃ f, exec (.xfSingleStep c idx) s = .next (s.raiseFault c m.slot f) ∧ f.code = code ∧ f.word = m.word
    let record := fun (bs : List Byte) =>
      (m.vb.toNat + bs.length ≤ sl.winSize → ∃ u, exec (.xfSingleStep c idx) s = .next u ∧ gone u ∧
        sameBytesBut .spad c (sl.winBase + m.vb.toNat) bs.length s u ∧ ∀ j b, bs[j]? = some b → u.byteAt .spad c (sl.winBase + m.vb.toNat + j) = b) ∧
      (sl.winSize < m.vb.toNat + bs.length → faults 0x06)
    (∀ t, (m.paid = true ∧ s.xfMay c sl m 16 (flagOrd m.instr) = true) ∨
        (∃ f o, m.instr = .xflag f o ∧ m.paid = false ∧ s.xfMay c sl m 16 (flagOrd m.instr) = true ∧ earlierXf (s.slotCmds c m.slot) m = []) →
      s.flagTarget c sl m = .ok t → s.moveGate c sl.part scope false true [m.flagPiece t] = .ok () → s.stalePiece sl.part scope m.capF [m.flagPiece t] = none →
      (m.flagAdds = true → s.locPoison (t.loc c sl.part) 8 scope = false) →
      let value := (if m.flagAdds = true then leNat (s.locBytes (t.loc c sl.part) 8 scope) else 0) + bits m.vf 58 48
      ∃ u, exec (if m.paid = true then .flagStep c idx else .xfSingleStep c idx) s = .next u ∧
        sameBytesBut t.aper c t.addr 8 s u ∧ (∀ j, j < 8 → u.byteAt t.aper c (t.addr + j) = BitVec.ofNat 8 (value / 256 ^ j)) ∧
        ∀ y ∈ (u.core c).cmds, y.slot = m.slot → y.eng = .xf → y.preMark = false → y.seq ≠ m.seq) ∧
    (single →
      (∀ a f o, m.instr = .rlstp a f o → ends (fun u => (u.part sl.part).rill =
        (if (s.part sl.part).rill.pub = true then { (s.part sl.part).rill with cur := max (s.part sl.part).rill.cur (bits m.va 31 0) } else (s.part sl.part).rill))) ∧
      (∀ q a b d f o k, m.instr = .rlpub q a b d f o k →
        (m.vc = 0 → ends (fun u => (u.part sl.part).rill.pub = false)) ∧
        (65536 < m.vc.toNat → faults 0x06) ∧
        (m.vc ≠ 0 → m.vc.toNat ≤ 65536 → m.cap.grants { r := true } = false → faults 0x07) ∧
        (m.vc ≠ 0 → m.vc.toNat ≤ 65536 → m.cap.grants { r := true } = true → sl.part ≠ 64 → ends (fun u => (u.part sl.part).rill =
          { pub := true, cap := m.cap, off := m.va.toNat, count := m.vc.toNat, cur := bits m.vb 31 0, k := k, level := m.level })) ∧
        (m.vc ≠ 0 → m.vc.toNat ≤ 65536 → m.cap.grants { r := true } = true → sl.part = 64 → ends (fun u => u.parts = s.parts))) ∧
      (∀ f o kind index, m.instr = .crel f o kind index → ends (fun u => u.grotto.bindings = z.grotto.bindings.filter (fun x =>
        !(z.grotto.bindings.any (fun y => y.kind == kind && y.part == sl.part && (index == 0xFF || y.index == index) && x.kind == y.kind && x.index == y.index))))) ∧
      (∀ b f o, m.instr = .rlqry b f o →
        let r := (z.part sl.part).rill
        let left := (z.schedule sl.part).countP (fun e => decide (r.cur ≤ e.2.step))
        record (leBytes 4 r.cur ++ leBytes 1 r.k ++ leBytes 1 (z.rillReady sl.part) ++ leBytes 1 (if r.pub = false then 0 else if left = 0 then 2 else 1) ++
          leBytes 1 0 ++ leBytes 8 r.lost.length ++ leBytes 8 left ++ leBytes 8 0)) ∧
      (∀ b f o, m.instr = .cstat b f o →
        let mine := [EngKind.bc, .cp, .cl].flatMap (fun k => (z.bound k).filter (fun b => b.part == sl.part))
        let at_ := fun (i : Nat) => mine.find? (fun b => kindBase b.kind + b.index == i)
        let bound := (List.range 16).filterMap at_
        record ((List.range 16).flatMap (fun i => leBytes 1 (if (at_ i).isSome = true then 1 else 0)) ++
          [EngKind.bc, .cp, .cl].flatMap (fun k => leBytes 4 (z.pendingUnits k sl.part)) ++ leBytes 4 0 ++
          (List.range 4).flatMap (fun i => leBytes 8 (match bound[i]? with
            | some b => (kindBase b.kind + b.index) * 72057594037927936 + b.till % 72057594037927936
            | none => 255 * 72057594037927936)))) ∧
      (∀ b f o kind i, m.instr = .cbind b f o kind i →
        let r := z.bindAnswer kind i sl.part
        record (leBytes 1 r.1 ++ leBytes 1 (kindCode kind) ++ leBytes 1 r.2.1 ++ leBytes 5 0 ++ leBytes 8 (if r.1 < 2 then s.tick + 50000 else 0)) ∧
        (r.1 < 2 → ∃ e ∈ r.2.2.grotto.bindings, e.kind = kind ∧ e.index = r.2.1 ∧ e.part = sl.part ∧ e.till = s.tick + 50000) ∧
        (2 ≤ r.1 → r.2.1 = 0xFF ∧ r.2.2 = z)))) ∧
  (∀ (s : State) (sl : Slot) (f : Nat) (o : AccOrd), Issues s sl (.bcan f o) → segmentFull sl.ctx .xf = false → sl.ctx.bal = [] → s.pushOk s.curCore s.curSlot .xf = true →
    sl.trigAt = none → sl.breaks = [] →
    ∃ u, exec (.bcan f o) s = .next u ∧ sameBytes s u ∧ (∃ y ∈ u.cmdsHere, y.instr = .bcan f o ∧ y.seq = sl.seq ∧ y.eng = .xf) ∧
      (∀ y ∈ u.cmdsHere, y.eng = .xf → y.marker = false → sl.seq ≤ y.seq) ∧ ∀ y ∈ s.cmdsHere, y.eng ≠ .xf → y ∈ u.cmdsHere)

/-- In a round of a resource each partition with work is given 4,096 times its weight and pays for its units in their order while its deficit lasts, which are then granted; one without work has a deficit of 0. The weights of the commons engines, the conduits, the Lemcon link and the Rills are bytes 0 to 3 of XWGT; the fontanier's own units take a turn after partition 63 (log entry 83), units of conduits and of the Lemcon link delay nothing (log entry 33). A binding whose lease is spent ends and no other does: the unit in service is still served and the units queued for its engine pass to shared arbitration. RILL_FETCH serves the oldest grant: a partition's Rill without it does nothing; with it a tile that fails a check is skipped and counted, and a tile of a POOL page that passes, with a route and room, has every line in the Reservoir afterwards (that the whole tile must lie inside the capability, and that a skipped tile is not tried again, is log entry 84); no byte of a store changes. -/
def Obligations.CommonsAndRill : Prop :=
  (∀ (p d : Nat) (us : List WorkUnit), let r := payUnits p d us
    (r.1.map (fun u => u.cost)).sum + r.2.2 = d ∧ (∀ u ∈ r.1, u.part = p ∧ u ∈ us) ∧ r.2.1.length + r.1.length = us.length ∧
      (∀ u, r.2.1.find? (fun x => x.part == p) = some u → r.2.2 < u.cost)) ∧
  (∀ (a : Arbiter) (w : Nat → Nat) (p : Nat), p ≤ 64 →
    let mine := fun (l : List WorkUnit) => l.filter (fun u => u.part == p)
    let r := payUnits p (mget 0 a.deficit p + 4096 * w p) a.pending
    (mine a.pending = [] → mget 0 (a.round w).deficit p = 0 ∧ mine (a.round w).granted = mine a.granted ∧ mine (a.round w).pending = []) ∧
    (mine a.pending ≠ [] → mget 0 (a.round w).deficit p = r.2.2 ∧ mine (a.round w).granted = mine a.granted ++ r.1 ∧
      mine (a.round w).pending = mine r.2.1)) ∧
  (∀ (s : State),
    let z := s.endExpired
    let weight := fun (t : State) (i p : Nat) => bits (t.part p).xwgt (8 * i + 7) (8 * i)
    let does := fun (r : Res) (ok : State → Prop) => ∃ u, exec (.arbiterRound r) s = .next u ∧ sameBytes s u ∧ u.tick = s.tick ∧ u.cores = s.cores ∧
      u.parts = s.parts ∧ u.regions = s.regions ∧ ok u
    does .bulk (fun u => u.grotto.bulk = z.grotto.bulk.round (weight z 0)) ∧
    does .compress (fun u => u.grotto.compress = z.grotto.compress.round (weight z 0)) ∧
    does .collect (fun u => u.grotto.collect = z.grotto.collect.round (weight z 0)) ∧
    does .conduit (fun u => ∃ g, (∀ x ∈ g, x ∈ s.grotto.conduitA.granted) ∧
      u.grotto.conduitA = ({ s.grotto.conduitA with pending := s.conduitUnits, granted := g } : Arbiter).round (weight s 1)) ∧
    does .lemcon (fun u => u.grotto.lemconA = s.grotto.lemconA.round (weight s 2)) ∧
    does .rill (fun u => u.grotto.rillA =
      { ({ s.grotto.rillA with pending := (List.range 64).flatMap s.rillUnits } : Arbiter).round (weight s 3) with pending := [] }) ∧
    (∀ x ∈ s.conduitUnits, x.cost = 128) ∧ (∀ p, ∀ x ∈ s.rillUnits p, x.cost = 65536 ∧ x.part = p ∧ (s.part p).rill.pub = true)) ∧
  (∀ (s : State) (kind : EngKind) (index : Nat), index < kind.count →
    (∃ u, exec (.bindingExpiry kind index) s = .next u ∧ sameBytes s u ∧ u.cores = s.cores ∧ u.tick = s.tick ∧
      ∀ b, b ∈ u.grotto.bindings ↔ b ∈ s.grotto.bindings ∧ ¬(b.kind = kind ∧ b.index = index ∧ ∃ e ∈ s.grotto.bindings, e.kind = kind ∧ e.index = index ∧ e.till ≤ s.tick)) ∧
    (∀ b, s.grotto.bindings.filter (fun e => e.kind == kind && e.index == index && decide (e.till ≤ s.tick)) = [b] →
      ∃ u, exec (.bindingExpiry kind index) s = .next u ∧ (u.grotto.arb kind).pending = (s.grotto.arb kind).pending ++ b.queue.drop 1 ∧
        (u.grotto.arb kind).granted = b.queue.take 1 ++ (s.grotto.arb kind).granted)) ∧
  (∀ (s : State) (p : Nat), p ≤ 63 →
    let granted := s.grotto.rillA.granted
    (granted.head?.all (fun u => u.part != p) = true → exec (.rillFetch p) s = .next s) ∧
    (∀ g rest, granted = g :: rest → g.part = p →
      (s.rillWanted p 1 = [] → ∃ u, exec (.rillFetch p) s = .next u ∧ sameBytes s u ∧ u.parts = s.parts ∧ u.grotto.rillA.granted = rest) ∧
      (∀ w, s.rillWanted p 1 = [w] →
        (∀ f, s.rillTarget p w.2.1 w.2.2 = .error f → f.hold = none → ∃ u, exec (.rillFetch p) s = .next u ∧ sameBytes s u ∧
          (u.part p).rill = { (s.part p).rill with lost := (s.part p).rill.lost ++ [(w.1, w.2.2)] } ∧ u.grotto.rillA.granted = rest) ∧
        (∀ t, s.rillTarget p w.2.1 w.2.2 = .ok t → t.aper = .pool → s.moveGate 64 p 3 false false (tilePieces t) = .ok () →
          s.locPoison (t.loc 64 p) 65536 3 = false →
          let n := s.keepNotes 64 p t.notes
          (n.part p).lines.length + (linesOf t.addr 65536).length ≤ n.resRoom p →
          ∃ u, exec (.rillFetch p) s = .next u ∧ sameBytes s u ∧ u.tileHere p t = true ∧ u.grotto.rillA.granted = rest))))

/-- Where TSPAWN issues normally, its earlier accesses are performed, its record is read, passes R269 and has no extended list, sd is the next id of the partition and a task with the record's fields is entered, Ready when its JOIN is 0 and else Pending, with one edge and one JOIN more for .dep before a trigger; with no task entry, a full JOIN or 64 edges sd is 0, -2 or -3 and nothing is entered. A record that fails raises its fault. TDEP adds an edge from each untriggered source to a Pending dependant and raises its JOIN, or answers -1, -2, -3 or -4 and adds none. -/
def Obligations.SpawnsAndDependencies : Prop :=
  (∀ (s s1 : State) (sl : Slot) (me : Task) (sd c sa sb v : Nat) (dep : Bool),
    let i := Instr.tspawn sd c sa sb dep
    let p := sl.part
    let b := leBytes 64 v
    let field := fun (at_ n : Nat) => leNat ((b.drop at_).take n)
    let user := slotLevel s.curCore sl = .u
    let pin := field 25 1
    let ext := field 60 4
    let broken := 2 ^ 49 ≤ field 0 8 ∨ 8 ≤ field 18 1 ∨ 32 ≤ field 19 1 ∨ 512 < field 20 4 ∨ (64 ≤ pin ∧ pin ≠ 0x7F) ∨ field 26 2 ≠ 0 ∨
      (ext ≠ 0 ∧ (ext < 64 ∨ ext % 8 ≠ 0))
    let above := user ∧ (2 ^ 48 ≤ field 0 8 ∨ pin ≠ 0x7F)
    let absent := pin ≠ 0x7F ∧ s.holds p pin = false
    let drawn := pin ≠ 0x7F ∧ ((s.region pin).state = .held ∨ ((s.region pin).state = .reset ∧ (s.region pin).ret = .held))
    let edge := dep = true ∧ me.trig = false
    Issues s sl i → s.quiet sl = true → s.task? p sl.task = some me →
    s.readObj sl (sl.ctx.cap c) (sl.ctx.reg sa).toNat 64 64 = .ok s1 v →
    let answers := fun (w : Word) (u : State) => exec i s = .next u ∧ u.slot? s.curCore s.curSlot = some (sl.wrote sd w) ∧ sameMemory s1 u
    (broken → exec i s = .next (s.trapped sl i 0x02)) ∧
    (¬broken → above → exec i s = .next (s.trapped sl i 0x10)) ∧
    (¬broken → ¬above → absent → exec i s = .next (s.trapped sl i 0x06)) ∧
    (¬broken → ¬above → ¬absent → drawn → exec i s = .next (s.trapped sl i 0x15)) ∧
    (¬broken → ¬above → ¬absent → ¬drawn → ext = 0 →
      (s.hasEntry p = false → ∃ u, answers 0 u ∧ u.parts = s1.parts) ∧
      (s.hasEntry p = true → edge → 65535 ≤ field 16 2 → ∃ u, answers (BitVec.ofInt 64 (-2)) u ∧ u.parts = s1.parts) ∧
      (s.hasEntry p = true → edge → field 16 2 < 65535 → 64 ≤ me.edges.length → ∃ u, answers (BitVec.ofInt 64 (-3)) u ∧ u.parts = s1.parts) ∧
      (s.hasEntry p = true → (edge → field 16 2 < 65535 ∧ me.edges.length < 64) →
        ∃ u t, answers (BitVec.ofNat 64 (s.part p).nextId) u ∧ (u.part p).nextId = (s.part p).nextId + 1 ∧ t ∈ (u.part p).tasks ∧
          t.id = (s.part p).nextId ∧ t.part = p ∧ t.parent = sl.task ∧ t.launch = me.launch ∧ t.age = 0 ∧ t.code = field 0 6 ∧
          t.frame = (if sb = 0 then BitVec.ofNat 64 (field 8 8) else sl.ctx.reg sb) ∧ t.prio = field 18 1 ∧ t.banks = field 19 1 % 16 ∧
          (t.fmttrap = true ↔ 16 ≤ field 19 1) ∧ (t.sup = true ↔ 2 ^ 48 ≤ field 0 8) ∧ t.spkib = field 20 4 ∧ t.group = field 24 1 ∧ t.pin = pin ∧
          t.edges = [] ∧ t.trig = false ∧ t.frameAt = none ∧
          (edge → t.join = field 16 2 + 1 ∧ ∃ m ∈ (u.part p).tasks, m.id = sl.task ∧ m.edges = me.edges ++ [(s.part p).nextId]) ∧
          (¬edge → t.join = field 16 2) ∧ (t.state = (if t.join = 0 then .ready else .pending))))) ∧
  (∀ (s : State) (sl : Slot) (sd sa sb : Nat) (grp : Bool),
    let i := Instr.tdep sd sa sb grp
    let p := sl.part
    let a := (sl.ctx.reg sa).toNat
    let b := (sl.ctx.reg sb).toNat
    let named : Option (List Nat) := if grp = true then some (s.group p a).members else if sa = 0 then some [sl.task] else if a = 0 ∨ (s.part p).nextId ≤ a then none else some [a]
    let live := (named.getD []).filter (fun id => (s.task? p id).any (fun t => !t.trig))
    let full := live.any (fun id => (s.task? p id).any (fun t => decide (64 ≤ t.edges.length)))
    let refused := fun (z : Int) => exec i s = .next (s.putSlot (sl.wrote sd (BitVec.ofInt 64 z)))
    Issues s sl i →
    (grp = true → 255 < a → exec i s = .next (s.trapped sl i 0x06)) ∧
    ((grp = true → a ≤ 255) → (∀ d, s.task? p b = some d → d.state ≠ .pending) → refused (-1)) ∧
    (∀ d, (grp = true → a ≤ 255) → s.task? p b = some d → d.state = .pending →
      (named = none → refused (-4)) ∧
      (named ≠ none → 65535 < d.join + live.length → refused (-2)) ∧
      (named ≠ none → d.join + live.length ≤ 65535 → full = true → refused (-3)) ∧
      (named ≠ none → d.join + live.length ≤ 65535 → full = false →
        ∃ u, exec i s = .next u ∧ u.slot? s.curCore s.curSlot = some (sl.wrote sd (BitVec.ofNat 64 live.length)) ∧ sameMemory s u ∧
          ∀ id t, s.task? p id = some t → ∃ x, u.task? p id = some x ∧ x.edges = t.edges ++ List.replicate (live.count id) b ∧
            x.join = t.join + (if id = b then live.length else 0) ∧ x.state = t.state)))

/-- Where it issues normally: TEND outside a LOOPP with every balance zero frees the slot and its banks and ends the task, whose dependants lose one JOIN for each edge if it had not triggered, or waits while commands or accesses stand, else raises 0x0F; TTRIG triggers at once when earlier accesses are performed, and later otherwise, and a second changes nothing; TYLD places its markers, waits for a pending transfer, or raises 0x0F in a LOOPP; TSELF reads the task's own item; TPRIO sets a priority and answers the old one or -1, with 0x02 above 7 and 0x10 above a user's own. -/
def Obligations.TaskLifeInstructions : Prop :=
  ∀ (s : State) (sl : Slot) (sd sa sb : Nat),
    let p := sl.part
    let here := fun (u : State) => u.slot? s.curCore s.curSlot
    let joins := fun (t : Task) (u : State) => ∀ id x, id ≠ sl.task → s.task? p id = some x →
      ∃ y, u.task? p id = some y ∧ y.join = x.join - (if t.trig = true then 0 else t.edges.count id)
    let outside := sl.ctx.pipe = none ∧ sl.ctx.bal.all (fun q => q.2 == 0) = true
    let settled := (s.queued s.curCore s.curSlot).all (fun m => m.marker) = true ∧ sl.p0 = []
    let clean := sl.deferred = [] ∧ sl.breaks = [] ∧ sl.trigAt = none
    (Issues s sl .tend → ¬outside → exec .tend s = .next (s.trapped sl .tend 0x0F)) ∧
    (Issues s sl .tend → outside → clean →
      (settled → ∃ u, exec .tend s = .next u ∧ here u = none ∧ u.task? p sl.task = none ∧ sameMemory s u ∧
        (∀ m ∈ (u.core s.curCore).cmds, m.slot ≠ s.curSlot) ∧ (∀ n, sl.banks.testBit (n / 8192) = true → mget 0 (u.core s.curCore).cells n = 0) ∧
        ∀ t, s.task? p sl.task = some t → joins t u) ∧
      (¬settled → ∃ u v, exec .tend s = .next u ∧ here u = some v ∧ v.phase = .ending ∧ v.ctx = sl.ctx ∧ u.parts = s.parts ∧ sameMemory s u)) ∧
    (∀ t, Issues s sl .ttrig → s.task? p sl.task = some t →
      (t.trig = true ∨ sl.trigAt ≠ none → exec .ttrig s = .next (s.putSlot sl.pastWord)) ∧
      (t.trig = false → sl.trigAt = none → quietBefore sl s.cmdsHere sl.seq = true → ∃ u y, exec .ttrig s = .next u ∧ here u = some sl.pastWord ∧
        u.task? p sl.task = some y ∧ y.trig = true ∧ y.edges = [] ∧ joins t u ∧ sameMemory s u) ∧
      (t.trig = false → sl.trigAt = none → quietBefore sl s.cmdsHere sl.seq = false →
        exec .ttrig s = .next (s.putSlot ({ sl with trigAt := some sl.seq } : Slot).pastWord))) ∧
    (Issues s sl .tyld → sl.ctx.pipe ≠ none → exec .tyld s = .next (s.trapped sl .tyld 0x0F)) ∧
    (Issues s sl .tyld → sl.ctx.pipe = none → ∃ u v, exec .tyld s = .next u ∧ here u = some v ∧ v.ctx = sl.pastWord.ctx ∧ sameOutside s.curCore s u ∧
      (sl.pastWord.ctx.delay ≠ none → v.phase = .preWait ∧ (u.core s.curCore).cmds = (s.core s.curCore).cmds) ∧
      (sl.pastWord.ctx.delay = none → v.phase = .drain (s.tick + 20000) ∧
        (u.core s.curCore).cmds = (s.core s.curCore).cmds ++ [Eng.vl, .va, .vs, .mx, .xf].map (preMarker s.curSlot (sl.seq + 1)))) ∧
    (∀ item t, Issues s sl (.tself sd item) → s.task? p sl.task = some t → exec (.tself sd item) s = .next (s.putSlot (sl.wrote sd
      (match item with
       | .id => BitVec.ofNat 64 sl.task
       | .parent => BitVec.ofNat 64 t.parent
       | .frame => t.frame
       | .launch => BitVec.ofNat 64 t.launch)))) ∧
    (Issues s sl (.tprio sd sa sb) → ∀ me, s.task? p sl.task = some me →
      let i := Instr.tprio sd sa sb
      let a := (sl.ctx.reg sa).toNat
      let b := (sl.ctx.reg sb).toNat
      let above := slotLevel s.curCore sl = .u ∧ me.prio < b
      let target := if sa = 0 then some me else (s.task? p a).filter (fun t => t.state == .pending || t.state == .ready)
      (7 < b → exec i s = .next (s.trapped sl i 0x02)) ∧
      (b ≤ 7 → above → exec i s = .next (s.trapped sl i 0x10)) ∧
      (b ≤ 7 → ¬above → target = none → exec i s = .next (s.putSlot (sl.wrote sd (BitVec.ofInt 64 (-1))))) ∧
      (∀ t, b ≤ 7 → ¬above → target = some t → ∃ u x, exec i s = .next u ∧ here u = some (sl.wrote sd (BitVec.ofNat 64 t.prio)) ∧
        u.task? p t.id = some x ∧ x = { t with prio := b, order := x.order } ∧ (t.state ≠ .ready → x.order = t.order) ∧
        (t.state = .ready → x.order = s.clock) ∧ (∀ id, id ≠ t.id → u.task? p id = s.task? p id) ∧ sameMemory s u))

/-- Where it issues normally, an index above 255 raises 0x06 in each of the four. GJOIN makes the task a member or answers 1, 2 or 3 and changes no group; GLEAVE takes it out or answers 1; where everyone left has then arrived the phase goes up by one with no arrivals and its parked members become Ready. GBAR raises 0x0F for a non-member or in a LOOPP, waits for the slot's commands and accesses, and then arrives: the last arrival releases the phase and goes on with the old phase in sd, and any other parks its task with the arrival counted. GMEM reads phase, members and arrivals and changes nothing. -/
def Obligations.GroupInstructions : Prop :=
  ∀ (s : State) (sl : Slot) (sd sa imm : Nat),
    let p := sl.part
    let g := ((sl.ctx.reg sa).toNat + imm) % 65536
    let v := s.group p g
    let here := fun (u : State) => u.slot? s.curCore s.curSlot
    let wrote := fun (u : State) (n : Nat) => here u = some (sl.wrote sd (BitVec.ofNat 64 n))
    let released := fun (u : State) => (u.group p g).arrived = [] ∧ (u.group p g).phase = (v.phase + 1) % 18446744073709551616 ∧
      ∀ id t, id ∈ (u.group p g).members → s.task? p id = some t → t.state = .parkedWait → t.wait = some (.barrier g) → t.id ≠ sl.task →
        ∃ y, u.task? p id = some y ∧ y.state = .ready
    (∀ i ∈ [Instr.gjoin sd sa imm, .gleave sd sa imm, .gbar sd sa imm, .gmem sd sa imm], Issues s sl i → 255 < g →
      exec i s = .next (s.trapped sl i 0x06)) ∧
    (∀ t, g ≤ 255 → Issues s sl (.gjoin sd sa imm) → s.task? p sl.task = some t →
      let r := if t.groups.contains g then 1 else if 8 ≤ t.groups.length then 2 else if 65535 ≤ v.members.length then 3 else 0
      ∃ u, exec (.gjoin sd sa imm) s = .next u ∧ wrote u r ∧ sameMemory s u ∧ (r ≠ 0 → u.parts = s.parts) ∧
        (r = 0 → (u.group p g).members = v.members ++ [sl.task] ∧ (u.group p g).arrived = v.arrived ∧ (u.group p g).phase = v.phase)) ∧
    (g ≤ 255 → Issues s sl (.gleave sd sa imm) →
      (sl.task ∉ v.members → exec (.gleave sd sa imm) s = .next (s.putSlot (sl.wrote sd 1))) ∧
      (sl.task ∈ v.members → ∃ u, exec (.gleave sd sa imm) s = .next u ∧ wrote u 0 ∧ sameMemory s u ∧
        let rest := v.members.filter (fun x => x != sl.task)
        let came := v.arrived.filter (fun x => x != sl.task)
        (u.group p g).members = rest ∧ (rest ≠ [] ∧ came.length = rest.length → released u) ∧
        (rest = [] ∨ came.length ≠ rest.length → (u.group p g).arrived = came ∧ (u.group p g).phase = v.phase))) ∧
    (g ≤ 255 → Issues s sl (.gbar sd sa imm) →
      let done := s.cmdsHere.all (fun m => m.marker) = true ∧ sl.p0 = []
      (sl.task ∉ v.members ∨ sl.ctx.pipe ≠ none → exec (.gbar sd sa imm) s = .next (s.trapped sl (.gbar sd sa imm) 0x0F)) ∧
      (sl.task ∈ v.members → sl.ctx.pipe = none → ¬done → exec (.gbar sd sa imm) s = .next s.waiting) ∧
      (sl.task ∈ v.members → sl.ctx.pipe = none → done → ∃ u, exec (.gbar sd sa imm) s = .next u ∧ (u.group p g).members = v.members ∧
        (v.arrived.length + 1 = v.members.length → wrote u v.phase ∧ released u ∧ sameMemory s u) ∧
        (v.arrived.length + 1 ≠ v.members.length → (u.group p g).arrived = v.arrived ++ [sl.task] ∧ (u.group p g).phase = v.phase ∧
          ∀ t, s.task? p sl.task = some t → ∃ y, u.task? p sl.task = some y ∧ y.wait = some (.barrier g) ∧
            ((here u = none ∧ y.state = .parkedWait ∧ y.frameAt ≠ none) ∨
              ∃ w, here u = some w ∧ w.saving = some .parkedWait ∧ w.ctx = (sl.writeReg sd (BitVec.ofNat 64 v.phase)).ctx.stepOver)))) ∧
    (g ≤ 255 → Issues s sl (.gmem sd sa imm) → exec (.gmem sd sa imm) s = .next (s.putSlot (sl.wrote sd
      (BitVec.ofNat 64 (v.phase % 4294967296 * 4294967296 + v.members.length % 65536 * 65536 + v.arrived.length % 65536)))))

/-- With their checks passed, no gate or missing route in the way (log entry 77) and a current lease token, TLINC stores the saturated sum and TLSET the operand in the 8 bytes of the word, give sd the old value and change no other byte while no TLWAIT is parked; a stale token is 0x0D. TLWAIT goes on with a value that reaches its target, else parks its task before the word (log entry 19), raising 0x0F in a LOOPP; a parked TLWAIT that is tested becomes Ready, with the value for sd, once the word reaches its target, and not before, one that cannot be read staying parked (log entry 42). TLGET joins the outstanding accesses as an acquire load. RESQ reads a tile's entry or 0; RESHINT sets or clears the mask's hints of that tile and no other; both raise 0x02 and 0x06. -/
def Obligations.TimelinesAndResidency : Prop :=
  (∀ (s : State) (sl : Slot) (sd c sa sb scope : Nat) (t : Target),
    let cap := sl.ctx.cap c
    let off := (sl.ctx.reg sa).toNat
    let b := (sl.ctx.reg sb).toNat
    let loc := t.loc s.curCore sl.part
    let x := nowPiece t 8 off cap.oid
    let here := fun (u : State) => u.slot? s.curCore s.curSlot
    let refused := fun (i : Instr) (f : FaultRec) =>
      (f.hold = none → exec i s = .next (s.faulted sl i f)) ∧
      (f.hold = some .conduit → exec i s = .next (s.modSlot s.curCore s.curSlot (fun v => { v with stalled := true, heldAt := none })))
    (∀ set : Bool, let i := if set = true then Instr.tlset sd c sa sb scope else .tlinc sd c sa sb scope
      Issues s sl i → s.quiet sl = true →
      (∀ f, objAccess s s.curCore sl.part cap off 8 8 kAtom = .error f → refused i f) ∧
      (objAccess s s.curCore sl.part cap off 8 8 kAtom = .ok t →
        (∀ f, s.nowGate s.curCore sl.part x scope true = some f → refused i f) ∧
        (∀ y, s.nowGate s.curCore sl.part x scope true = none → s.stalePiece sl.part scope cap [x] = some y →
          exec i s = .next ((s.loseLease sl.part).faulted sl i (y.fault 0x0D true))) ∧
        (s.nowGate s.curCore sl.part x scope true = none → s.stalePiece sl.part scope cap [x] = none → s.locPoison loc 8 scope = false →
          (∀ q ∈ s.parts, ∀ x ∈ q.2.tasks, ∀ m o y w k, x.wait ≠ some (.timeline m o y w k)) →
          let old := leNat (s.locBytes loc 8 scope)
          let new := if set = true then b else min 18446744073709551615 (old + b)
          ∃ u, exec i s = .next u ∧ here u = some (sl.wrote sd (BitVec.ofNat 64 old)) ∧ sameBytesBut t.aper s.curCore t.addr 8 s u ∧
            ∀ j, j < 8 → u.byteAt t.aper s.curCore (t.addr + j) = BitVec.ofNat 8 (new / 256 ^ j)))) ∧
    (let i := Instr.tlwait sd c sa sb scope;
      Issues s sl i →
      (sl.ctx.pipe ≠ none → exec i s = .next (s.trapped sl i 0x0F)) ∧
      (sl.ctx.pipe = none → p0Free sl s.cmdsHere sl.seq 0 .acq = true →
        (∀ f, objAccess s s.curCore sl.part cap off 8 8 kLoad = .error f → refused i f) ∧
        (objAccess s s.curCore sl.part cap off 8 8 kLoad = .ok t →
          (∀ f, s.nowGate s.curCore sl.part x scope false = some f → refused i f) ∧
          (s.nowGate s.curCore sl.part x scope false = none → s.locPoison loc 8 scope = false →
            let v := leNat (s.locBytes loc 8 scope)
            (b ≤ v → ∃ u, exec i s = .next u ∧ here u = some (sl.wrote sd (BitVec.ofNat 64 v)) ∧ sameBytes s u) ∧
            (v < b → sl.p0 = [] → ∀ x, s.task? sl.part sl.task = some x → ∃ u y, exec i s = .next u ∧ u.task? sl.part sl.task = some y ∧
              y.wait = some (.timeline sd off scope (sl.ctx.reg sb) cap) ∧
              ((here u = none ∧ y.state = .parkedWait ∧ y.frameAt ≠ none) ∨
                ∃ w, here u = some w ∧ w.saving = some .parkedWait ∧ w.ctx = sl.ctx)))))) ∧
    (let i := Instr.tlget sd c sa scope;
      Issues s sl i →
      (∀ f, objAccess s s.curCore sl.part cap off 8 8 kLoad = .error f → refused i f) ∧
      (objAccess s s.curCore sl.part cap off 8 8 kLoad = .ok t → s.homeReset s.curCore sl.part t scope = false →
        s.accRoute sl.part t 8 scope false ≠ some .down → s.accRoute sl.part t 8 scope false ≠ some .fenced →
        ∃ u w a before, exec i s = .next u ∧ here u = some w ∧ w.p0 = before ++ [a] ∧ before.length = sl.p0.length ∧
          before.map (fun b => (b.seq, b.aper, b.addr, b.size)) = sl.p0.map (fun b => (b.seq, b.aper, b.addr, b.size)) ∧
          w.ctx = sl.pastWord.ctx ∧ sameMemory s u ∧
          a.op = .load sd ∧ a.ord = .acq ∧ a.cls = 0 ∧ a.scope = scope ∧ a.size = 8 ∧ a.addr = t.addr ∧ a.aper = t.aper ∧ a.seq = sl.seq))) ∧
  (∀ (s : State) (p id : Nat), p ≤ 64 →
    ((∀ t, s.task? p id = some t → t.state = .parkedWait → ∀ m o y w k, t.wait ≠ some (.timeline m o y w k)) →
      exec (.tlwaitRetest p id) s = .next s) ∧
    (∀ t sd off scope b cap, s.task? p id = some t → t.state = .parkedWait → t.wait = some (.timeline sd off scope b cap) →
      (s.timelineValue t off scope cap = none → exec (.tlwaitRetest p id) s = .next s) ∧
      (∀ w v, s.timelineValue t off scope cap = some (w, v) →
        (v < b.toNat → exec (.tlwaitRetest p id) s = .next s) ∧
        (b.toNat ≤ v → ∃ u y, exec (.tlwaitRetest p id) s = .next u ∧ u.task? p id = some y ∧ y.state = .ready ∧ y.age = 0 ∧ y.wait = none ∧
          y.passed = some (sd, BitVec.ofNat 64 v) ∧ sameMemory w u)))) ∧
  (∀ (s : State) (sl : Slot) (sd sa sb region mask : Nat) (clear : Bool),
    let a := (sl.ctx.reg sa).toNat
    let b := (sl.ctx.reg sb).toNat
    let r := if region = 0x7F then s.curCore else region
    let wide := 65536 ≤ a ∨ 1099511627776 ≤ b
    let absent := region ≠ 0x7F ∧ s.holds sl.part region = false
    (∀ i ∈ [Instr.resq sd sa sb region, .reshint sa sb region clear mask], Issues s sl i →
      (wide → exec i s = .next (s.trapped sl i 0x02)) ∧ (¬wide → absent → exec i s = .next (s.trapped sl i 0x06))) ∧
    (¬wide → ¬absent → Issues s sl (.resq sd sa sb region) → exec (.resq sd sa sb region) s = .next (s.putSlot (sl.wrote sd
      (match (s.region r).entry? a b with
       | some e => e.word
       | none => 0)))) ∧
    (¬wide → ¬absent → Issues s sl (.reshint sa sb region clear mask) → mask < 8 → ∃ u, exec (.reshint sa sb region clear mask) s = .next u ∧
      u.slot? s.curCore s.curSlot = some sl.pastWord ∧ sameMemory s u ∧ (∀ q, q ≠ r → u.region q = s.region q) ∧
      (clear = false → ∃ e, (u.region r).entry? a b = some e ∧
        resFlags e.word = Nat.lor (match (s.region r).entry? a b with | some x => resFlags x.word | none => 0) mask) ∧
      (clear = true → (∀ e ∈ (u.region r).resid, e.is a b = true → Nat.land (resFlags e.word) mask = 0) ∧
        ∀ e ∈ (s.region r).resid, e.is a b = false → resFlags e.word ≠ 0 → e ∈ (u.region r).resid)))

/-- A dispatch decision without an eligible pair changes nothing; otherwise its task is Ready, its slot free, its core suits it, the overdue task that has been Ready longest goes first, and without an overdue task no eligible Ready task has a higher effective priority; it waits while a read of the dispatch waits for a route (R364; log entry 8), and else DECN rises by one, and a fresh record runs there at CODE with FRAME in s1. A pre-emption request places markers, or waits for a pending transfer; at the drain limit the context is saved or waits for a frame; a spent slice pre-empts where a task waits and is renewed where none does. A handler record is entered as its template says; a save that waits is tried again. -/
def Obligations.DispatchAndSlotEvents : Prop :=
  (∀ (s : State) (p : Nat), p ≤ 64 →
    (s.choose p = none → exec (.dispatchDecision p) s = .next s) ∧
    (∀ t c k, s.choose p = some (t, c, k) →
      t ∈ (s.part p).tasks ∧ t.state = .ready ∧ (c, k) ∈ s.pairs t ∧ k < 4 ∧ s.slot? c k = none ∧
      ((∀ x ∈ (s.part p).tasks, x.state = .ready → s.pairs x ≠ [] → x.age < 32768) →
        ∀ x ∈ (s.part p).tasks, x.state = .ready → s.pairs x ≠ [] → x.effPrio ≤ t.effPrio) ∧
      (∀ x ∈ (s.part p).tasks, x.state = .ready → s.pairs x ≠ [] → 32768 ≤ x.age → 32768 ≤ t.age ∧ t.readyAt ≤ x.readyAt) ∧
      (∀ f, s.dispatchWaits t c = some f → exec (.dispatchDecision p) s = .next (s.waitDispatch t f)) ∧
      (t.part = p → s.task? p t.id = some t → t.frameAt = none → t.group = 0xFF → s.dispatchWaits t c = none → ∃ u v, exec (.dispatchDecision p) s = .next u ∧ u.slot? c k = some v ∧
        (u.part p).decn = (s.part p).decn + 1 ∧ v.part = p ∧ v.task = t.id ∧ v.sup = t.sup ∧ v.banks = t.banks ∧ v.phase = .run ∧ v.p0 = [] ∧
        v.ctx.pc = t.code % 281474976710656 ∧ v.ctx.reg 1 = t.frame ∧ (∀ n, n ≠ 1 → v.ctx.reg n = 0) ∧ v.ctx.loops = [] ∧ v.ctx.delay = none ∧
        v.ctx.pipe = none ∧ (∀ n, v.ctx.desc n = {}) ∧ ∃ y, u.task? p t.id = some y ∧ y.state = .running ∧ y.core = c))) ∧
  (∀ (s : State) (c k : Nat) (sl : Slot), c ≤ 64 → k ≤ 3 → s.slot? c k = some sl →
    let saved := fun (u : State) (st : TState) (f : Fate) => ∀ t, s.task? sl.part sl.task = some t → ∃ y, u.task? sl.part sl.task = some y ∧
      ((u.slot? c k = none ∧ y.state = st ∧ y.frameAt ≠ none) ∨ ∃ v, u.slot? c k = some v ∧ v.saving = some f ∧ v.ctx.pc = sl.ctx.pc)
    let spent := sl.phase = .run ∧ sl.saving = none ∧ s.budget sl.part ≠ 0 ∧ s.sliceLeft c sl = 0
    (sl.phase = .run → sl.saving = none →
      (sl.ctx.delay ≠ none → exec (.preemptionRequest c k) s = .next (s.setSlot c k { sl with phase := .preWait })) ∧
      (sl.ctx.delay = none → sl.ctx.pipe = none → ∃ u, exec (.preemptionRequest c k) s = .next u ∧
        u.slot? c k = some { sl with phase := .drain (s.tick + 20000), seq := sl.seq + 1 } ∧
        (u.core c).cmds = (s.core c).cmds ++ [Eng.vl, .va, .vs, .mx, .xf].map (preMarker k sl.seq)) ∧
      (∀ q, sl.ctx.delay = none → sl.ctx.pipe = some q → q.seg ≠ .kernel → exec (.preemptionRequest c k) s = .next (s.setSlot c k { sl with phase := .preWait })) ∧
      (∀ q, sl.ctx.delay = none → sl.ctx.pipe = some q → q.seg = .kernel → q.forced = false →
        ∃ u v r, exec (.preemptionRequest c k) s = .next u ∧ u.slot? c k = some v ∧ v.phase = .preWait ∧ v.ctx.pipe = some r ∧ r.forced = true ∧
          (v.ctx.lcv q.lc).toNat = min (sl.ctx.lcv q.lc).toNat q.depth ∧ v.ctx.rem + q.depth = max (sl.ctx.lcv q.lc).toNat q.depth)) ∧
    (∀ limit, sl.phase = .drain limit →
      (s.tick < limit → exec (.drainLimitExpiry c k) s = .next s) ∧
      (limit ≤ s.tick → ∃ u, exec (.drainLimitExpiry c k) s = .next u ∧ (sl.p0 = [] → saved u .ready .requeue) ∧
        ∀ m ∈ (u.core c).cmds, ¬(m.slot = k ∧ m.preMark = true))) ∧
    (¬spent → exec (.sliceExpiry c k) s = .next s) ∧
    (spent → (s.part sl.part).tasks.any (s.wanted c k) = true → exec (.sliceExpiry c k) s = exec (.preemptionRequest c k) s) ∧
    (spent → (s.part sl.part).tasks.any (s.wanted c k) = false →
      exec (.sliceExpiry c k) s = .next (s.setSlot c k { sl with slice := s.budget sl.part, sliceAt := s.cycles c })) ∧
    (sl.saving = none → exec (.frameSlotFreed c k) s = .next s) ∧
    (∀ f, sl.saving = some f → sl.p0 = [] → ∃ u, exec (.frameSlotFreed c k) s = .next u ∧
      (f ≠ .parkedWait → saved u (match f with | .parkedFault => .parkedFault | .failed => .failed | _ => .ready) f))) ∧
  (∀ (s : State), (s.grotto.pend.find? (fun h => s.hasEntry h.part) = none → exec .handlerRecordEntry s = .next s) ∧
    (∀ h, s.grotto.pend.find? (fun x => s.hasEntry x.part) = some h →
      let w := if h.hv = true then s.grotto.hvhndl else (s.part h.part).hndl
      ∃ u t, exec .handlerRecordEntry s = .next u ∧ sameMemory s u ∧ u.cores = s.cores ∧ u.grotto.pend = s.grotto.pend.erase h ∧
        t ∈ (u.part h.part).tasks ∧ t.id = (s.part h.part).nextId ∧ (u.part h.part).nextId = (s.part h.part).nextId + 1 ∧ t.state = .ready ∧
        t.sup = true ∧ t.code = w.toNat % 281474976710656 ∧ t.prio = w.toNat / 2 ^ 60 % 8 ∧ t.banks = w.toNat / 2 ^ 56 % 16 ∧
        t.spkib = 4 * (w.toNat / 2 ^ 48 % 256) ∧ t.flt.addr = BitVec.ofNat 64 h.fault.addr ∧ t.flt.code.toNat % 256 = h.fault.code % 256 ∧
        t.flt.task = BitVec.ofNat 64 (h.fpart % 64 * 281474976710656 + h.ftask)))

/-- Where it issues normally, TRAP takes a fault of code 0 with its immediate and operand, and resumes at the next word, a transfer in whose delay slot it stands staying pending with one word fewer to issue. ERET in a LOOPP or with an open balance raises 0x0F, its selector raises 0x02 or 0x06, and it waits for earlier accesses; it then makes its target Ready with AGE 0, ends it, or fails it with HV set and a handler of its partition where that has one, and its issuer ends (which targets it takes and waits for is log entry 41). A fetch that fails its checks takes that fault and changes nothing where it passes; one that meets uncorrectable data drops the line, and one that waits for a route stalls (R364; log entry 8). A word that is no instruction takes 0x01, 0x03, 0x10 or 0x02, in that order, and one whose only fault is its SCOPE 0x11 after the values it captures (R43). -/
def Obligations.TrapsReturnsAndBadWords : Prop :=
  (∀ (s : State) (sl : Slot) (sa imm : Nat) (hv : Bool), Issues s sl (.trap sa imm hv) →
    let taken := fun (x : Ctx) => exec (.trap sa imm hv) s = .next ((s.putSlot (sl.retire x)).raiseFault s.curCore s.curSlot
      { code := 0, addr := (sl.ctx.reg sa).toNat, tnum := imm, word := encode (.trap sa imm hv), pc := sl.ctx.pc } hv)
    (sl.ctx.delay = none → taken sl.pastWord.ctx) ∧
    (∀ d, sl.ctx.delay = some d → taken ({ sl.ctx with delay := some { d with left := d.left - 1 } }.arrive (sl.ctx.pc + 8) sl.ctx.atLast)) ∧
    (∀ d, sl.ctx.delay = some d → sl.ctx.pipe = none → taken { sl.ctx with pc := sl.ctx.pc + 8, delay := some { d with left := d.left - 1 } })) ∧
  (∀ (s : State) (sl : Slot) (sa : Nat) (form : EretForm), Issues s sl (.eret sa form) →
    let i := Instr.eret sa form
    let level := slotLevel s.curCore sl
    let w := (sl.ctx.reg sa).toNat
    let outside := sl.ctx.pipe = none ∧ sl.ctx.bal.all (fun q => q.2 == 0) = true
    let reserved := sa ≠ 0 ∧ (2 ^ 54 ≤ w ∨ (level ≠ .h ∧ 2 ^ 48 ≤ w))
    let named : Nat × Nat := if sa = 0 then (sl.flt.task.toNat / 281474976710656 % 64, sl.flt.task.toNat % 281474976710656)
      else (if level = .h then w / 281474976710656 % 64 else sl.part, w % 281474976710656)
    let accepted := fun (t : Task) => match form with
      | .res => (t.state = .failed ∨ (level = .h ∧ t.state = .parkedFault)) ∧ t.lost = false
      | .kill => t.state = .failed ∨ (level = .h ∧ t.state = .parkedFault)
      | .refl => t.state = .parkedFault
    let settled := (s.queued s.curCore s.curSlot).all (fun m => m.marker) = true ∧ sl.p0 = [] ∧ sl.deferred = [] ∧ sl.breaks = [] ∧ sl.trigAt = none
    (¬outside → exec i s = .next (s.trapped sl i 0x0F)) ∧
    (outside → reserved → exec i s = .next (s.trapped sl i 0x02)) ∧
    (outside → ¬reserved → (sa = 0 → sl.flt.task ≠ 0) → (∀ t, s.task? named.1 named.2 = some t → ¬accepted t) → exec i s = .next (s.trapped sl i 0x06)) ∧
    (outside → sa = 0 → sl.flt.task = 0 → exec i s = .next (s.trapped sl i 0x06)) ∧
    (∀ t, outside → ¬reserved → (sa = 0 → sl.flt.task ≠ 0) → s.task? named.1 named.2 = some t → accepted t →
      let placed := (s.slotOf named.1 named.2).isSome
      (s.quiet sl = false ∨ (form ≠ .kill ∧ placed = true) → exec i s = .next s.waiting) ∧
      (s.quiet sl = true → (form = .kill ∨ placed = false) → named ≠ (sl.part, sl.task) → ∃ u, exec i s = .next u ∧ sameMemory s u ∧
        (settled → u.slot? s.curCore s.curSlot = none ∧ u.task? sl.part sl.task = none) ∧
        (form = .res → ∃ y, u.task? named.1 named.2 = some y ∧ y.state = .ready ∧ y.age = 0) ∧
        (form = .kill → u.task? named.1 named.2 = none) ∧
        (form = .refl → (∃ y f, u.task? named.1 named.2 = some y ∧ y.state = .failed ∧ y.fault = some f ∧ f.hv = true ∧ (∀ g, t.fault = some g → f = { g with hv := true }) ∧
          ((s.part named.1).hndl.getLsbD 63 = true → u.grotto.pend = s.grotto.pend ++ [{ part := named.1, hv := false, fault := f, fpart := named.1, ftask := named.2 }])) ∧
          ((s.part named.1).hndl.getLsbD 63 = false → u.grotto.pend = s.grotto.pend ∧
            (s.host.log.length < 1024 → ∃ e, u.host.log = s.host.log ++ [e] ∧ e.cls = 6 ∧ e.part = named.1)))))) ∧
  (∀ (s : State) (sl : Slot) (w : Nat), s.slot? s.curCore s.curSlot = some sl → sl.issues = true → sl.ownFault = none →
    let free := slipOk sl s.cmdsHere
    (∀ f, s.fetch s.curCore sl = .error f →
      (free = true → f.hold = none → f.code ≠ 0x0E → exec .fetchCheckFault s = .next (s.raiseFault s.curCore s.curSlot { f with pc := sl.ctx.pc })) ∧
      (free = true → f.hold = none → f.code = 0x0E →
        exec .fetchCheckFault s = .next ((s.fetchLost s.curCore sl).raiseFault s.curCore s.curSlot { f with pc := sl.ctx.pc })) ∧
      (free = true → f.hold = some .conduit → exec .fetchCheckFault s =
        .next ((if f.code = 0x0E then s.fetchLost s.curCore sl else s).modSlot s.curCore s.curSlot (fun v => { v with stalled := true, heldAt := none }))) ∧
      (free = false → exec .fetchCheckFault s = .next s.waiting)) ∧
    (∀ v, s.fetch s.curCore sl = .ok v → exec .fetchCheckFault s = .next s) ∧
    ((∃ i, decodeWord w = some i) → exec (.illegalInstruction w) s = .next s) ∧
    (decodeWord w = none →
      let absent := ∃ b, wordFeature w = some b ∧ s.feature b = false
      let misplaced := (wordTransfer w = true ∧ sl.ctx.delay ≠ none) ∨ (wordBranch w = true ∧ nearLoopEnd sl.ctx sl.ctx.pc = true)
      let above := (slotLevel s.curCore sl).rank < (wordLevel w).rank
      (free = false → exec (.illegalInstruction w) s = .next s.waiting) ∧
      (free = true → decode w ≠ .refused 0x11 → ∃ code, exec (.illegalInstruction w) s = .next (s.raiseFault s.curCore s.curSlot
          { code := code, addr := sl.ctx.pc, word := w, pc := sl.ctx.pc }) ∧
        (decode w = .illegal ∨ absent → code = 0x01) ∧
        (decode w ≠ .illegal → ¬absent → misplaced → code = 0x03) ∧
        (decode w ≠ .illegal → ¬absent → ¬misplaced → above → code = 0x10) ∧
        (decode w ≠ .illegal → ¬absent → ¬misplaced → ¬above → code = 0x02)) ∧
      (∀ i, free = true → decode w = .refused 0x11 → build w = some i →
        let takes := fun (code : Nat) => exec (.illegalInstruction w) s = .next (s.raiseFault s.curCore s.curSlot
          { code := code, addr := sl.ctx.pc, word := w, pc := sl.ctx.pc })
        (absent → takes 0x01) ∧ (¬absent → misplaced → takes 0x03) ∧ (¬absent → ¬misplaced → above → takes 0x10) ∧
        (¬absent → ¬misplaced → ¬above → dependStall sl i = false → dueFault sl i = none →
          (i.valuesOk sl.ctx s.feature = false → takes 0x02) ∧ (i.valuesOk sl.ctx s.feature = true → takes 0x11)))))

/-- With a target that the entry accepts and whose frame can be read (log entries 41 and 17), MFSP writes the item's field of the frame to sd, MTSP makes the frame with the item replaced or raises 0x02 for a value it refuses, and FLTINFO writes the detail of its fault. CTXSV stores frame and window at the operand and nothing elsewhere, sd being their length, and .move then ends the task, or raises 0x0F with groups or edges. CTXLD raises 0x13 for a frame that fails its checks, answers 0 without a task entry or frame slot, and else enters a Ready task with a new id, no edges and no groups. -/
def Obligations.SavedContextInstructions : Prop :=
  ∀ (s : State) (sl : Slot) (sd sa sb c item scope : Nat) (t : Task),
    let level := slotLevel s.curCore sl
    let here := fun (u : State) => u.slot? s.curCore s.curSlot
    let wrote := fun (u : State) (w : Word) => exec (.mfsp sd sa item) s = .next (u.putSlot (sl.wrote sd w)) ∧ sameMemory s u
    let field := fun (b : List Byte) (at_ n : Nat) => BitVec.ofNat 64 (leNat ((b.drop at_).take n))
    let halted := t.state = .failed ∨ (level = .h ∧ t.state = .parkedFault)
    let idle := s.unsaved t = false
    (∀ i b u, Issues s sl (.mfsp sd sa item) → s.target sl sa (mfspTakes level) = .ok t → idle → t.frameAt = some i → s.savedFrame t i = .ok (b, u) →
      (item = 0 → wrote u 0) ∧ (∀ n, 0 < n → n < 64 → item = n → wrote u (field b (0x80 + 8 * n) 8)) ∧
      (∀ n, n < 4 → item = 0x40 + n → wrote u (field b (0x280 + 8 * n) 6)) ∧ (item = 0x44 → wrote u (field b 0x2C0 8)) ∧
      (∀ n, n < 4 → item = 0x48 + n → wrote u (field b (0x2A0 + 8 * n) 8)) ∧ (item = 0x50 → wrote u (field b 0x2C8 6)) ∧
      (item = 0x51 → wrote u (field b 0x2D0 8)) ∧ (item = 0x52 → wrote u (field b 0x2D8 1)) ∧ (item = 0x54 → wrote u (field b 0x2E0 8)) ∧
      (item = 0x55 → wrote u (field b 0x2F0 8)) ∧ (item = 0x57 → wrote u (field b 0x370 8))) ∧
    (Issues s sl (.mfsp sd sa item) → s.target sl sa (mfspTakes level) = .ok t → s.unsaved t = true → exec (.mfsp sd sa item) s = .next s.waiting) ∧
    (∀ code, Issues s sl (.mfsp sd sa item) → s.target sl sa (mfspTakes level) = .error code →
      exec (.mfsp sd sa item) s = .next (s.trapped sl (.mfsp sd sa item) code)) ∧
    (Issues s sl (.mtsp sa sb item) → s.target sl sa (stopped level) = .ok t →
      let i := Instr.mtsp sa sb item
      let v := (sl.ctx.reg sb).toNat
      halted ∧
      (item = 0x51 → v ≠ 0 → exec i s = .next (s.trapped sl i 0x02)) ∧
      (0x40 ≤ item → item < 0x44 → 281474976710656 ≤ v → exec i s = .next (s.trapped sl i 0x02)) ∧
      (∀ k w, itemRefuses s.feature item v = false → idle → t.frameAt = some k → s.patchFrame t k (putItem item v) = .ok w →
        exec i s = .next (w.putSlot sl.pastWord)) ∧
      (∀ k f, itemRefuses s.feature item v = false → idle → t.frameAt = some k → s.patchFrame t k (putItem item v) = .error f → f.hold = none →
        exec i s = .next (s.faulted sl i f) ∧ f.addr = s.frameAddr t.part k) ∧
      ∀ b : List Byte, b.length = frameSize t.banks →
        let q := putItem item v b
        let keeps := fun (lo hi : Nat) => ∀ j, j < lo ∨ hi ≤ j → q[j]? = b[j]?
        (item = 0 ∨ (0x54 ≤ item ∧ item ≤ 0x57) → q = b) ∧
        (0 < item → item < 64 → field q (0x80 + 8 * item) 8 = sl.ctx.reg sb ∧ keeps (0x80 + 8 * item) (0x88 + 8 * item)) ∧
        (∀ n, n < 4 → item = 0x48 + n → field q (0x2A0 + 8 * n) 8 = sl.ctx.reg sb ∧ keeps (0x2A0 + 8 * n) (0x2A8 + 8 * n)) ∧
        (item = 0x50 → field q 0x2C8 8 = BitVec.ofNat 64 (v % 281474976710656) ∧ (field q 0x2D0 8).toNat = (field b 0x2D0 8).toNat % 9223372036854775808 ∧ keeps 0x2C8 0x2D8)) ∧
    (∀ it, Issues s sl (.fltinfo sd sa it) → s.target sl sa (fun x => x.state == .parkedFault || x.state == .failed) = .ok t →
      exec (.fltinfo sd sa it) s = .next (s.putSlot (sl.wrote sd (match t.fault with
        | none => 0
        | some f => BitVec.ofNat 64 (match it with
          | .word => f.word
          | .pc => f.pc
          | .mpc => f.mpc
          | .oid => f.oid
          | .x0 => f.x0
          | .xhi => f.xhi
          | .leaf => f.leaf
          | .tick => f.tick))))) ∧
    (∀ move, Issues s sl (.ctxsv sd sa sb c move scope) → s.target sl sa (fun x => stopped level x && !x.lost) = .ok t →
      let i := Instr.ctxsv sd sa sb c move scope
      let off := (sl.ctx.reg sb).toNat
      let apart := fun (ts : List Piece) => ts.Pairwise (fun x y => sameStore x.tgt.aper s.curCore y.tgt.aper s.curCore = true →
        x.tgt.addr + x.len ≤ y.tgt.addr ∨ y.tgt.addr + y.len ≤ x.tgt.addr)
      let wrotePieces := fun (u : State) (ts : List Piece) (out : List Byte) => ∀ (m : Nat) (x : Piece), ts[m]? = some x →
        ∀ j d, j < x.len → out[x.off - off + j]? = some d → u.byteAt x.tgt.aper s.curCore (x.tgt.addr + j) = d
      (move = true → (t.groups ≠ [] ∨ t.edges ≠ []) → exec i s = .next (s.trapped sl i 0x0F)) ∧
      (∀ k b s0 s1 ts, (move = true → t.groups = [] ∧ t.edges = []) → idle → s.mayAccess sl .rel = true → t.frameAt = some k → s.savedFrame t k = .ok (b, s0) →
        let out := s0.exportBytes t b
        s0.storeObj sl (sl.ctx.cap c) off 128 scope out = .ok s1 [] →
        nowPieces s0 s.curCore sl.part (sl.ctx.cap c) kStore 128 (cuts 16 off out.length) = .ok ts →
        ∃ u, exec i s = .next u ∧ here u = some (sl.wrote sd (BitVec.ofNat 64 out.length)) ∧
          (∀ ap e a, (∀ x ∈ ts, sameStore x.tgt.aper s.curCore ap e = true → a < x.tgt.addr ∨ x.tgt.addr + x.len ≤ a) → u.byteAt ap e a = s.byteAt ap e a) ∧
          (apart ts → wrotePieces u ts out) ∧
          (move = true → (t.part, t.id) ≠ (sl.part, sl.task) → u.task? t.part t.id = none) ∧ (move = false → u.task? t.part t.id = s.task? t.part t.id))) ∧
    (Issues s sl (.ctxld sd sb c scope) → s.mayAccess sl .acq = true →
      let i := Instr.ctxld sd sb c scope
      let off := (sl.ctx.reg sb).toNat
      ∀ s1 h me, s.loadObj sl (sl.ctx.cap c) off 128 128 scope = .ok s1 h → s.task? sl.part sl.task = some me →
        (exportSize h = none → exec i s = .next (s.trapped sl i 0x13)) ∧
        (∀ n m s2 all, exportSize h = some (n, m) → s1.loadObj sl (sl.ctx.cap c) off (n + m) 128 scope = .ok s2 all →
          let good := frameOk s2.host.accepted (sl.part == 64) (s2.pinOk sl.part) (all.take n) (all.drop n)
          let spent := s2.freeFrame sl.part = none ∨ s2.hasEntry sl.part = false
          (good = false → exec i s = .next (s.trapped sl i 0x13)) ∧
          (good = true → spent → ∃ u, exec i s = .next u ∧ here u = some (sl.wrote sd 0) ∧ u.parts = s2.parts ∧ sameMemory s2 u) ∧
          (∀ k w, good = true → ¬spent → s2.freeFrame sl.part = some k →
            s2.putFrame sl.part k (refreshCrc (fput (all.take n) 7 1 (Nat.land (fget (all.take n) 7 1) 0xFD)) []) = .ok w →
            ∃ u y, exec i s = .next u ∧ here u = some (sl.wrote sd (BitVec.ofNat 64 (s.part sl.part).nextId)) ∧ sameBytes w u ∧
              y ∈ (u.part sl.part).tasks ∧ y.id = (s.part sl.part).nextId ∧ y.parent = sl.task ∧ y.state = .ready ∧ y.edges = [] ∧ y.groups = [] ∧
              y.fresh = false ∧ y.frameAt = some k ∧ y.prio = fget all 0x20 1 ∧ y.banks = fget all 6 1)))

/-- Once the slot's earlier stores are performed, TLBIV leaves in every region no tile entry of the tile, table or partition named and no node entry of that table or partition, and UNMAP none of its guest page, .clr also clearing V of a valid leaf and no other byte's, or answering 0 where the walk meets an invalid entry (log entry 37); both give TICK plus 64,000. Misaligned or large operands raise 0x0B or 0x06. MAPSYNC goes on once every effect point has passed (log entry 38). CSTWIN.open answers 1 while a task with SUP 0 runs, is parked or failed, and opens the window otherwise; .close waits for queued Cistern writes, after which a waiting host command has its turn. Entries whose lease has run out leave the caches. -/
def Obligations.TranslationInstructions : Prop :=
  ∀ (s : State) (sl : Slot) (sd sa sb : Nat),
    let a := (sl.ctx.reg sa).toNat
    let b := (sl.ctx.reg sb).toNat
    let p := selPart s.curCore sl
    let here := fun (u : State) => u.slot? s.curCore s.curSlot
    let point := BitVec.ofNat 64 (s.tick + 64000)
    let noted := fun (u : State) => ∃ v, here u = some v ∧ v.ctx = (sl.wrote sd point).ctx ∧ v.p0 = (sl.wrote sd point).p0 ∧ s.tick + 64000 ≤ v.effect ∧ sl.effect ≤ v.effect
    let nodes := fun (u : State) (gone : TlbEntry → Prop) => ∀ r, ∀ e ∈ (u.region r).nodes, e ∈ (s.region r).nodes ∧ ¬gone e
    let tiles := fun (u : State) (gone : TlbEntry → Prop) => ∀ r, ∀ e ∈ (u.region r).tileTlb, e ∈ (s.region r).tileTlb ∧ ¬gone e
    (∀ form, Issues s sl (.tlbiv sd sa sb form) → form ≠ .all → a % 64 ≠ 0 →
      exec (.tlbiv sd sa sb form) s = .next (s.trapped sl (.tlbiv sd sa sb form) 0x0B)) ∧
    (∀ form, Issues s sl (.tlbiv sd sa sb form) → (form ≠ .all → a % 64 = 0) → sl.storesDone = false →
      exec (.tlbiv sd sa sb form) s = .next s.waiting) ∧
    (∀ form, Issues s sl (.tlbiv sd sa sb form) → (form ≠ .all → a % 64 = 0) → sl.storesDone = true →
      ∃ u, exec (.tlbiv sd sa sb form) s = .next u ∧ noted u ∧ sameMemory s u ∧ u.parts = s.parts ∧
        (a < 281474976710656 → tiles u (fun e => match form with
          | .tile => e.k0 = tileKey p a ∧ e.k1 = b
          | .table => e.k0 = tileKey p a
          | .all => e.k0 / 281474976710656 = p) ∧
          nodes u (fun e => e.k0 = p ∧ (form = .all ∨ e.aux = tileKey p a))) ∧
        (∀ r, (u.region r).nestTlb = (s.region r).nestTlb ∧
          ∀ e ∈ (s.region r).tileTlb, e.k0 / 281474976710656 ≠ p → p < 128 → a < 281474976710656 → e ∈ (u.region r).tileTlb) ∧
        ∀ r, ∀ e ∈ (s.region r).nodes, e.k0 ≠ p → e ∈ (u.region r).nodes) ∧
    (∀ shoot, Issues s sl (.unmap sd sa shoot) →
      let i := Instr.unmap sd sa shoot
      let done := p ≠ 64 ∧ a % 2097152 = 0 ∧ a < 281474976710656 ∧ sl.storesDone = true
      let page := a / 2097152
      let shot := fun (u : State) => noted u ∧ tiles u (fun e => e.k0 / 281474976710656 = p ∧ e.page = page) ∧ nodes u (fun e => e.k0 = p ∧ e.page = page) ∧
        ∀ r, ∀ e ∈ (u.region r).nestTlb, e ∈ (s.region r).nestTlb ∧ ¬(e.k0 = p ∧ e.k1 = page)
      (p ≠ 64 → a % 2097152 ≠ 0 → exec i s = .next (s.trapped sl i 0x0B)) ∧
      (p = 64 ∨ (a % 2097152 = 0 ∧ 281474976710656 ≤ a) → exec i s = .next (s.trapped sl i 0x06)) ∧
      (p ≠ 64 → a % 2097152 = 0 → a < 281474976710656 → sl.storesDone = false → exec i s = .next s.waiting) ∧
      (done → shoot = true → ∃ u, exec i s = .next u ∧ shot u ∧ sameMemory s u) ∧
      (done → shoot = false → s.leafWalk p a = .invalid → exec i s = .next (s.putSlot (sl.wrote sd 0))) ∧
      (∀ at_ v, done → shoot = false → s.leafWalk p a = .leaf at_ v → s.pieceStop 64 4 true (nowPiece { aper := .system, addr := at_ } 8 sl.ctx.pc 0) = none →
        ∃ u, exec i s = .next u ∧ shot u ∧ sameBytesBut .system s.curCore at_ 8 s u ∧
          ∀ j, j < 8 → u.byteAt .system s.curCore (at_ + j) = BitVec.ofNat 8 (v % 9223372036854775808 / 256 ^ j))) ∧
    (Issues s sl .mapsync →
      let past := sl.effect ≤ s.tick ∧ ∀ x ∈ sl.unmaps, s.writeThrough x.1 x.2 = false
      (past → exec .mapsync s = .next (s.putSlot ({ sl with unmaps := [] } : Slot).pastWord)) ∧ (¬past → exec .mapsync s = .next s.waiting)) ∧
    (∀ close, Issues s sl (.cstwin sd close) →
      let i := Instr.cstwin sd close
      let answer := fun (n : Word) => exec i s = .next (s.putSlot (sl.wrote sd n))
      let shut := ∃ t ∈ (s.part p).tasks, t.sup = false ∧ (t.state = .running ∨ t.state = .parkedFault ∨ t.state = .parkedWait ∨ t.state = .failed)
      (p = 64 → exec i s = .next (s.trapped sl i 0x06)) ∧
      (p ≠ 64 → (s.part p).cstOpen = false → close = false → ¬shut → ∃ u, exec i s = .next u ∧ here u = some (sl.wrote sd 0) ∧ sameMemory s u ∧
        (u.part p).cstOpen = true ∧ ∀ q, q ≠ p → u.part q = s.part q) ∧
      (p ≠ 64 → (s.part p).cstOpen = false → close = false → shut → answer 1) ∧
      (p ≠ 64 → (s.part p).cstOpen = true → close = false → answer 0) ∧
      (p ≠ 64 → (s.part p).cstOpen = false → close = true → answer 0) ∧
      (p ≠ 64 → (s.part p).cstOpen = true → close = true → s.cisternBusy p = true → exec i s = .next s.waiting) ∧
      (p ≠ 64 → (s.part p).cstOpen = true → close = true → s.cisternBusy p = false → ∃ u, exec i s = .next u ∧
        here u = some (sl.wrote sd 0) ∧ (u.part p).cstOpen = false ∧ (s.host.queue = [] → sameMemory s u ∧ u.host = s.host ∧ ∀ q, q ≠ p → u.part q = s.part q) ∧
        ∀ h w, s.host.queue = [h] →
          h.work.now h.fn h.heldAt ((s.setPart p { s.part p with cstOpen := false }).modHost (fun x => { x with queue := [] })) = .done w →
          u = w.putSlot (sl.wrote sd 0))) ∧
    (∀ r, r ≤ 65 → ∃ u, exec (.translationLeaseExpiry r) s = .next u ∧ sameMemory s u ∧ u.cores = s.cores ∧ u.parts = s.parts ∧
      (∀ e, e ∈ (u.region r).tileTlb ↔ e ∈ (s.region r).tileTlb ∧ s.tick < e.till) ∧ (∀ e, e ∈ (u.region r).nestTlb ↔ e ∈ (s.region r).nestTlb ∧ s.tick < e.till) ∧
      (∀ e, e ∈ (u.region r).nodes ↔ e ∈ (s.region r).nodes ∧ s.tick < e.till) ∧ ∀ q, q ≠ r → u.region q = s.region q) ∧
    exec .cisternRefreshWindow s = .next s

/-- Where it issues normally: RGNASN gives a CLEAN region to its partition, OWNED or HELD by TDEM, and else answers 1, 2 or 3 and changes nothing; RGNWIN joins the windows of OWNED regions of the partition, and else raises 0x02, 0x06 or 0x15 or answers 1; RGNRST puts its region into RESET with its slots gone and tiles and scratchpad kept, a second only restarting the 4 µs; SCRUB starts, records or leaves each named region by its state, ends a wholly named partition's tasks (which regions count is log entry 46), and answers the mask; SCRUB.frame queues a frame; SCRST reads a region's progress or takes a clean frame. -/
def Obligations.RegionInstructions : Prop :=
  ∀ (s : State) (sl : Slot) (sd sa sb : Nat),
    let a := (sl.ctx.reg sa).toNat
    let p := (sl.ctx.reg sb).toNat
    let here := fun (u : State) => u.slot? s.curCore s.curSlot
    let put := fun (n : Nat) => Host.Outcome.next (ρ := Refusal) (φ := Fault) (s.putSlot (sl.wrote sd (BitVec.ofNat 64 n)))
    let st := fun (r : Nat) => (s.region r).state
    (Issues s sl (.rgnasn sd sa sb) →
      let i := Instr.rgnasn sd sa sb
      (65 < a ∨ 63 < p → exec i s = .next (s.trapped sl i 0x06)) ∧
      (63 < a → a ≤ 65 → p ≤ 63 → exec i s = put 3) ∧
      (a ≤ 63 → p ≤ 63 → (st a = .owned ∨ st a = .held) → exec i s = put 2) ∧
      (a ≤ 63 → p ≤ 63 → st a ≠ .owned → st a ≠ .held → st a ≠ .clean → exec i s = put 1) ∧
      (a ≤ 63 → p ≤ 63 → st a = .clean → ∃ u, exec i s = .next u ∧ here u = some (sl.wrote sd 0) ∧ sameBytes s u ∧
        (u.region a).state = (if (s.part p).pcfg.getLsbD 0 = true then .held else .owned) ∧ (u.region a).part = p ∧ (u.region a).group = 64 ∧
        (u.region a).base = 16 ∧ (u.region a).token = (s.region a).token ∧ (u.region a).l2 = [] ∧
        (∀ r, r ≠ a → (u.region r).state = st r ∧ (u.region r).part = (s.region r).part ∧ (u.region r).group = (s.region r).group ∧
          (u.region r).token = (s.region r).token) ∧ (p < 64 → (u.part p).lines = [] ∧ (u.part p).pinned = []) ∧
        (s.placement p = [] → (u.part p).hndl = 0 ∧ (u.part p).s2tb = 0 ∧ (u.part p).captn = 0 ∧ (u.part p).frmcnt = 0 ∧ (u.part p).decn = 0 ∧
          (u.part p).pcfg = (s.part p).pcfg))) ∧
    (Issues s sl (.rgnwin sd sa) →
      let i := Instr.rgnwin sd sa
      let q := selPart s.curCore sl
      let l := bitsOf 64 (sl.ctx.reg sa)
      let mine := fun (r : Nat) => (s.region r).part = q ∧ (st r = .owned ∨ st r = .held ∨ st r = .quiesce ∨
        (st r = .reset ∧ ((s.region r).ret = .owned ∨ (s.region r).ret = .held)))
      let held := fun (r : Nat) => st r = .held ∨ (st r = .reset ∧ (s.region r).ret = .held)
      (q = 64 → exec i s = .next (s.trapped sl i 0x06)) ∧
      (q ≠ 64 → l.length < 2 → exec i s = .next (s.trapped sl i 0x02)) ∧
      (q ≠ 64 → 2 ≤ l.length → (∃ r ∈ l, ¬mine r) → exec i s = .next (s.trapped sl i 0x06)) ∧
      (q ≠ 64 → 2 ≤ l.length → (∀ r ∈ l, mine r) → (∃ r ∈ l, held r) → exec i s = .next (s.trapped sl i 0x15)) ∧
      (q ≠ 64 → 2 ≤ l.length → (∀ r ∈ l, mine r) → (∀ r ∈ l, ¬held r) → (∃ r ∈ l, st r ≠ .owned) → exec i s = put 1) ∧
      (q ≠ 64 → 2 ≤ l.length → (∀ r ∈ l, mine r) → (∀ r ∈ l, st r = .owned) → ∃ u, exec i s = .next u ∧ here u = some (sl.wrote sd 0) ∧
        sameMemory s u ∧ (∀ x y, x ∈ l → y ∈ l → y ∈ u.windowGroup x) ∧ ∀ r, (u.region r).state = st r ∧ (u.region r).part = (s.region r).part)) ∧
    (Issues s sl (.rgnrst sd sa) →
      let i := Instr.rgnrst sd sa
      (65 < a → exec i s = .next (s.trapped sl i 0x06)) ∧ (63 < a → a ≤ 65 → exec i s = .next (s.putSlot (sl.wrote sd (BitVec.allOnes 64)))) ∧
      (a ≤ 63 → ∃ u w, exec i s = .next u ∧ here u = some (sl.wrote sd w) ∧ (u.region a).state = .reset ∧ (u.region a).resetAt = s.tick ∧
        w = (u.region a).scrprog ∧ ((u.region a).done < 4294967296 → w.toNat / 2 ^ 60 = 7) ∧
        (st a = .reset → (u.region a).ret = (s.region a).ret ∧ sameMemory s u ∧ u.core a = s.core a) ∧
        (st a ≠ .reset →
          (u.region a).ret = (match st a with | .owned => .owned | .held => .held | .quiesce => .scrub | .scrub => .scrub | .sign => .scrub | _ => .dirty) ∧
          (u.region a).restarts = (if st a = .scrub ∨ st a = .sign then min 255 ((s.region a).restarts + 1) else (s.region a).restarts) ∧
          (u.region a).base = 16 ∧ (u.region a).resid = [] ∧ (u.region a).tileTlb = [] ∧ (u.region a).nestTlb = [] ∧ (u.region a).nodes = [] ∧
          (∀ k, u.slot? a k = none) ∧ (u.core a).cmds = [] ∧ (u.core a).sluices = [] ∧
          (u.region a).peers = (s.windowGroup a).filter (fun q => q != a) ∧ (u.region a).group = 64 ∧ (u.core a).cells = (s.core a).cells ∧
          ((∀ k v x, s.slot? a k = some v → x ∈ v.p0 → x.aper = .spad → x.req = .fresh) → (u.core a).spad = (s.core a).spad)))) ∧
    (Issues s sl (.scrub sd sa true) →
      let i := Instr.scrub sd sa true
      (1099511627776 ≤ a → exec i s = .next (s.trapped sl i 0x02)) ∧
      (a < 1099511627776 → 1024 ≤ s.grotto.scrubQ.length → exec i s = put 1) ∧
      (a < 1099511627776 → s.grotto.scrubQ.length < 1024 → ∃ u, exec i s = .next u ∧ here u = some (sl.wrote sd 0) ∧ sameMemory s u ∧
        u.grotto.scrubQ = s.grotto.scrubQ ++ [a] ∧ u.regions = s.regions)) ∧
    (Issues s sl (.scrub sd sa false) → sl.part = 64 →
      let i := Instr.scrub sd sa false
      let named := fun (r : Nat) => r < 64 ∧ (sl.ctx.reg sa).getLsbD r = true
      let idle := fun (r : Nat) => st r = .dirty ∨ st r = .clean
      let used := fun (r : Nat) => st r = .owned ∨ st r = .held
      let later := fun (r : Nat) => st r = .reset ∧ (s.region r).ret ≠ .scrub
      (a = 0 → exec i s = .next (s.trapped sl i 0x02)) ∧
      (a ≠ 0 → ∃ u w, exec i s = .next u ∧ here u = some (sl.wrote sd w) ∧ sameBytes s u ∧
        (∀ r, r < 64 → (w.getLsbD r = true ↔ named r ∧ (idle r ∨ used r ∨ later r))) ∧
        (∀ r, named r → idle r → (u.region r).state = .scrub ∧ (u.region r).part = 0xFF) ∧
        (∀ r, named r → used r → (u.region r).state = .quiesce ∧ (u.region r).part = (s.region r).part) ∧
        (∀ r, named r → (idle r ∨ used r) → (u.region r).token = none ∧ (u.region r).scount = (s.region r).scount + 1 ∧ (u.region r).phase = 0 ∧
          (u.region r).restarts = 0) ∧
        (∀ r, named r → later r → (u.region r).state = .reset ∧ (u.region r).recorded = true) ∧
        (∀ r, ¬(named r ∧ (idle r ∨ used r)) → (u.region r).state = st r ∧ (u.region r).token = (s.region r).token) ∧
        (∀ q, q < 64 → s.placement q ≠ [] → (∀ r ∈ s.placement q, named r) → (u.part q).tasks = [] ∧ (u.part q).rill.pub = false ∧
          ∀ b ∈ u.grotto.bindings, b.part ≠ q))) ∧
    (Issues s sl (.scrst sd sa true) →
      (s.grotto.clean = [] → exec (.scrst sd sa true) s = .next s.waiting) ∧
      (∀ f fs, s.grotto.clean = f :: fs → ∃ u, exec (.scrst sd sa true) s = .next u ∧ here u = some (sl.wrote sd (BitVec.ofNat 64 f)) ∧
        u.grotto.clean = fs ∧ sameMemory s u)) ∧
    (Issues s sl (.scrst sd sa false) →
      (63 < a → exec (.scrst sd sa false) s = .next (s.trapped sl (.scrst sd sa false) 0x06)) ∧
      (a ≤ 63 → ∃ w, exec (.scrst sd sa false) s = .next (s.putSlot (sl.wrote sd w)) ∧ w = (s.region a).scrprog ∧
        ((s.region a).done < 4294967296 → (s.region a).phase < 16 → w.toNat % 4294967296 = (s.region a).done ∧
          w.toNat / 2 ^ 40 % 256 = min 255 (s.region a).restarts ∧ w.toNat / 2 ^ 60 = (s.region a).state.code ∧
          w.toNat / 2 ^ 56 % 16 = (if st a = .scrub then (s.region a).phase else 0))))

/-- A reset is released 4 µs after its last assertion into the state it returns to, where a recorded scrub then starts; a quiesced region with no task and no command enters phase 0 outside its window group, and tasks whose window it held are parked with 0x14; each unit of a phase clears its part of the structures and no other byte (the Reservoir lines left with the region, R329, so that phase 4 finds none), a phase whose units are all done is followed by the next, and after phase 6 the region waits for the signer; the signer gives the first waiting region its 128-byte token body and makes it CLEAN, signed while a leaf is left and unsigned in an exhausted boot; a frame's scrub forgets its lines and leaves, zeroes a pinned copy, and its acknowledgement leaves it zero in the clean pool. -/
def Obligations.RegionAndFrameEvents : Prop :=
  (∀ (s : State) (r : Nat), r ≤ 63 →
    let g := s.region r
    let due := g.state = .reset ∧ g.resetAt + 4000 ≤ s.tick
    let ready := g.state = .quiesce ∧ (s.core r).slots = [] ∧ (s.core r).cmds = []
    let units := if g.phase = 1 then 128 else if g.phase = 2 ∨ g.phase = 3 then 256 else if g.phase = 4 then 192 else
      if g.phase = 6 then (if g.keyPhase = true then 1 else 0) else 1
    (¬due → exec (.regionResetRelease r) s = .next s) ∧
    (due → ∃ u, exec (.regionResetRelease r) s = .next u ∧ sameBytes s u ∧ (u.region r).peers = [] ∧
      (∀ q, q ≠ r → (u.region q).state = (s.region q).state ∧ (u.region q).part = (s.region q).part ∧ (u.region q).token = (s.region q).token ∧
        (u.region q).group = (s.region q).group) ∧
      (g.recorded = false → (u.region r).state = g.ret ∧ (u.region r).token = g.token ∧ u.cores = s.cores) ∧
      (g.recorded = true → (g.ret = .dirty ∨ g.ret = .clean) → (u.region r).state = .scrub ∧ (u.region r).scount = g.scount + 1 ∧ (u.region r).token = none) ∧
      (g.recorded = true → (g.ret = .owned ∨ g.ret = .held) → (u.region r).state = .quiesce ∧ (u.region r).scount = g.scount + 1 ∧ (u.region r).token = none)) ∧
    (¬ready → exec (.quiesceComplete r) s = .next s) ∧
    (ready → ∃ u, exec (.quiesceComplete r) s = .next u ∧ sameBytes s u ∧ (u.region r).state = .scrub ∧ (u.region r).phase = 0 ∧ (u.region r).group = 64 ∧
      (u.region r).sseq = g.sseq ∧ (g.part < 64 → s.grotto.hvhndl.getLsbD 63 = true → ∀ t ∈ (s.part g.part).tasks, t.part = g.part →
        (∀ x ∈ (s.part g.part).tasks, x.id = t.id → x = t) → (t.state = .ready ∨ t.state = .parkedWait) → t.windowIn r = true →
          ∃ y f, u.task? g.part t.id = some y ∧ y.state = .parkedFault ∧ y.window = none ∧ y.winLost = true ∧ y.fault = some f ∧ f.code = 0x14)) ∧
    (g.state ≠ .scrub ∨ g.done < units → exec (.scrubPhaseComplete r) s = .next s) ∧
    (g.state = .scrub → units ≤ g.done → ∃ u, exec (.scrubPhaseComplete r) s = .next u ∧ (∀ q, q ≠ r → u.region q = s.region q) ∧ u.cores = s.cores ∧
      sameMemory s u ∧ (u.region r).done = 0 ∧ (g.phase < 6 → (u.region r).state = .scrub ∧ (u.region r).phase = g.phase + 1) ∧
      (6 ≤ g.phase → (u.region r).state = .sign ∧ (u.region r).doneTick = s.tick ∧ u.grotto.signQ = s.grotto.signQ ++ [r])) ∧
    (let u := s.scrubUnit r;
      (g.state ≠ .scrub ∨ units ≤ g.done → u = s) ∧
      (g.state = .scrub → g.done < units → (u.region r).done = g.done + 1 ∧ (u.region r).state = .scrub ∧ (u.region r).phase = g.phase ∧
        (∀ q, q ≠ r → u.region q = s.region q ∧ u.core q = s.core q) ∧
        (g.phase = 0 → (u.core r).cells = [] ∧ (u.core r).cmds = [] ∧ (u.core r).sluices = [] ∧ (u.core r).icache = []) ∧
        (g.phase = 1 → ∀ a, u.byteAt .spad r a = (if a / 4096 = g.done then 0 else s.byteAt .spad r a)) ∧
        (g.phase = 2 → g.done = 255 → (u.region r).l2 = [] ∧ (u.region r).l2Err = []) ∧
        (g.phase = 3 → ∀ c a, u.byteAt .cistern c a = (if a / 1048576 = 256 * r + g.done then 0 else s.byteAt .cistern c a)) ∧
        (g.phase = 4 → u = s.modRegion r (fun h => { h with done := g.done + 1 })) ∧
        (g.phase = 5 → (u.region r).resid = [] ∧ (u.region r).tileTlb = [] ∧ (u.region r).nestTlb = [] ∧ (u.region r).nodes = [] ∧
          (u.region r).base = 16 ∧ (u.region r).group = 64) ∧
        (g.phase = 6 → g.part < 64 → ∀ k, mget none (u.part g.part).keys k = none) ∧
        (g.phase ≠ 1 → ∀ c a, u.byteAt .spad c a = s.byteAt .spad c a) ∧ (g.phase ≠ 3 → ∀ c a, u.byteAt .cistern c a = s.byteAt .cistern c a) ∧
        ∀ c a, u.byteAt .system c a = s.byteAt .system c a))) ∧
  (∀ (s : State), (s.grotto.signQ = [] → exec .tokenSigned s = .next s) ∧
    (∀ r rs, s.grotto.signQ = r :: rs →
      (s.exh = false → s.sigLeft = 0 → exec .tokenSigned s = .next s) ∧
      ((s.exh = true ∨ s.sigLeft ≠ 0) → ∃ u t, exec .tokenSigned s = .next u ∧ sameMemory s u ∧ (u.region r).state = .clean ∧ (u.region r).part = 0xFF ∧
        (u.region r).token = some t ∧ t.signed = !s.exh ∧ t.body.length = 128 ∧ leNat (t.body.take 4) = 0x5742544B ∧ t.body[6]? = some (BitVec.ofNat 8 r) ∧
        leNat ((t.body.drop 8).take 8) = (s.region r).sseq % 2 ^ 64 ∧ t.body[18]? = some (if s.exh = true then 0 else 1) ∧ t.bytes.length = 3732 ∧
        u.grotto.signQ = rs ∧ u.grotto.sigUsed = (if s.exh = true then s.grotto.sigUsed else s.grotto.sigUsed + 1) ∧ ∀ q, q ≠ r → u.region q = s.region q))) ∧
  (∀ (s : State) (idx f : Nat) (fs : List Nat),
    let room := s.grotto.scrubbing.length < 4 ∧ s.grotto.clean.length + s.grotto.scrubbing.length < 16384
    let sent := ∃ n, s.route (s.sliceOf f) 0 = .sent n
    (s.grotto.scrubQ = [] → exec .frameScrubStart s = .next s) ∧
    (s.grotto.scrubQ = f :: fs → ¬room → exec .frameScrubStart s = .next s) ∧
    (s.grotto.scrubQ = f :: fs → room → ∃ u, exec .frameScrubStart s = .next u ∧ (s.pinnedFrame f = false → sameBytes s u) ∧
      (s.pinnedFrame f = true → ∀ c a, u.byteAt .system c a = (if a / 2097152 = f then 0 else s.byteAt .system c a)) ∧ u.grotto.scrubQ = fs ∧
      u.grotto.scrubbing = s.grotto.scrubbing ++ [f] ∧ u.grotto.clean = s.grotto.clean ∧ (∀ p, ∀ l ∈ (u.part p).lines, l ∈ (s.part p).lines ∧ l.line / 16384 ≠ f) ∧
      (∀ q, q < 64 → ∀ l ∈ (u.region q).l2, l ∈ (s.region q).l2 ∧ l.line / 16384 ≠ f) ∧
      ∀ r, ∀ e ∈ (u.region r).nestTlb, e ∈ (s.region r).nestTlb ∧ leafNames e.val f = false) ∧
    (s.grotto.scrubbing[idx]? = none → exec (.scrubOnFreeAck idx) s = .next s) ∧
    (s.grotto.scrubbing[idx]? = some f → ¬sent → exec (.scrubOnFreeAck idx) s = .next s) ∧
    (s.grotto.scrubbing[idx]? = some f → sent → ∃ u, exec (.scrubOnFreeAck idx) s = .next u ∧ u.grotto.clean = s.grotto.clean ++ [f] ∧
      u.grotto.scrubbing = s.grotto.scrubbing.eraseIdx idx ∧ u.cores = s.cores ∧
      ∀ c a, u.byteAt .system c a = (if a / 2097152 = f then 0 else s.byteAt .system c a)))

/-- Where it issues normally: TOKCHK.chk makes a HELD region OWNED with answer 0 when the number matches, and else answers 1, 2 or 3 and changes nothing; .get stores the 3,732 bytes within its object, or answers 0 without a token; KEYZ waits while a gate holds a request that is on a conduit under a named slot (R353, log entry 52), and else empties the named key slots and no other and answers those that held a key; MSGF puts a well-formed image into its entry, keeping the slots in use, or raises 0x02 (log entry 53); XENQ answers 2, 1 or 3, in the order of log entry 54, and delivers nothing, or writes 64 bytes at the lowest free mailbox slot of DST and enters a task there. A region or partition that may not be named raises 0x06. -/
def Obligations.TokensKeysAndMessages : Prop :=
  ∀ (s : State) (sl : Slot) (sd sa sb c imm : Nat),
    let a := (sl.ctx.reg sa).toNat
    let b := (sl.ctx.reg sb).toNat
    let here := fun (u : State) => u.slot? s.curCore s.curSlot
    let cap := sl.ctx.cap c
    let put := fun (n : Nat) => Host.Outcome.next (ρ := Refusal) (φ := Fault) (s.putSlot (sl.wrote sd (BitVec.ofNat 64 n)))
    let st := (s.region a).state
    let mine := (s.region a).part = sl.part ∧ (st = .owned ∨ st = .held ∨ st = .quiesce ∨ (st = .reset ∧ ((s.region a).ret = .owned ∨ (s.region a).ret = .held)))
    let may := a < 64 ∧ (slotLevel s.curCore sl = .h ∨ mine)
    let matching := (s.region a).token ≠ none ∧ (s.region a).tokseq.toNat = b
    (∀ get, Issues s sl (.tokchk sd sa sb c get) → ¬may → exec (.tokchk sd sa sb c get) s = .next (s.trapped sl (.tokchk sd sa sb c get) 0x06)) ∧
    (Issues s sl (.tokchk sd sa sb c false) → may →
      let i := Instr.tokchk sd sa sb c false
      (st = .held → matching → ∃ u, exec i s = .next u ∧ here u = some (sl.wrote sd 0) ∧ sameMemory s u ∧
        (u.region a).state = .owned ∧ (u.region a).part = (s.region a).part ∧ (u.region a).token = (s.region a).token ∧
        ∀ q, q ≠ a → (u.region q).state = (s.region q).state ∧ (u.region q).part = (s.region q).part ∧ (u.region q).token = (s.region q).token) ∧
      (st = .held → ¬matching → exec i s = put 1) ∧ (st = .owned → exec i s = put 2) ∧ (st ≠ .held → st ≠ .owned → exec i s = put 3)) ∧
    (Issues s sl (.tokchk sd sa sb c true) → may →
      let i := Instr.tokchk sd sa sb c true
      (b % 8 ≠ 0 → ∃ f, exec i s = .next (s.faulted sl i f) ∧ (cap.grants kStore.cap = false → f.code = 0x07) ∧
        (cap.grants kStore.cap = true → (b < cap.lo ∨ cap.hi < b + 3732) → f.code = 0x06) ∧
        (cap.grants kStore.cap = true → cap.lo ≤ b → b + 3732 ≤ cap.hi → f.code = 0x0B)) ∧
      (b % 8 = 0 → (s.region a).token = none → exec i s = put 0) ∧
      (∀ t s1 ts, b % 8 = 0 → (s.region a).token = some t → s.mayAccess sl .rel = true → s.storeObj sl cap b 8 5 t.bytes = .ok s1 [] →
        nowPieces s s.curCore sl.part cap kStore 8 (cuts 16 b t.bytes.length) = .ok ts →
        ∃ u, exec i s = .next u ∧ here u = some (sl.wrote sd 3732) ∧ u.regions = s1.regions ∧
          (∀ ap e x, (∀ y ∈ ts, sameStore y.tgt.aper s.curCore ap e = true → x < y.tgt.addr ∨ y.tgt.addr + y.len ≤ x) → u.byteAt ap e x = s.byteAt ap e x) ∧
          (ts.Pairwise (fun x y => sameStore x.tgt.aper s.curCore y.tgt.aper s.curCore = true → x.tgt.addr + x.len ≤ y.tgt.addr ∨ y.tgt.addr + y.len ≤ x.tgt.addr) →
            ∀ y ∈ ts, ∀ j d, j < y.len → t.bytes[y.off - b + j]? = some d → u.byteAt y.tgt.aper s.curCore (y.tgt.addr + j) = d))) ∧
    (Issues s sl (.keyz sd sa) →
      let i := Instr.keyz sd sa
      let p := selPart s.curCore sl
      (p = 64 → exec i s = .next (s.trapped sl i 0x06)) ∧
      (p ≠ 64 → 65536 ≤ a → exec i s = .next (s.trapped sl i 0x02)) ∧
      (p ≠ 64 → a < 65536 → (s.landAll p a).keyTraffic p a = true → exec i s = .next (s.landAll p a).waiting) ∧
      (p ≠ 64 → a < 65536 → sl.part ≠ p → (s.landAll p a).keyTraffic p a = false → ∃ u w, exec i s = .next u ∧ here u = some (sl.wrote sd w) ∧
        (∀ n, n < 64 → (w.getLsbD n = true ↔ a.testBit n = true ∧ mget none (s.part p).keys n ≠ none)) ∧
        ∀ n, (mget none (u.part p).keys n).map (fun x => x.key) = (if a.testBit n = true then none else (mget none (s.part p).keys n).map (fun x => x.key)))) ∧
    (Issues s sl (.msgf sd sa c imm) → s.mayAccess sl .acq = true → ∀ s1 d, s.loadObj sl cap a 32 32 4 = .ok s1 d →
      let i := Instr.msgf sd sa c imm
      let w0 := leNat (d.take 8)
      let w1 := leNat ((d.drop 8).take 8)
      let w2 := leNat ((d.drop 16).take 8)
      let bad := w0.testBit 62 = true ∨ w0 / 2 ^ 54 % 4 ≠ 0 ∨ w2.testBit 60 = true ∨ w2 % 2 ^ 48 ≠ 0 ∨ w0 / 2 ^ 56 % 64 = w0 / 2 ^ 48 % 64 ∨
        (w0.testBit 63 = true ∧ w1 / 2 ^ 48 = 0) ∨ w1 % 64 ≠ 0 ∨ 128 < w2 / 2 ^ 48 % 256
      let old := mget {} s.grotto.filter imm
      (bad → exec i s = .next (s.trapped sl i 0x02)) ∧
      (¬bad → ∃ u, exec i s = .next u ∧ here u = some (sl.wrote sd (BitVec.ofNat 64 old.used.length)) ∧ sameMemory s1 u ∧
        mget {} u.grotto.filter imm = { w0 := BitVec.ofNat 64 w0, w1 := BitVec.ofNat 64 w1, w2 := BitVec.ofNat 64 w2, used := old.used } ∧
        ∀ n, n ≠ imm → mget {} u.grotto.filter n = mget {} s.grotto.filter n)) ∧
    (Issues s sl (.xenq sd sa c imm) → s.quiet sl = true → ∀ s1 d, s.loadObj sl cap a 64 64 3 = .ok s1 d →
      let i := Instr.xenq sd sa c imm
      let e := mget {} s.grotto.filter imm
      let dst := e.w0.toNat / 2 ^ 48 % 64
      let nslot := e.w1.toNat / 2 ^ 48
      let base := e.w1.toNat % 2 ^ 48
      let wrong := e.w0.getLsbD 63 = false ∨ e.w0.toNat / 2 ^ 56 % 64 ≠ sl.part
      let full := ∀ n, n < nslot → n ∈ e.used
      let silent := fun (n : Word) => ∃ u, exec i s = .next u ∧ here u = some (sl.wrote sd n) ∧ sameMemory s1 u ∧ u.parts = s1.parts ∧ u.grotto = s.grotto
      (wrong → silent 2) ∧
      (¬wrong → full → silent 1) ∧
      (¬wrong → ¬full → s.regionsOf dst (fun g => g.state == .owned) = [] → silent 3) ∧
      (∀ n k ns t, ¬wrong → n < nslot → n ∉ e.used → (∀ m, m < n → m ∈ e.used) → s.regionsOf dst (fun g => g.state == .owned) ≠ [] →
        s1.tableEntry s.curCore dst 1 = .ok (some k, ns) → objAccess s1 s.curCore dst k (base + 64 * n) 64 1 kStore = .ok t →
        s1.nowGate s.curCore dst (nowPiece t 64 (base + 64 * n) k.oid) 5 true = none →
        s1.stalePiece dst 5 k [nowPiece t 64 (base + 64 * n) k.oid] = none → s1.hasEntry dst = true →
        ∃ u x, exec i s = .next u ∧ here u = some (sl.wrote sd 0) ∧ sameBytesBut t.aper s.curCore t.addr 64 s u ∧
          (∀ j v, d[j]? = some v → u.byteAt t.aper s.curCore (t.addr + j) = v) ∧ (mget {} u.grotto.filter imm).used = e.used ++ [n] ∧
          x ∈ (u.part dst).tasks ∧ x.id = (s.part dst).nextId ∧ x.state = .ready ∧ x.sup = false ∧ x.code = e.w0.toNat % 2 ^ 48 ∧
          x.frame = BitVec.ofNat 64 (base + 64 * n) ∧ x.prio = e.w2.toNat / 2 ^ 61 ∧ x.banks = e.w2.toNat / 2 ^ 56 % 16 ∧ x.mailbox = some (imm, n) ∧ x.parent = 0))

/-- With no request, acquire or pool-side write waiting, an event for a conduit in the state that the table of R358 gives it moves that conduit alone, keeps every byte, core and partition, and logs the conduit with its lanes (log entry 55); the first two failed attempts only count; an event for another state changes nothing; a drain ends only when no access of a slot is outstanding, and a request of a saved context then comes back with retry status (log entry 88). Join goes to every slice once a conduit is UP, and an accepted Join opens its slice. A recall that a conduit carries removes exactly the lines of its range and is acknowledged, and one that none carries does nothing (R358); an expired read lease removes its line. -/
def Obligations.ConduitEvents : Prop :=
  (∀ (s : State) (n : Nat), n ≤ 47 →
    let x := s.conduit n
    let quiet := (∀ y ∈ s.slots, ∀ a ∈ y.2.2.p0, a.req ≠ .held) ∧ (∀ q ∈ s.parts, q.2.acq = none) ∧ s.links.waits = []
    let clear := ∀ y ∈ s.slots, ∀ a ∈ y.2.2.p0, a.req ≠ .sent n
    let saved := ∀ q ∈ s.parts, ∀ t ∈ q.2.tasks, ∀ a ∈ t.p0, a.req ≠ .sent n
    let evs := [(Instr.drainComplete n, CState.draining), (.trainingAttemptSuccess n, .training), (.trainingAttemptFail n, .training),
      (.retuneComplete n, .retuning), (.retuneFail n, .retuning)]
    let moves := fun (i : Instr) (y : Conduit) => ∃ u, exec i s = .next u ∧ u.conduit n = y ∧ (∀ m, m ≠ n → u.conduit m = s.conduit m) ∧
      u.links.topo = s.links.topo ∧ sameMemory s u ∧ u.cores = s.cores ∧ u.parts = s.parts ∧ u.regions = s.regions ∧
      (s.host.log.length < 1024 → ∃ e, u.host.log = s.host.log ++ [e] ∧ e.tick = s.tick ∧ e.cls = 2 ∧ e.block = 5 ∧ e.part = 0xFF ∧
        e.dropped = s.host.dropped ∧ e.addr = n ∧ e.detail = u.lanes n) ∧
      (1024 ≤ s.host.log.length → u.host.log = s.host.log ∧ u.host.dropped = s.host.dropped + 1)
    (∀ e ∈ evs, x.state ≠ e.2 → exec e.1 s = .next s) ∧
    (x.state = .draining → ¬clear → exec (.drainComplete n) s = .next s) ∧
    (x.state = .training → x.tries < 2 → ∃ u, exec (.trainingAttemptFail n) s = .next u ∧ u.conduit n = { x with tries := x.tries + 1 } ∧
      (∀ m, m ≠ n → u.conduit m = s.conduit m) ∧ u.host = s.host ∧ sameMemory s u ∧ u.cores = s.cores ∧ u.parts = s.parts) ∧
    (∀ i, i = .lossOfSignal n ∨ i = .linkRetryExhausted n →
      ((x.state = .down ∨ x.state = .drained) → exec i s = .next s) ∧
      (x.state ≠ .down → x.state ≠ .drained → quiet → clear → saved → moves i { x with state := .down, tries := 0 })) ∧
    (quiet →
      (x.state = .draining → clear → saved → moves (.drainComplete n) { x with state := .drained }) ∧
      (x.state = .draining → clear → ∃ u, exec (.drainComplete n) s = .next u ∧ (u.conduit n).state = .drained ∧ u.cores = s.cores ∧
        ∀ p id t, s.task? p id = some t → ∃ y, u.task? p id = some y ∧ y.state = t.state ∧
          y.p0 = t.p0.map (fun a => if a.req = .sent n then { a with req := .held, first := s.tick, timed := none, retry := true } else a)) ∧
      (x.state = .training → moves (.trainingAttemptSuccess n) { x with state := .up, tries := 0 }) ∧
      (x.state = .training → 2 ≤ x.tries → moves (.trainingAttemptFail n) { x with state := .down, tries := 0 }) ∧
      (x.state = .retuning → moves (.retuneComplete n) { x with state := .up, retune := false }) ∧
      (x.state = .retuning → moves (.retuneFail n) { x with state := .down, retune := false }))) ∧
  (∀ (s : State),
    let noUp := ∀ m, m < 48 → (s.conduit m).state ≠ .up
    ((noUp ∨ s.links.fenced = true) → exec .join s = .next s) ∧
    (¬noUp → s.links.fenced = false → ∃ u, exec .join s = .next u ∧ u = { s with links := u.links } ∧
      u.links = { s.links with joinSent := List.range s.slices })) ∧
  (∀ (s : State) (n : Nat), n ≤ 255 →
    let quiet := (∀ y ∈ s.slots, ∀ a ∈ y.2.2.p0, a.req ≠ .held) ∧ (∀ q ∈ s.parts, q.2.acq = none) ∧ s.links.waits = []
    let opens := n ∈ s.links.joinSent ∧ n ∉ s.links.joined ∧ s.links.fenced = false
    (¬opens → exec (.joinAccepted n) s = .next s) ∧
    (opens → quiet → ∃ u, exec (.joinAccepted n) s = .next u ∧ u = { s with links := u.links } ∧
      u.links = { s.links with joined := s.links.joined ++ [n] })) ∧
  (∀ (s : State) (base size : Nat), 7 ≤ size → base % 2 ^ size = 0 →
    let carried := s.off = false ∧ ∃ m ∈ s.maskOfDest (s.sliceOf (base / 2097152)), (s.conduit m).state = .up ∨ (s.conduit m).state = .draining
    (¬carried → exec (.recall base size) s = .next s) ∧
    (carried → s.links.waits = [] → ∃ u, exec (.recall base size) s = .next u ∧ sameBytes s u ∧ u.cores = s.cores ∧
      u.links.acks = s.links.acks ++ [(base, size)] ∧ (∀ m, u.conduit m = s.conduit m) ∧
      (∀ x ∈ u.links.past, x ∈ s.poolLeases ∧ ¬(base ≤ 128 * x.1 ∧ 128 * x.1 < base + 2 ^ size)) ∧
      ∀ p l, l ∈ (u.part p).lines ↔ l ∈ (s.part p).lines ∧ ¬(base ≤ 128 * l.line ∧ 128 * l.line < base + 2 ^ size))) ∧
  (∀ (s : State) (p n : Nat), p ≤ 63 →
    let ended := ∃ x ∈ (s.part p).lines, x.line = n ∧ x.till ≤ s.tick
    (¬ended → exec (.readLeaseExpiry p n) s = .next s) ∧
    (ended → ∃ u, exec (.readLeaseExpiry p n) s = .next u ∧ sameBytes s u ∧ u.cores = s.cores ∧ (∀ m, u.conduit m = s.conduit m) ∧
      (∀ l, l ∈ (u.part p).lines ↔ l ∈ (s.part p).lines ∧ l.line ≠ n) ∧ (∀ q, q ≠ p → u.part q = s.part q) ∧
      ∀ x ∈ (s.part p).lines, x.line = n → s.tick < x.ends → (n, x.ends) ∈ u.links.past))

/-- Where they issue normally: LKST.sum gives MAPST, the count of DOWN conduits and the UP mask, as they are (log entry 76); LKST.port gives state, lanes (log entry 55) and outstanding requests, or 0x06; LKDRN drains exactly the named UP conduits and LKRSM, with nothing waiting, moves each named DOWN or DRAINED one as R358 says, sd being the mask of those changed and bits above 47 raising 0x02; LKTOP raises 0x0B for a misaligned operand, reads its image, over a route once a map was resumed (log entry 8), and raises 0x02 for a bit that must be zero, answers 1, 2 or 3 and installs nothing, or installs the map, marks the conduits of RETUNE and answers 0. No byte changes. -/
def Obligations.LinkInstructions : Prop :=
  ∀ (s : State) (sl : Slot) (sd sa c : Nat),
    let a := (sl.ctx.reg sa).toNat
    let named := fun (m : Nat) => (sl.ctx.reg sa).getLsbD m = true
    let st := fun (m : Nat) => (s.conduit m).state
    let here := fun (u : State) => u.slot? s.curCore s.curSlot
    let put := fun (w : Word) => Host.Outcome.next (ρ := Refusal) (φ := Fault) (s.putSlot (sl.wrote sd w))
    let quiet := (∀ y ∈ s.slots, ∀ a ∈ y.2.2.p0, a.req ≠ .held) ∧ (∀ q ∈ s.parts, q.2.acq = none) ∧ s.links.waits = []
    (Issues s sl (.lkst sd sa false) → ∃ w, exec (.lkst sd sa false) s = put w ∧
      (∀ m, m < 48 → (w.getLsbD m = true ↔ st m = .up)) ∧
      w.toNat / 2 ^ 48 % 256 = ((List.range 48).filter (fun m => st m == .down)).length ∧
      w.toNat / 2 ^ 60 = (if ∃ m ∈ List.range 48, st m = .draining then 1
        else if (∃ m ∈ List.range 48, st m = .drained) ∨ s.links.firstRsm = false then 2 else 0)) ∧
    (Issues s sl (.lkst sd sa true) →
      (47 < a → exec (.lkst sd sa true) s = .next (s.trapped sl (.lkst sd sa true) 0x06)) ∧
      (a ≤ 47 → ∃ w, exec (.lkst sd sa true) s = put w ∧
        w.toNat % 256 = (match st a with | .down => 0 | .training => 1 | .up => 2 | .draining => 3 | .drained => 4 | .retuning => 5) ∧
        w.toNat / 2 ^ 32 = min 65535 (s.outstanding a) ∧
        (st a ≠ .up → st a ≠ .draining → w.toNat / 256 % 2 ^ 24 = 0) ∧
        ((st a = .up ∨ st a = .draining) → (s.host.repaired = false ∨ s.host.image[64 + a]? = some 0xFF) → w.toNat / 256 % 2 ^ 24 = 0xFF) ∧
        (∀ x, (st a = .up ∨ st a = .draining) → s.host.repaired = true → s.host.image[64 + a]? = some x → x < 8 →
          w.toNat / 256 % 2 ^ 24 + 2 ^ x = 0x1FF))) ∧
    (Issues s sl (.lkdrn sd sa) →
      (2 ^ 48 ≤ a → exec (.lkdrn sd sa) s = .next (s.trapped sl (.lkdrn sd sa) 0x02)) ∧
      (a < 2 ^ 48 → ∃ u w, exec (.lkdrn sd sa) s = .next u ∧ here u = some (sl.wrote sd w) ∧ sameMemory s u ∧ u.parts = s.parts ∧ u.regions = s.regions ∧
        (∀ m, w.getLsbD m = true ↔ named m ∧ st m = .up) ∧ u.links.topo = s.links.topo ∧
        (∀ m, named m → st m = .up → u.conduit m = { s.conduit m with state := .draining }) ∧
        (∀ m, ¬(named m ∧ st m = .up) → u.conduit m = s.conduit m))) ∧
    (Issues s sl (.lkrsm sd sa) →
      (2 ^ 48 ≤ a → exec (.lkrsm sd sa) s = .next (s.trapped sl (.lkrsm sd sa) 0x02)) ∧
      (a < 2 ^ 48 → quiet → ∃ u w, exec (.lkrsm sd sa) s = .next u ∧ here u = some (sl.wrote sd w) ∧ sameMemory s u ∧ u.parts = s.parts ∧
        u.regions = s.regions ∧ (∀ m, w.getLsbD m = true ↔ named m ∧ (st m = .down ∨ st m = .drained)) ∧ u.links.firstRsm = true ∧
        (∀ m, named m → st m = .down → (u.conduit m).state = .training ∧ (u.conduit m).tries = 0) ∧
        (∀ m, named m → st m = .drained → (u.conduit m).state = (if (s.conduit m).retune = true then .retuning else .up)) ∧
        (∀ m, (u.conduit m).retune = (s.conduit m).retune) ∧
        (∀ m, ¬(named m ∧ (st m = .down ∨ st m = .drained)) → u.conduit m = s.conduit m))) ∧
    (Issues s sl (.lktop sd sa c) →
      let i := Instr.lktop sd sa c
      let put := fun (u : State) (w : Word) => exec i s = .next (u.putSlot (sl.wrote sd w))
      (a % 64 ≠ 0 → exec i s = .next (s.faulted sl i { code := 0x0B, addr := a, oid := (sl.ctx.cap c).oid })) ∧
      (a % 64 = 0 → s.mayAccess sl .acq = false → exec i s = .next s.waiting) ∧
      (∀ s1 f, a % 64 = 0 → s.mayAccess sl .acq = true → s.loadObj sl (sl.ctx.cap c) a 4160 1 4 = .fault s1 f → f.hold = none →
        exec i s = .next (s1.faulted sl i f)) ∧
      (∀ s1 b, a % 64 = 0 → s.mayAccess sl .acq = true → s.loadObj sl (sl.ctx.cap c) a 4160 1 4 = .ok s1 b →
        let word := fun (n : Nat) => leNat ((b.drop n).take 8)
        let mbz := 2 ^ 40 ≤ word 0 ∨ 2 ^ 48 ≤ word 8 ∨ (∃ x ∈ (b.drop 16).take 48, x ≠ 0) ∨ ∃ d, d < 512 ∧ 2 ^ 48 ≤ word (64 + 8 * d)
        let busy := ∃ m, m < 48 ∧ (word 8).testBit m = true ∧ st m ≠ .drained ∧ st m ≠ .down
        let seq := word 0 % 2 ^ 32
        (mbz → exec i s = .next (s.trapped sl i 0x02)) ∧
        (¬mbz → s.mapst ≠ 2 → put s1 1) ∧
        (¬mbz → s.mapst = 2 → seq ≤ s.lmap → put s1 2) ∧
        (¬mbz → s.mapst = 2 → s.lmap < seq → busy → put s1 3) ∧
        (¬mbz → s.mapst = 2 → s.lmap < seq → ¬busy → ∃ u t, exec i s = .next u ∧ here u = some (sl.wrote sd 0) ∧ sameMemory s1 u ∧
          u.parts = s1.parts ∧ u.links.topo = some t ∧ u.lmap = seq ∧ u.slices = word 0 / 2 ^ 32 + 1 ∧
          (∀ d m, d < 512 → (m ∈ u.maskOfDest d ↔ m < 48 ∧ (word (64 + 8 * d)).testBit m = true)) ∧
          ∀ m, u.conduit m = (if m < 48 ∧ (word 8).testBit m = true then { s.conduit m with retune := true } else s.conduit m))))

/-- Where they issue normally with a route to the name's slice: LSACQ sets the lease LIVE with a higher token and E_d = s + len, answers 1 or waits at the pool while the name is held or others wait for it, and 3 while LIVE; LSRNW extends E_d and E_p, or answers 1 with the lease LOST, or 2; LSREL answers 0, 1 or 2 and leaves NONE; without a route they stall (for 1 ms where a conduit trains), or raise 0x12 or 0x0D; bad operands raise 0x02 and the fontanier's partition 0x06. LSTOK gives its item. A grant of a waiting LSACQ sets E_d = s + W + len, 32 ms without one answer 2, and E_d ends a LIVE lease and reports as 0x0D its held requests and its atomics without an outcome (R36, R364; log entry 58). A grant's token is log entry 58, and an acquire that is sent again counts as a new arrival (log entry 88). -/
def Obligations.StepLeases : Prop :=
  (∀ (s : State) (sl : Slot) (sd sa sb : Nat),
    let p := selPart s.curCore sl
    let l := (s.part p).lease
    let st := if l.st = .live ∧ l.till ≤ s.tick then LeaseSt.lost else l.st
    let here := fun (u : State) => u.slot? s.curCore s.curSlot
    let put := fun (w : Word) => Host.Outcome.next (ρ := Refusal) (φ := Fault) (s.putSlot (sl.wrote sd w))
    let b := (sl.ctx.reg sb).toNat
    let len := if b = 0 then ((s.part p).lscfg.toNat % 16384) * 1000 else b * 1000
    let via := fun (name : Word) => s.route (s.sliceOfName name.toNat) 0
    let stalls := fun (i : Instr) (h : Option Nat) => exec i s = .next (s.modSlot s.curCore s.curSlot (fun v => { v with stalled := true, heldAt := h }))
    let waits := fun (i : Instr) (name : Word) => (via name = .held → stalls i none) ∧
      (∀ t, via name = .timed → sl.heldAt = some t → t + 1000000 ≤ s.tick → exec i s = .next (s.trapped sl i 0x12)) ∧
      (∀ t, via name = .timed → sl.heldAt = some t → s.tick < t + 1000000 → stalls i (some t)) ∧
      (via name = .timed → sl.heldAt = none → stalls i (some s.tick)) ∧
      (via name = .down → exec i s = .next (s.trapped sl i 0x12)) ∧ (via name = .fenced → exec i s = .next (s.trapped sl i 0x0D))
    let mine : Option Holder := some (.own s.boots)
    (∀ item, Issues s sl (.lstok sd item) → exec (.lstok sd item) s = put (match item with
      | .tok => if st = .none then 0 else l.token
      | .name => if st = .none then 0 else l.name
      | .left => if st = .live then BitVec.ofNat 64 ((l.till - s.tick) / 1000) else 0
      | .st => match st with | .none => 0 | .live => 1 | .lost => 2)) ∧
    (∀ wait, Issues s sl (.lsacq sd sa sb wait) →
      let i := Instr.lsacq sd sa sb wait
      let name := sl.ctx.reg sa
      let row := s.leaseRow name
      let free := (row.holder = none ∨ row.till ≤ s.tick) ∧
        ∀ q ∈ s.parts, ∀ y, q.2.acq = some y → y.name = name → y.done ≠ none ∨ y.conduit = none
      (p = 64 → exec i s = .next (s.trapped sl i 0x06)) ∧
      (p ≠ 64 → (name = 0 ∨ 16000 < b) → exec i s = .next (s.trapped sl i 0x02)) ∧
      (p ≠ 64 → name ≠ 0 → b ≤ 16000 →
        (∀ x, (s.part p).acq = some x → (x.done = none ∨ x.core ≠ s.curCore ∨ x.slot ≠ s.curSlot) → exec i s = .next s.waiting) ∧
        (∀ x v, (s.part p).acq = some x → x.done = some v → x.core = s.curCore → x.slot = s.curSlot → ∃ u, exec i s = .next u ∧
          here u = some (sl.wrote sd (BitVec.ofNat 64 v)) ∧ (u.part p).acq = none ∧ (u.part p).lease = l ∧ sameMemory s u) ∧
        ((s.part p).acq = none → st = .live → exec i s = put 3) ∧
        ((s.part p).acq = none → st ≠ .live → waits i name) ∧
        (∀ n, (s.part p).acq = none → st ≠ .live → via name = .sent n →
          (free → ∃ u tok, exec i s = .next u ∧ here u = some (sl.wrote sd 0) ∧ sameMemory s u ∧
            (row.token.toNat + 65537 < 2 ^ 64 → row.token.toNat < tok.toNat) ∧
            (u.part p).lease = { st := .live, name := name, token := tok, till := s.tick + len } ∧
            u.leaseRow name = { name := name, holder := mine, token := tok, till := s.tick + len + 2000 } ∧
            (∀ m, m ≠ name → u.leaseRow m = s.leaseRow m) ∧ ∀ q, q ≠ p → u.part q = s.part q) ∧
          (¬free → wait = false → exec i s = put 1) ∧
          (¬free → wait = true → ∃ u x, exec i s = .next u ∧ here u = some { sl with stalled := true } ∧ sameMemory s u ∧ u.links = s.links ∧
            u.part p = { s.part p with acq := some x } ∧
            x = { core := s.curCore, slot := s.curSlot, name := name, len := len, sent := s.tick, first := s.tick, conduit := some n, ord := s.clock, done := none })))) ∧
    (Issues s sl (.lsrnw sd sb) →
      let i := Instr.lsrnw sd sb
      let row := s.leaseRow l.name
      let stale := row.token ≠ l.token ∨ row.holder ≠ mine ∨ row.till ≤ s.tick
      (p = 64 → exec i s = .next (s.trapped sl i 0x06)) ∧
      (p ≠ 64 → 16000 < b → exec i s = .next (s.trapped sl i 0x02)) ∧
      (p ≠ 64 → b ≤ 16000 → st ≠ .live → exec i s = put 2) ∧
      (p ≠ 64 → b ≤ 16000 → st = .live → waits i l.name) ∧
      (∀ n, p ≠ 64 → b ≤ 16000 → st = .live → via l.name = .sent n → ∃ u, exec i s = .next u ∧ sameMemory s u ∧
        here u = some (sl.wrote sd (if stale then 1 else 0)) ∧
        (stale → (u.part p).lease = { l with st := .lost } ∧ u.links = s.links) ∧
        (¬stale → (u.part p).lease = { l with till := max l.till (s.tick + len) } ∧
          u.leaseRow l.name = { row with till := max row.till (s.tick + len + 2000) }))) ∧
    (Issues s sl (.lsrel sd) →
      let i := Instr.lsrel sd
      (p = 64 → exec i s = .next (s.trapped sl i 0x06)) ∧
      (p ≠ 64 → st = .none → exec i s = put 2) ∧
      (p ≠ 64 → st = .lost → ∃ u, exec i s = .next u ∧ here u = some (sl.wrote sd 1) ∧ (u.part p).lease = {} ∧ u.links = s.links ∧ sameMemory s u) ∧
      (p ≠ 64 → st = .live → s.leaseWrites p = true → exec i s = .next s.waiting) ∧
      (p ≠ 64 → st = .live → s.leaseWrites p = false → waits i l.name) ∧
      (∀ n, p ≠ 64 → st = .live → s.leaseWrites p = false → via l.name = .sent n → ∃ u, exec i s = .next u ∧ here u = some (sl.wrote sd 0) ∧
        (u.part p).lease = {} ∧ (u.part p).acq = (s.part p).acq ∧ sameMemory s u ∧
        ((s.leaseRow l.name).holder = mine → (s.leaseRow l.name).token = l.token → (u.leaseRow l.name).holder = none) ∧ ∀ m, m ≠ l.name → u.leaseRow m = s.leaseRow m))) ∧
  (∀ (s : State) (p token w : Nat) (x : Acquire), p ≤ 63 → (s.part p).acq = some x →
    let row := s.leaseRow x.name
    let first := ∀ q ∈ s.parts, ∀ y, q.2.acq = some y → y.name = x.name → y.done = none → y.conduit ≠ none → x.ord ≤ y.ord
    let granted := x.done = none ∧ x.conduit ≠ none ∧ first ∧ (row.holder = none ∨ row.till ≤ s.tick) ∧ row.token.toNat < token ∧ token < 2 ^ 64 ∧ x.sent + w ≤ s.tick
    let late := x.done = none ∧ x.first + 32000000 ≤ s.tick
    (¬granted → exec (.leaseGrant p token w) s = .next s) ∧
    (granted → ∃ u, exec (.leaseGrant p token w) s = .next u ∧ sameMemory s u ∧ (u.part p).acq = some { x with done := some 0 } ∧
      (u.part p).lease = { st := .live, name := x.name, token := BitVec.ofNat 64 token, till := x.sent + w + x.len } ∧
      u.leaseRow x.name = { name := x.name, holder := some (.own s.boots), token := BitVec.ofNat 64 token, till := s.tick + x.len + 2000 } ∧
      ∀ sl, s.slot? x.core x.slot = some sl → u.slot? x.core x.slot = some { sl with stalled := false }) ∧
    (¬late → exec (.lsacqWaitTimeout p) s = .next s) ∧
    (late → ∃ u, exec (.lsacqWaitTimeout p) s = .next u ∧ sameMemory s u ∧ u.links = s.links ∧ (u.part p).lease = (s.part p).lease ∧
      (u.part p).acq = some { x with done := some 2 } ∧
      ∀ sl, s.slot? x.core x.slot = some sl → u.slot? x.core x.slot = some { sl with stalled := false })) ∧
  (∀ (s : State) (p : Nat), p ≤ 63 →
    let l := (s.part p).lease
    let ends := l.st = .live ∧ l.till ≤ s.tick
    ((s.part p).acq = none → (∀ t w, exec (.leaseGrant p t w) s = .next s) ∧ exec (.lsacqWaitTimeout p) s = .next s) ∧
    (¬ends → exec (.stepLeaseExpiry p) s = .next s) ∧
    (ends → (∀ y ∈ s.slots, y.2.2.part = p → ∀ a ∈ y.2.2.p0, a.endsWithLease = false) →
      (∀ q ∈ s.parts, q.1 = p → ∀ t ∈ q.2.tasks, ∀ a ∈ t.p0, a.endsWithLease = false) →
      ∃ u, exec (.stepLeaseExpiry p) s = .next u ∧ sameMemory s u ∧ u.links = s.links ∧ u.cores = s.cores ∧
        (u.part p).lease = { l with st := .lost } ∧ ∀ q, q ≠ p → u.part q = s.part q) ∧
    (∀ c k sl a, ends → s.slots = [(c, k, sl)] → s.slot? c k = some sl → sl.part = p → sl.p0 = [a] → a.token ≠ none →
      (a.req = .held ∨ ((∃ n, a.req = .sent n) ∧ a.op.atomic = true)) → sl.phase = .run → sl.saving = none → sl.breaks = [] → sl.trigAt = none →
      (∀ q ∈ s.parts, q.1 = p → ∀ t ∈ q.2.tasks, t.p0 = []) →
      ∃ u v d, exec (.stepLeaseExpiry p) s = .next u ∧ u.slot? c k = some v ∧ v.ctx = sl.ctx ∧ v.p0 = [] ∧ v.deferred = sl.deferred ++ [d] ∧
        d.seq = a.seq ∧ d.fault.code = 0x0D ∧ (u.part p).lease = { l with st := .lost } ∧ sameBytesBut a.aper c a.addr a.size s u))

/-- For an outstanding access of a running slot: held for 1 ms while MAPST is ACTIVE and its conduits still train it is deferred as 0x12 (from when that counts is log entry 56); 2 ms after its first send it is deferred as 0x0D, its bytes written or not (log entry 48); retry status on a DRAINING conduit holds it, and a held request goes out again, under the same request id, only once MAPST is ACTIVE or its training conduit is UP; a STALE write is deferred as 0x0D, or its command makes the step that the pool rejects, and the lease is LOST. FENCED ends every lease and POOL line, is logged, and defers each pool request of a single running slot as 0x0D. A peer's request changes exactly its bytes and answers the old value; uncorrectable data is not answered (log entry 64). -/
def Obligations.PoolAnswers : Prop :=
  (∀ (s : State) (c k idx : Nat) (sl : Slot) (a : P0Acc), c ≤ 64 → k ≤ 3 → s.slot? c k = some sl →
    sl.phase = .run → sl.saving = none → sl.breaks = [] → sl.trigAt = none → sl.p0[idx]? = some a →
    let via := s.route (if a.aper = .peer then 256 + a.peer else s.sliceOf (a.addr / 2097152)) (a.addr / 128)
    let fails := fun (i : Instr) (code : Nat) (u : State) => exec i s = .next u ∧ ∃ v d, u.slot? c k = some v ∧ v.ctx = sl.ctx ∧
      v.p0 = sl.p0.filter (fun b => b.seq != a.seq) ∧ v.deferred = sl.deferred ++ [d] ∧ d.seq = a.seq ∧ d.sd = a.op.target ∧
      d.fault.code = code ∧ d.fault.addr = a.off
    let goes := fun (u : State) (b : P0Acc) => ∃ v, sameBytes s u ∧ u.slot? c k = some v ∧ v.ctx = sl.ctx ∧
      v.deferred = sl.deferred ∧ v.p0[idx]? = some b ∧ v.p0.length = sl.p0.length
    let out := ∃ n, a.req = .sent n
    let timer := Instr.heldRequestTimeout c k idx
    let outcome := Instr.requestOutcomeTimeout c k idx
    let retry := Instr.retryStatus c k idx
    let stale := Instr.staleAnswer c k (.p0 idx)
    let due := a.req = .held ∧ (a.sentAt = none ∨ a.retry = true) ∧ (∃ t, a.timed = some t ∧ t + 1000000 ≤ s.tick) ∧ s.mapst = 0 ∧ via = .timed
    let late := ∃ t, a.sentAt = some t ∧ t + 2000000 ≤ s.tick
    let sent := fun (n : Nat) => { a with req := Req.sent n, sentAt := a.sentAt.or (some s.tick), retry := false, timed := none }
    let goesOut := fun (n : Nat) => a.req = .held ∧ (s.mapst = 0 ∨ a.timed ≠ none) ∧ via = .sent n ∧
      (a.token = none ∨ s.leaseLive sl.part = true) ∧ s.lineBusy a.line n = false ∧ ¬late
    (¬due → exec timer s = .next s) ∧
    (due → ∃ u, fails timer 0x12 u ∧ sameBytes s u) ∧
    (¬late → exec outcome s = .next s) ∧
    (late → ∃ u, fails outcome 0x0D u ∧ sameBytesBut a.aper c a.addr a.size s u ∧ (a.op.writes = false ∨ a.retry = true → sameBytes s u)) ∧
    (¬(∃ n, a.req = .sent n ∧ (s.conduit n).state = .draining) → exec retry s = .next s) ∧
    (∀ n, a.req = .sent n → (s.conduit n).state = .draining →
      ∃ u, exec retry s = .next u ∧ goes u { a with req := .held, first := s.tick, timed := none, retry := true }) ∧
    (s.mapst ≠ 0 → a.timed = none → s.retryHeld c k sl.part a = s) ∧
    (∀ n, goesOut n →
      (a.reqSeq ≠ 0 ∨ a.op.writes = false → goes (s.retryHeld c k sl.part a) (sent n)) ∧
      (a.reqSeq = 0 → a.op.writes = true →
        let field := match a.token with | some t => t.toNat | none => 9223372036854775808 + epochOf s.boots
        goes (s.retryHeld c k sl.part a) { sent n with reqSeq := mget 0 s.links.reqSeq field + 1 })) ∧
    (a.token = none → exec stale s = .next s) ∧
    (∀ tok, a.token = some tok →
      let l := (s.part sl.part).lease
      let row := s.leaseRow a.lname
      let old := row.token ≠ tok ∨ row.holder ≠ some (.own s.boots) ∨ row.till ≤ s.tick
      (¬(out ∧ old) → exec stale s = .next s) ∧
      (out → old → ∃ u, fails stale 0x0D u ∧ sameBytes s u ∧ (u.part sl.part).lease = (if l.st = .live then { l with st := .lost } else l)))) ∧
  (∀ (s : State) (c k idx : Nat) (sl : Slot) (m : Cmd), c ≤ 64 → k ≤ 3 → s.slot? c k = some sl →
    let l := (s.part sl.part).lease
    let row := s.leaseRow l.name
    let old := row.token ≠ l.token ∨ row.holder ≠ some (.own s.boots) ∨ row.till ≤ s.tick
    let hit := fun (src : StaleSrc) (i : Instr) => m.slot = k →
      (¬(m.leaseBound = true ∧ old) → exec (.staleAnswer c k src) s = .next s) ∧
      (m.leaseBound = true → old → exec (.staleAnswer c k src) s = exec i s)
    let at_ := (s.xfCmds c).findIdx (fun x => x.slot == m.slot && x.seq == m.seq)
    (s.first? c k .vs = some m → hit .vs (.vsStep c k)) ∧
      (((s.slotCmds c k).filter (fun x => x.eng == .xf))[idx]? = some m →
        hit (.xf idx) (if m.paid = true then .flagStep c at_ else if isPayload m.instr = true then .xfPayloadStep c at_ else .xfSingleStep c at_))) ∧
  (∀ (s : State), ∃ u, exec .fencedAnswer s = .next u ∧ (∀ p, (u.part p).lease = {} ∧ (u.part p).lines = [] ∧ (u.part p).acq = none) ∧
    ((∀ x ∈ s.slots, ∀ a ∈ x.2.2.p0, a.atPool = false) → (∀ q ∈ s.parts, ∀ t ∈ q.2.tasks, ∀ a ∈ t.p0, a.atPool = false) →
      u.links = { s.links with fenced := true, past := u.links.past } ∧ u.cores = s.cores ∧ sameBytes s u ∧
      (s.host.log.length < 1024 → ∃ e, u.host.log = s.host.log ++ [e] ∧ e.cls = 3 ∧ e.tick = s.tick)) ∧
    (∀ c k sl, s.slots = [(c, k, sl)] → s.slot? c k = some sl → sl.phase = .run → sl.saving = none → sl.breaks = [] → sl.trigAt = none →
      (sl.p0.map (fun a => a.seq)).Nodup → ∃ v new, u.slot? c k = some v ∧ v.ctx = sl.ctx ∧ v.p0 = sl.p0.filter (fun a => !a.atPool) ∧
        v.deferred = sl.deferred ++ new ∧ (new.map (fun d => d.seq)).Perm ((sl.p0.filter P0Acc.atPool).map (fun a => a.seq)) ∧
        ∀ d ∈ new, d.fault.code = 0x0D)) ∧
  (∀ (s : State) (addr size : Nat) (op : PeerOp), 0 < size → size ≤ 8 →
    let i := Instr.inboundPeerRequest addr size op
    let old := rdN s.mem addr size
    let lost := (∀ d, op ≠ .write d) ∧ poisoned s.memErr addr size = true
    let value := match op with
      | .read => none
      | .write d => some d
      | .atomic o b => some (aopNew o (8 * size) old b)
      | .cas b cmp => if old = cmp then some b else none
    (lost → exec i s = .next s) ∧
    (¬lost → ∃ u, exec i s = .next u ∧ u.cores = s.cores ∧ sameBytesBut .system 0 addr size s u ∧
      (∀ n, n < size → u.byteAt .system 0 (addr + n) = (match value with
        | some v => BitVec.ofNat 8 (v / 256 ^ n)
        | none => s.byteAt .system 0 (addr + n))) ∧
      u.links.replies = (match op with | .write _ => s.links.replies | _ => s.links.replies ++ [(addr, old)])))

/-- Where it issues normally, feat.off, feat.acc or feat.lock completes in that one turn, without a stall, with sd the offered features, the accepted ones, or the lock bit, zero-extended, and nothing else changed but the slot's place in its program. Its word has CLS 0x8, OPC 0x90, sd and sub with every other field zero and decodes to it; level U may run it; sub 11 is refused with 0x02; the word of the example is feat.acc s5. -/
def Obligations.FeatReadsTheFeatures : Prop :=
  (∀ (s : State) (sl : Slot) (sd : Nat),
    let put := fun (w : Word) => Host.Outcome.next (ρ := Refusal) (φ := Fault) (s.putSlot (sl.wrote sd w))
    (Issues s sl (.feat sd .off) → exec (.feat sd .off) s = put (Config.featOff.setWidth 64)) ∧
    (Issues s sl (.feat sd .acc) → exec (.feat sd .acc) s = put (BitVec.ofNat 64 (s.host.accepted % 65536))) ∧
    (Issues s sl (.feat sd .lock) → exec (.feat sd .lock) s = put (if s.host.lock = true then 1 else 0))) ∧
  (∀ sd, sd < 64 →
    let word := fun (sub : Nat) => 0x8 * 2 ^ 60 + 0x90 * 2 ^ 52 + sd * 2 ^ 46 + sub * 2 ^ 16
    decode (word 0) = .ok (.feat sd .off) ∧ decode (word 1) = .ok (.feat sd .acc) ∧ decode (word 2) = .ok (.feat sd .lock) ∧
    decode (word 3) = .reserved ∧ (∀ sub, sub < 3 → wordLevel (word sub) = .u) ∧
    (∀ s c sl, wordFault s c sl (word 3) = 0x02) ∧
    (∀ item, ∃ sub, sub < 3 ∧ encode (.feat sd item) = word sub)) ∧
  decodeWord 0x8901400000010000 = some (.feat 5 .acc)

/-- A command appends one completion and has its effect only with status 0: REPAIR, ACCEPT and KEYSET change what they name, PUBKEY and READLOG return their bytes, TOKCHK answers as R352, TOKGET copies a stored token or fails on its area (log entry 59), LAUNCH enters every record under consecutive ids or none (log entry 45), or waits for the write window; behind a waiting command of its function every command waits; a VF's own partition, bring-up and each entry's conditions decide the other statuses, and an unlisted code is 0xFF. ERRLOG.cnt counts the log; .pop stores the oldest entry's 32 bytes at its operand alone and removes it, or answers all ones. -/
def Obligations.HostCommands : Prop :=
  (∀ (s : State) (fn : HostFn), (∀ n, fn = .vf n → n < 64) → (∃ h ∈ s.host.queue, h.fn = fn) →
    let waits := fun (i : Instr) (w : HostWork) => exec i s = .next { s with host := { s.host with queue := s.host.queue ++ [{ fn := fn, work := w }] } }
    (∀ n p a t, waits (.launch fn n p a t) (.launch n p a t)) ∧ (∀ r q, waits (.tokchkCommand fn r q) (.tokchk r q)) ∧
    (∀ r a, waits (.tokget fn r a) (.tokget r a)) ∧ (∀ m, waits (.repair fn m) (.repair m)) ∧ (∀ m, waits (.accept fn m) (.accept m)) ∧
    (∀ p k v, waits (.keyset fn p k v) (.keyset p k v)) ∧ waits (.pubkey fn) .pubkey ∧ waits (.readlog fn) .readlog ∧
    ∀ n, waits (.unlistedCommandCode fn n) (.unlisted n)) ∧
  (∀ (s : State) (fn : HostFn), (∀ n, fn = .vf n → n < 64) → (∀ h ∈ s.host.queue, h.fn ≠ fn) →
    let ends := fun (d : HostDone) => Host.Outcome.next (ρ := Refusal) (φ := Fault) { s with host := { s.host with done := s.host.done ++ [d] } }
    let stops := fun (code st : Nat) => ends { fn := fn, code := code, status := st }
    let ok := fun (code : Nat) (u : State) => u.host.done = s.host.done ++ [{ fn := fn, code := code, status := 0 }] ∧ sameMemory s u ∧
      u.cores = s.cores ∧ u.regions = s.regions
    let lock := s.host.lock
    let away := fun (r : Nat) => r ≤ 63 ∧ ∃ n, fn = .vf n ∧ ¬((s.region r).part = n ∧ ((s.region r).assigned = true ∨ (s.region r).state = .quiesce))
    (∀ code, code ∉ [1, 2, 3, 0x10, 0x11, 0x12, 0x13, 0x14] → exec (.unlistedCommandCode fn code) s = stops code 0xFF) ∧
    (∀ n image mask part slot key, fn = .vf n → exec (.repair fn image) s = stops 0x10 0xFE ∧ exec (.accept fn mask) s = stops 0x11 0xFE ∧
      exec (.keyset fn part slot key) s = stops 0x12 0xFE ∧ exec (.pubkey fn) s = stops 0x13 0xFE ∧ exec (.readlog fn) s = stops 0x14 0xFE) ∧
    (∀ image, fn = .pf →
      let b := fun (i : Nat) => image.getD i 0
      let v := b 0 + 2 ^ 8 * b 1 + 2 ^ 16 * b 2 + 2 ^ 24 * b 3 + 2 ^ 32 * b 4
      let x := fun (d : Nat) => v / 2 ^ (10 * d) % 32
      let y := fun (d : Nat) => v / 2 ^ (10 * d + 5) % 32
      let bad := (∃ d, d < 4 ∧ (x d = y d ∨ 17 < x d ∨ 17 < y d)) ∨ (∃ c, c < 16 ∧ 32 ≤ b (48 + c) ∧ b (48 + c) ≠ 255) ∨
        (∃ h, h < 8 ∧ b (48 + 2 * h) = b (49 + 2 * h) ∧ b (48 + 2 * h) ≠ 255) ∨ (∃ n, n < 48 ∧ 8 ≤ b (64 + n) ∧ b (64 + n) ≠ 255) ∨
        (∃ n, ((5 ≤ n ∧ n < 8) ∨ (35 ≤ n ∧ n < 48) ∨ (112 ≤ n ∧ n < 128)) ∧ b n ≠ 0)
      ((lock = true ∨ s.host.repaired = true) → exec (.repair fn image) s = stops 0x10 3) ∧
      (lock = false → s.host.repaired = false → bad → exec (.repair fn image) s = stops 0x10 2) ∧
      (lock = false → s.host.repaired = false → ¬bad → ∃ u, exec (.repair fn image) s = .next u ∧ ok 0x10 u ∧ u.host.repaired = true ∧
        u.host.image.length = 128 ∧ (∀ n, n < 128 → u.host.image[n]? = some (b n)) ∧ u.host.lock = false ∧ u.host.accepted = s.host.accepted)) ∧
    (∀ mask, fn = .pf →
      let extra := ∃ j, j < 16 ∧ mask.testBit j = true ∧ Config.featOff.getLsbD j = false
      (lock = true → exec (.accept fn mask) s = stops 0x11 3) ∧
      (lock = false → s.host.repaired = false → exec (.accept fn mask) s = stops 0x11 4) ∧
      (lock = false → s.host.repaired = true → extra → exec (.accept fn mask) s = stops 0x11 2) ∧
      (lock = false → s.host.repaired = true → ¬extra → ∃ u, exec (.accept fn mask) s = .next u ∧ ok 0x11 u ∧ u.host.lock = true ∧
        u.host.accepted = mask % 65536 ∧ u.host.image = s.host.image)) ∧
    (∀ p k key, fn = .pf →
      ((63 < p ∨ 15 < k) → exec (.keyset fn p k key) s = stops 0x12 2) ∧
      (p ≤ 63 → k ≤ 15 → ∃ u x, exec (.keyset fn p k key) s = .next u ∧ ok 0x12 u ∧ mget none (u.part p).keys k = some x ∧ x.key = key ∧ x.cnt = 0 ∧
        (∀ j, j ≠ k → mget none (u.part p).keys j = mget none (s.part p).keys j) ∧ ∀ q, q ≠ p → u.part q = s.part q)) ∧
    (fn = .pf → ∃ d, exec (.pubkey fn) s = ends { fn := fn, code := 0x13, status := 0, data := d } ∧ d.length = 76 ∧
      d.take 60 = hssPublic ∧ leNat (d.drop 60) = Config.devId.toNat) ∧
    (∀ e es, fn = .pf → s.host.log = e :: es → ∃ u d, exec (.readlog fn) s = .next u ∧ u.host.log = es ∧
      u.host.done = s.host.done ++ [{ fn := fn, code := 0x14, status := 0, data := d }] ∧ d.length = 32 ∧ leNat (d.take 8) = e.tick % 2 ^ 64 ∧
      leNat ((d.drop 8).take 1) = e.cls % 256 ∧ leNat ((d.drop 9).take 1) = e.region % 256 ∧ leNat ((d.drop 10).take 1) = e.block % 256 ∧
      leNat ((d.drop 11).take 1) = e.part % 256 ∧ leNat ((d.drop 12).take 4) = e.dropped % 2 ^ 32 ∧ leNat ((d.drop 16).take 8) = e.addr % 2 ^ 64 ∧
      leNat (d.drop 24) = e.detail % 2 ^ 64) ∧
    (fn = .pf → s.host.log = [] → ∃ u st, exec (.readlog fn) s = .next u ∧ u.host.log = [] ∧
      u.host.done = s.host.done ++ [{ fn := fn, code := 0x14, status := st }]) ∧
    (∀ r seq addr i code, (i = .tokchkCommand fn r seq ∧ code = 2) ∨ (i = .tokget fn r addr ∧ code = 3) →
      (away r → exec i s = stops code 0xFE) ∧ (63 < r → exec i s = stops code 0xFD) ∧ (¬away r → r ≤ 63 → lock = false → exec i s = stops code 4)) ∧
    (∀ r seq, ¬away r → r ≤ 63 → lock = true →
      let g := s.region r
      let matched := g.state = .held ∧ (∃ t, g.token = some t ∧ (leNat ((t.body.drop 8).take 8)) % 2 ^ 64 = seq)
      ∃ u, exec (.tokchkCommand fn r seq) s = .next u ∧ sameMemory s u ∧ u.cores = s.cores ∧
        u.host.done = s.host.done ++ [{ fn := fn, code := 2, status := 0, value := if g.state = .owned then 2 else if g.state ≠ .held then 3 else if g.state = .held ∧ ∃ t ∈ g.token.toList, (leNat ((t.body.drop 8).take 8)) % 2 ^ 64 = seq then 0 else 1 }] ∧
        (matched → (u.region r).state = .owned ∧ (u.region r).part = g.part ∧ (u.region r).token = g.token) ∧ (¬matched → u.regions = s.regions)) ∧
    (∀ r addr, ¬away r → r ≤ 63 → lock = true →
      let p := match fn with | .pf => 64 | .vf n => n
      let get := exec (.tokget fn r addr) s
      let fails := fun (c : Nat) => ends { fn := fn, code := 3, status := 6, value := c }
      (addr % 8 ≠ 0 → get = fails 0x0B) ∧
      (addr % 8 = 0 → (s.region r).token = none → get = stops 3 0) ∧
      (∀ t, addr % 8 = 0 → (s.region r).token = some t →
        (∀ f, s.areaPieces p addr 3732 = .error f → f.hold = none → get = fails f.code) ∧
        (∀ f, s.areaPieces p addr 3732 = .error f → f.hold ≠ none → ∃ u h, get = .next u ∧ sameMemory s u ∧ u.host.done = s.host.done ∧
          u.host.queue = s.host.queue ++ [h] ∧ h.fn = fn ∧ h.work = .tokget r addr ∧ h.heldAt = f.heldFrom none s.tick) ∧
        (∀ xs, s.areaPieces p addr 3732 = .ok xs → ∃ u, get = .next u ∧
          u.host.done = s.host.done ++ [{ fn := fn, code := 3, status := 0, value := 3732 }] ∧
          (∀ ap e x, (∀ y ∈ xs, sameStore y.tgt.aper 64 ap e = true → x < y.tgt.addr ∨ y.tgt.addr + y.len ≤ x) → u.byteAt ap e x = s.byteAt ap e x) ∧
          (∀ y, xs = [y] → y.len = 3732 ∧ ∀ j d, t.bytes[j]? = some d → u.byteAt y.tgt.aper 64 (y.tgt.addr + j) = d)))) ∧
    (∀ nrec p addr tag,
      let i := Instr.launch fn nrec p addr tag
      let stop := fun (st : Nat) => ends { fn := fn, code := 1, status := st, tag := tag }
      let mine := (fn = .pf ∧ p ≤ 64) ∨ fn = .vf p
      let sized := 0 < nrec ∧ nrec ≤ 256
      let empty := p ≠ 64 ∧ s.placement p = []
      (lock = false → exec i s = stop 4) ∧
      (lock = true → ¬(sized ∧ mine) → exec i s = stop 5) ∧
      (lock = true → sized → mine → empty → exec i s = stop 3) ∧
      (lock = true → sized → mine → ¬empty → (s.part p).cstOpen = true → ∃ u, exec i s = .next u ∧
        u.host.queue = s.host.queue ++ [{ fn := fn, work := .launch nrec p addr tag }] ∧ u.host.done = s.host.done ∧ u.parts = s.parts ∧ sameMemory s u) ∧
      (lock = true → sized → mine → ¬empty → (s.part p).cstOpen = false →
        (s.entryCount p < (s.part p).tasks.length + nrec → exec i s = stop 2) ∧
        ((s.part p).tasks.length + nrec ≤ s.entryCount p →
          (∀ e, s.launchRecords p addr nrec 0 = .error e → e.fault.hold = none → exec i s = ends { fn := fn, code := 1, status := e.status, tag := tag, index := e.index, value := e.fault.code }) ∧
          (∀ e, s.launchRecords p addr nrec 0 = .error e → e.fault.hold ≠ none → ∃ u h, exec i s = .next u ∧ sameMemory s u ∧ u.parts = s.parts ∧ u.host.done = s.host.done ∧
            u.host.queue = s.host.queue ++ [h] ∧ h.fn = fn ∧ h.work = .launch nrec p addr tag ∧ h.heldAt = e.fault.heldFrom none s.tick) ∧
          (∀ ts ns, s.launchRecords p addr nrec 0 = .ok (ts, ns) → ∃ u, exec i s = .next u ∧ sameMemory s u ∧
            u.host.done = s.host.done ++ [{ fn := fn, code := 1, status := 0, tag := tag, value := (s.part p).nextId }] ∧
            ts.length = nrec ∧ (u.part p).nextId = (s.part p).nextId + nrec ∧ (∀ t ∈ (s.part p).tasks, t ∈ (u.part p).tasks) ∧
            ∀ j t, ts[j]? = some t → ∃ y ∈ (u.part p).tasks, y.id = (s.part p).nextId + j ∧ y.part = p ∧ y.code = t.code ∧ y.frame = t.frame ∧
              y.prio = t.prio ∧ y.banks = t.banks ∧ y.pin = t.pin ∧ y.state = (if t.join = 0 then .ready else .pending)))))) ∧
  (∀ (s : State) (sl : Slot) (sd sa c : Nat),
    let put := fun (w : Word) => Host.Outcome.next (ρ := Refusal) (φ := Fault) (s.putSlot (sl.wrote sd w))
    let i := Instr.errlog sd sa c true
    let a := (sl.ctx.reg sa).toNat
    (Issues s sl (.errlog sd sa c false) →
      exec (.errlog sd sa c false) s = put (BitVec.ofNat 64 (s.host.log.length * 4294967296 + s.host.dropped % 4294967296))) ∧
    (Issues s sl i →
      (a % 32 ≠ 0 → ∃ f, exec i s = .next (s.faulted sl i f) ∧ ((sl.ctx.cap c).grants kStore.cap = false → f.code = 0x07) ∧
        ((sl.ctx.cap c).grants kStore.cap = true → (a < (sl.ctx.cap c).lo ∨ (sl.ctx.cap c).hi < a + 32) → f.code = 0x06) ∧
        ((sl.ctx.cap c).grants kStore.cap = true → (sl.ctx.cap c).lo ≤ a → a + 32 ≤ (sl.ctx.cap c).hi → f.code = 0x0B)) ∧
      (a % 32 = 0 → s.host.log = [] → exec i s = put (BitVec.allOnes 64)) ∧
      (∀ e es, a % 32 = 0 → s.host.log = e :: es →
        (s.mayAccess sl .rel = false → exec i s = .next s.waiting) ∧
        (∀ s1 f, s.mayAccess sl .rel = true → s.storeObj sl (sl.ctx.cap c) a 32 5 e.bytes = .fault s1 f → f.hold = none → exec i s = .next (s1.faulted sl i f)) ∧
        (∀ s1 ts bs, s.mayAccess sl .rel = true → s.storeObj sl (sl.ctx.cap c) a 32 5 e.bytes = .ok s1 bs →
          nowPieces s s.curCore sl.part (sl.ctx.cap c) kStore 32 (cuts 16 a 32) = .ok ts →
          ∃ u, exec i s = .next u ∧ u.slot? s.curCore s.curSlot = some (sl.wrote sd (BitVec.ofNat 64 es.length)) ∧ u.host.log = es ∧
            (∀ ap d x, (∀ t ∈ ts, sameStore t.tgt.aper s.curCore ap d = true → x < t.tgt.addr ∨ t.tgt.addr + t.len ≤ x) → u.byteAt ap d x = s.byteAt ap d x) ∧
            (∀ t, ts = [t] → ∀ j b, e.bytes[j]? = some b → u.byteAt t.tgt.aper s.curCore (t.tgt.addr + j) = b)))))

/-- Each sideband event appends one answer (a reading per die and the power, which log entry 60 leaves free, every PWST.CUR, LSTATE, DEVID, the public key, or a NACK) and changes no core, region, partition or byte. A power or junction limit lowers BASE by one, to 8 at the lowest, of every region or of the die's, cooling raises it, to 16 at the highest, each is logged as thermal (log entry 62), and shutdown turns the rails off. Package reset keeps memory, scratchpads and tiles and the pool's tokens (log entry 61), starts the next boot, and leaves all else as at reset, with no slot occupied and every conduit DOWN. -/
def Obligations.SidebandPowerAndReset : Prop :=
  (∀ (s : State),
    let answer := fun (i : Instr) (cmd : Nat) (v : Option (List Nat)) => ∃ u, exec i s = .next u ∧ u.host.side = s.host.side ++ [(cmd, v)] ∧
      u.cores = s.cores ∧ u.regions = s.regions ∧ u.parts = s.parts ∧ u.links = s.links ∧ u.host.log = s.host.log ∧ sameMemory s u
    (∃ l, answer .sidebandTemperature 1 (some l) ∧ l.length = 9 ∧ ∀ v ∈ l, v < 256) ∧
    (∃ w, answer .sidebandPower 2 (some [w]) ∧ w < 65536) ∧
    (∃ l, answer .sidebandPwst 3 (some l) ∧ l.length = 64 ∧ ∀ r, r < 64 → l[r]? = some (s.region r).cur) ∧
    answer .sidebandLstate 4 (some [s.lstate.toNat]) ∧ answer .sidebandDevid 5 (some [Config.devId.toNat]) ∧
    answer .sidebandPubkey 6 (some (hssPublic.map (fun b => b.toNat))) ∧ ∀ cmd, answer (.sidebandNack cmd) cmd none) ∧
  (∀ (s : State),
    let steps := fun (i : Instr) (region : Nat) (hit : Nat → Prop) (f : Nat → Nat) => ∃ u, exec i s = .next u ∧ sameMemory s u ∧ u.cores = s.cores ∧
      u.parts = s.parts ∧ u.links = s.links ∧ u.off = s.off ∧
      (∀ r, hit r → (u.region r).base = f (s.region r).base) ∧ (∀ r, ¬hit r → (u.region r).base = (s.region r).base) ∧
      (∀ r, (u.region r).state = (s.region r).state ∧ (u.region r).part = (s.region r).part ∧ (u.region r).token = (s.region r).token) ∧
      (∀ r, (s.region r).state ≠ .owned → (s.region r).state ≠ .held → (s.region r).state ≠ .quiesce →
        (u.region r).cur = (s.region r).cur) ∧
      (s.host.log.length < 1024 → ∃ e, u.host.log = s.host.log ++ [e] ∧ e.cls = 4 ∧ e.region = region ∧ e.tick = s.tick)
    let down := fun (b : Nat) => max 8 (b - 1)
    steps .powerLimit 65 (fun r => r < 64) down ∧
    (∀ die, die ≤ 3 →
      steps (.junctionThrottle die) (16 * die) (fun r => 16 * die ≤ r ∧ r < 16 * die + 16) down ∧
      steps (.junctionCooled die) (16 * die) (fun r => 16 * die ≤ r ∧ r < 16 * die + 16) (fun b => min 16 (b + 1)) ∧
      ∃ u, exec (.junctionShutdown die) s = .next u ∧ u.off = true ∧ u.regions = s.regions ∧ u.cores = s.cores ∧ sameMemory s u)) ∧
  (∀ (s : State), ∃ u, exec .packageReset s = .next u ∧ u.mem = s.mem ∧ u.memErr = s.memErr ∧ u.cist = s.cist ∧ u.cistErr = s.cistErr ∧
    u.boots = s.boots + 1 ∧ u.tick = 0 ∧ u.off = false ∧ u.parts = State.reset.parts ∧ u.regions = State.reset.regions ∧ u.grotto = State.reset.grotto ∧
    u.host = State.reset.host ∧ (∀ c, (u.core c).spad = (s.core c).spad ∧ (u.core c).cells = (s.core c).cells ∧ (u.core c).slots = [] ∧
      (u.core c).cmds = [] ∧ (u.core c).sluices = []) ∧
    (∀ n, u.conduit n = {}) ∧ u.links.firstRsm = false ∧ u.links.topo = none ∧ u.links.joined = [] ∧ u.links.fenced = false ∧
    u.links.waits = s.links.waits ∧
    ∀ name, (u.leaseRow name).token = (s.leaseRow name).token ∧ (u.leaseRow name).holder = (s.leaseRow name).holder ∧
      (u.leaseRow name).till = (s.leaseRow name).till - s.tick)
end

