-- ==== Sys2Proof/Laws/Map.lean ====
section
/-! SUPPORT. Laws of the finite maps of Machine/Map.lean: reads after writes, and that every operation keeps the canonical form. -/

namespace Sys2Proof.Machine

section
variable {α : Type}

/-- A key just listed reads what was listed. -/
@[simp] theorem mfind_mset_same (m : Map α) (k : Nat) (v : α) : mfind (mset m k v) k = some v := by
  induction m with
  | nil => simp [mset, mfind]
  | cons p m ih => unfold mset; split <;> (try split) <;> simp [mfind, *]

/-- Listing one key leaves every other alone. -/
theorem mfind_mset_other (m : Map α) {k j : Nat} (v : α) (h : j ≠ k) : mfind (mset m k v) j = mfind m j := by
  induction m with
  | nil => simp [mset, mfind, h]
  | cons p m ih =>
    unfold mset
    split
    · subst_vars; simp [mfind, h]
    · split
      · simp [mfind, h]
      · simp only [mfind, ih]

/-- A key just listed reads its value. -/
@[simp] theorem mget_mset_same (d : α) (m : Map α) (k : Nat) (v : α) : mget d (mset m k v) k = v := by
  induction m with
  | nil => simp [mset, mget]
  | cons p m ih => unfold mset; split <;> (try split) <;> simp [mget, *]

/-- Listing one key leaves every other alone. -/
theorem mget_mset_other (d : α) (m : Map α) {k j : Nat} (v : α) (h : j ≠ k) : mget d (mset m k v) j = mget d m j := by
  induction m with
  | nil => simp [mset, mget, h]
  | cons p m ih =>
    unfold mset
    split
    · subst_vars; simp [mget, h]
    · split
      · simp [mget, h]
      · simp only [mget, ih]

/-- Listing a key twice keeps the second value. -/
@[simp] theorem mset_mset (m : Map α) (k : Nat) (v w : α) : mset (mset m k v) k w = mset m k w := by
  induction m with
  | nil => simp [mset]
  | cons p m ih =>
    obtain ⟨j, u⟩ := p
    by_cases h : k = j
    · simp [mset, h]
    · by_cases h' : k < j
      · simp [mset, h, h']
      · simp [mset, h, h', ih]

/-- A map with a listed key is not empty. -/
@[simp] theorem mset_ne_nil (m : Map α) (k : Nat) (v : α) : mset m k v ≠ [] := by
  cases m with
  | nil => simp [mset]
  | cons p m => obtain ⟨j, u⟩ := p; unfold mset; split <;> simp; split <;> simp

/-- Every key of the map is above `n`. -/
def mabove (n : Nat) (m : Map α) : Prop := ∀ p ∈ m, n < p.1

theorem msorted_cons {j : Nat} {u : α} {m : Map α} : msorted ((j, u) :: m) = true ↔ mabove j m ∧ msorted m = true := by
  induction m generalizing j u with
  | nil => simp [msorted, mabove]
  | cons p m ih =>
    obtain ⟨i, w⟩ := p
    simp only [msorted, Bool.and_eq_true, decide_eq_true_eq]
    constructor
    · rintro ⟨h, h'⟩
      refine ⟨?_, h'⟩
      intro q hq
      rcases List.mem_cons.mp hq with rfl | hq
      · exact h
      · exact Nat.lt_trans h ((ih.mp h').1 q hq)
    · rintro ⟨h, h'⟩
      exact ⟨h (i, w) List.mem_cons_self, h'⟩

theorem mset_mem {m : Map α} {k : Nat} {v : α} {p : Nat × α} (h : p ∈ mset m k v) : p = (k, v) ∨ p ∈ m := by
  induction m with
  | nil => simpa [mset] using h
  | cons q m ih =>
    obtain ⟨j, u⟩ := q
    unfold mset at h
    split at h
    · rcases List.mem_cons.mp h with h | h <;> simp [h]
    · split at h
      · rcases List.mem_cons.mp h with h | h
        · exact .inl h
        · exact .inr h
      · rcases List.mem_cons.mp h with h | h
        · exact .inr (by simp [h])
        · rcases ih h with h | h
          · exact .inl h
          · exact .inr (by simp [h])

theorem merase_mem {m : Map α} {k : Nat} {p : Nat × α} (h : p ∈ merase m k) : p ∈ m := by
  induction m with
  | nil => simp [merase] at h
  | cons q m ih =>
    unfold merase at h
    split at h
    · exact List.mem_cons_of_mem _ (ih h)
    · rcases List.mem_cons.mp h with h | h
      · simp [h]
      · exact List.mem_cons_of_mem _ (ih h)

/-- Listing a key keeps the keys rising. -/
theorem msorted_mset {m : Map α} (k : Nat) (v : α) (h : msorted m = true) : msorted (mset m k v) = true := by
  induction m with
  | nil => simp [mset, msorted]
  | cons q m ih =>
    obtain ⟨j, u⟩ := q
    obtain ⟨ha, hs⟩ := msorted_cons.mp h
    unfold mset
    split
    · subst_vars; exact msorted_cons.mpr ⟨ha, hs⟩
    · split
      · rename_i h1 h2
        refine msorted_cons.mpr ⟨?_, h⟩
        intro p hp
        rcases List.mem_cons.mp hp with rfl | hp
        · exact h2
        · exact Nat.lt_trans h2 (ha p hp)
      · rename_i h1 h2
        refine msorted_cons.mpr ⟨?_, ih hs⟩
        intro p hp
        rcases mset_mem hp with rfl | hp
        · show j < k; omega
        · exact ha p hp

/-- Unlisting a key keeps the keys rising. -/
theorem msorted_merase {m : Map α} (k : Nat) (h : msorted m = true) : msorted (merase m k) = true := by
  induction m with
  | nil => simp [merase, msorted]
  | cons q m ih =>
    obtain ⟨j, u⟩ := q
    obtain ⟨ha, hs⟩ := msorted_cons.mp h
    unfold merase
    split
    · exact ih hs
    · exact msorted_cons.mpr ⟨fun p hp => ha p (merase_mem hp), ih hs⟩

/-- A key just unlisted reads the default. -/
@[simp] theorem mget_merase_same (d : α) (m : Map α) (k : Nat) : mget d (merase m k) k = d := by
  induction m with
  | nil => rfl
  | cons q m ih =>
    unfold merase
    split
    · exact ih
    · simp [mget, *]

/-- Unlisting one key leaves every other alone. -/
theorem mget_merase_other (d : α) (m : Map α) {k j : Nat} (hj : j ≠ k) : mget d (merase m k) j = mget d m j := by
  induction m with
  | nil => rfl
  | cons q m ih =>
    unfold merase
    split
    · subst_vars; simp only [mget, hj, if_false, ih]
    · simp only [mget, ih]

/-- Unlisting one key leaves every other alone. -/
theorem mfind_merase_other (m : Map α) {k j : Nat} (hj : j ≠ k) : mfind (merase m k) j = mfind m j := by
  induction m with
  | nil => rfl
  | cons q m ih =>
    unfold merase
    split
    · subst_vars; simp only [mfind, hj, if_false, ih]
    · simp only [mfind, ih]

/-- A key just unlisted is not found. -/
@[simp] theorem mfind_merase_same (m : Map α) (k : Nat) : mfind (merase m k) k = none := by
  induction m with
  | nil => rfl
  | cons q m ih =>
    unfold merase
    split
    · exact ih
    · simp [mfind, *]

variable [DecidableEq α]

/-- A key reads what was put there. -/
@[simp] theorem mget_mput_same (d : α) (m : Map α) (k : Nat) (v : α) : mget d (mput d m k v) k = v := by
  unfold mput
  split
  · rename_i hv; rw [hv]; exact mget_merase_same d m k
  · simp

/-- A put leaves every other key alone. -/
theorem mget_mput_other (d : α) (m : Map α) {k j : Nat} (v : α) (hj : j ≠ k) :
    mget d (mput d m k v) j = mget d m j := by
  unfold mput
  split
  · exact mget_merase_other d m hj
  · exact mget_mset_other d m v hj

/-- A put of anything but the default, in any list. -/
theorem mput_of_ne (d : α) {v : α} (m : Map α) (k : Nat) (h : v ≠ d) : mput d m k v = mset m k v := by simp [mput, h]

theorem msorted_mput (d : α) {m : Map α} (k : Nat) (v : α) (h : msorted m = true) : msorted (mput d m k v) = true := by
  unfold mput
  split
  · exact msorted_merase k h
  · exact msorted_mset k v h

/-- A put keeps the canonical form. -/
theorem mwf_mput (d : α) {m : Map α} (k : Nat) (v : α) (h : mwf d m = true) : mwf d (mput d m k v) = true := by
  simp only [mwf, Bool.and_eq_true, List.all_eq_true, decide_eq_true_eq] at h ⊢
  refine ⟨msorted_mput d k v h.1, fun p hp => ?_⟩
  unfold mput at hp
  split at hp
  · exact h.2 p (merase_mem hp)
  · rcases mset_mem hp with rfl | hp
    · assumption
    · exact h.2 p hp

/-- What a filter keeps is in canonical form. -/
theorem mwf_filter (d : α) {m : Map α} (f : Nat × α → Bool) (h : mwf d m = true) : mwf d (m.filter f) = true := by
  simp only [mwf, Bool.and_eq_true, List.all_eq_true, decide_eq_true_eq] at h ⊢
  refine ⟨?_, fun p hp => h.2 p ((List.mem_filter.mp hp).1)⟩
  obtain ⟨hs, -⟩ := h
  induction m with
  | nil => rfl
  | cons q m ih =>
    obtain ⟨j, u⟩ := q
    obtain ⟨ha, hs⟩ := msorted_cons.mp hs
    simp only [List.filter_cons]
    split
    · exact msorted_cons.mpr ⟨fun p hp => ha p ((List.mem_filter.mp hp).1), ih hs⟩
    · exact ih hs

@[simp] theorem mwf_nil (d : α) : mwf d ([] : Map α) = true := rfl

end

/-- A map whose values are changed by a function that keeps the default. -/
theorem mget_map {d : α} {f : α → α} (hf : f d = d) (m : Map α) (k : Nat) : mget d (m.map (fun kv => (kv.1, f kv.2))) k = f (mget d m k) := by
  induction m with
  | nil => exact hf.symm
  | cons x m ih =>
    simp only [List.map_cons, mget]
    split
    · rfl
    · exact ih

end Sys2Proof.Machine
end

