-- ==== Sys2Proof/Laws/Mem.lean ====
section
/-! SUPPORT. Laws of the byte stores: reads after writes, the canonical form, and little-endian values. -/

namespace Sys2Proof.Machine

/-- A byte reads what was written there. -/
theorem rd8_wr8_same {m : Bytes} (a : Nat) (v : Byte) : rd8 (wr8 m a v) a = v :=
  mget_mput_same blank m a v

/-- A write leaves every other byte alone. -/
theorem rd8_wr8_other {m : Bytes} {a b : Nat} (v : Byte) (hb : b ≠ a) : rd8 (wr8 m a v) b = rd8 m b :=
  mget_mput_other blank m v hb

/-- A write keeps the canonical form. -/
theorem wr8_wf {m : Bytes} (a : Nat) (v : Byte) (h : Bytes.wf m = true) : Bytes.wf (wr8 m a v) = true := mwf_mput blank a v h

/-- A write of bytes keeps the canonical form. -/
theorem wrBytes_wf {m : Bytes} (a : Nat) (bs : List Byte) (h : Bytes.wf m = true) : Bytes.wf (wrBytes m a bs) = true := by
  induction bs generalizing m a with
  | nil => exact h
  | cons b bs ih => exact ih (a + 1) (wr8_wf a b h)

/-- A write of a value keeps the canonical form. -/
theorem wrN_wf {m : Bytes} (a n v : Nat) (h : Bytes.wf m = true) : Bytes.wf (wrN m a n v) = true := wrBytes_wf a _ h

/-- What a filter keeps of a store is in canonical form. -/
theorem filter_wf {m : Bytes} (f : Host.Cell → Bool) (h : Bytes.wf m = true) : Bytes.wf (m.filter f) = true := mwf_filter blank f h

/-- A byte outside the written range is unchanged. -/
theorem rd8_wrBytes_outside {m : Bytes} (a : Nat) (bs : List Byte) {x : Nat}
    (hx : x < a ∨ a + bs.length ≤ x) : rd8 (wrBytes m a bs) x = rd8 m x := by
  induction bs generalizing m a with
  | nil => rfl
  | cons b bs ih =>
    simp only [List.length_cons] at hx
    rw [wrBytes, ih (a + 1) (by omega), rd8_wr8_other b (by omega)]

/-- A byte inside the written range reads what was written. -/
theorem rd8_wrBytes_inside {m : Bytes} (a : Nat) (bs : List Byte) {i : Nat} (hi : i < bs.length) :
    rd8 (wrBytes m a bs) (a + i) = bs[i] := by
  induction bs generalizing m a i with
  | nil => simp at hi
  | cons b bs ih =>
    cases i with
    | zero => rw [wrBytes, rd8_wrBytes_outside (a + 1) bs (by omega)]; exact rd8_wr8_same a b
    | succ i =>
      have := ih (m := wr8 m a b) (a + 1) (i := i) (by simpa using hi)
      rw [wrBytes, List.getElem_cons_succ, ← this]
      congr 1; omega

/-- Bytes just written read back. -/
theorem rdBytes_wrBytes {m : Bytes} (a : Nat) (bs : List Byte) :
    rdBytes (wrBytes m a bs) a bs.length = bs := by
  have key : ∀ n i, i + n = bs.length → rdBytes (wrBytes m a bs) (a + i) n = bs.drop i := by
    intro n
    induction n with
    | zero => intro i hi; simp only [rdBytes]; exact (List.drop_eq_nil_of_le (by omega)).symm
    | succ n ih =>
      intro i hi
      have := ih (i + 1) (by omega)
      rw [rdBytes, rd8_wrBytes_inside a bs (by omega : i < bs.length)]
      rw [show a + i + 1 = a + (i + 1) by omega, this]
      exact List.getElem_cons_drop (by omega)
  simpa using key bs.length 0 (by omega)

/-- A range that the write does not meet reads as before. -/
theorem rdBytes_wrBytes_outside {m : Bytes} (a : Nat) (bs : List Byte) (x n : Nat)
    (hx : x + n ≤ a ∨ a + bs.length ≤ x) : rdBytes (wrBytes m a bs) x n = rdBytes m x n := by
  induction n generalizing x with
  | zero => rfl
  | succ n ih => rw [rdBytes, rdBytes, rd8_wrBytes_outside a bs (by omega), ih (x + 1) (by omega)]

@[simp] theorem leBytes_length (n v : Nat) : (leBytes n v).length = n := by
  induction n generalizing v with
  | zero => rfl
  | succ n ih => simp [leBytes, ih]

@[simp] theorem rdBytes_length (m : Bytes) (a n : Nat) : (rdBytes m a n).length = n := by
  induction n generalizing a with
  | zero => rfl
  | succ n ih => simp [rdBytes, ih]

/-- Little-endian bytes give their value back (R7). -/
theorem leNat_leBytes (n v : Nat) : leNat (leBytes n v) = v % 256 ^ n := by
  induction n generalizing v with
  | zero => simp [leBytes, leNat, Nat.mod_one]
  | succ n ih =>
    simp only [leBytes, leNat, ih, BitVec.toNat_ofNat]
    have : v % 256 ^ (n + 1) = v % 256 + 256 * (v / 256 % 256 ^ n) := by rw [Nat.pow_succ']; exact Nat.mod_mul
    rw [this]

/-- A value just written reads back (R7). -/
theorem rdN_wrN {m : Bytes} (a n v : Nat) : rdN (wrN m a n v) a n = v % 256 ^ n := by
  have := rdBytes_wrBytes (m := m) a (leBytes n v)
  simp only [leBytes_length] at this
  rw [rdN, wrN, this, leNat_leBytes]

end Sys2Proof.Machine
end

