-- ==== Sys2Proof/Laws/Frame.lean ====
section
/-! SUPPORT. Laws of saved contexts and of long reads and writes of objects: lengths, a frame's CRC, and transfers whose bytes lie
in one page or one tile. -/

namespace Sys2Proof.Machine

/-- A field put into a frame keeps its length. -/
theorem fput_length {b : List Byte} {at_ n : Nat} (v : Nat) (h : at_ + n ≤ b.length) : (fput b at_ n v).length = b.length := by
  simp [fput] <;> omega

/-- A frame with its CRC made anew is as long as before. -/
theorem refreshCrc_length {b : List Byte} (w : List Byte) (h : 0x80 ≤ b.length) : (refreshCrc b w).length = b.length :=
  fput_length _ (by omega)

/-- A field put twice holds the second value. -/
theorem fput_fput {b : List Byte} {at_ n : Nat} (u v : Nat) (h : at_ + n ≤ b.length) : fput (fput b at_ n u) at_ n v = fput b at_ n v := by
  have ht : (b.take at_).length = at_ := by simp <;> omega
  simp only [fput, List.append_assoc]
  rw [List.take_append_of_le_length (by omega), List.take_of_length_le (by omega)]
  rw [List.drop_append, List.drop_of_length_le (by simp <;> omega), ht]
  simp

/-- A field reads what was put. -/
theorem fget_fput {b : List Byte} {at_ n : Nat} (v : Nat) (h : at_ + n ≤ b.length) : fget (fput b at_ n v) at_ n = v % 256 ^ n := by
  have ht : (b.take at_).length = at_ := by simp <;> omega
  simp only [fput, fget, List.append_assoc]
  rw [List.drop_append, List.drop_of_length_le (by omega), ht]
  simp [leNat_leBytes]

theorem crcBits_lt (n : Nat) {c : Nat} (h : c < 2 ^ 32) : crcBits n c < 2 ^ 32 := by
  induction n generalizing c with
  | zero => exact h
  | succ n ih =>
    apply ih
    split
    · exact Nat.xor_lt_two_pow (by omega) (by omega)
    · omega

theorem crcGo_lt (bs : List Byte) {c : Nat} (h : c < 2 ^ 32) : crcGo bs c < 2 ^ 32 := by
  induction bs generalizing c with
  | nil => exact h
  | cons b bs ih => exact ih (crcBits_lt 8 (Nat.xor_lt_two_pow h (by have := b.isLt; omega)))

/-- A CRC has 32 bits. -/
theorem crc32c_lt (bs : List Byte) : crc32c bs < 2 ^ 32 := Nat.xor_lt_two_pow (crcGo_lt bs (by omega)) (by omega)

/-- A frame with its CRC made anew has the CRC of its bytes (R302). -/
theorem refreshCrc_ok {b : List Byte} (w : List Byte) (h : 0x80 ≤ b.length) :
    fget (refreshCrc b w) 0x7C 4 = crc32c (fput (refreshCrc b w) 0x7C 4 0 ++ w) := by
  rw [refreshCrc, fget_fput _ (by omega), fput_fput _ _ (by omega), Nat.mod_eq_of_lt (show crc32c _ < 256 ^ 4 from crc32c_lt _)]

/-- A read within one guest page. -/
theorem gread_one {s : State} {r p k g n : Nat} {t : Target} {b : List Byte} {ns : List Note} (ht : s2Alone s r p [] g needR false = .ok t)
    (hb : tableRead s r p t n = .ok (b, ns)) (hn : n ≠ 0) (hg : g % 2 ^ 21 + n ≤ 2 ^ 21) : s.gread r p (k + 2) g n = .ok (b, ns) := by
  have hm : min n (2 ^ 21 - g % 2 ^ 21) = n := by omega
  simp only [State.gread, ht, hm, hb, Nat.sub_self, if_neg hn, if_true, List.append_nil]

/-- A write within one guest page, which may go out. -/
theorem gwrite_one {s : State} {r p k g : Nat} {bs : List Byte} {t : Target} (ht : s2Alone s r p [] g needW false = .ok t)
    (hq : s.gwriteStop r p t bs = none)
    (hn : bs ≠ []) (hg : g % 2 ^ 21 + bs.length ≤ 2 ^ 21) : s.gwrite r p (k + 2) g bs = .ok (s.gwrote r p t bs) := by
  have h1 : bs.take (2 ^ 21 - g % 2 ^ 21) = bs := List.take_of_length_le (by omega)
  have h2 : bs.drop (2 ^ 21 - g % 2 ^ 21) = [] := List.drop_of_length_le (by omega)
  have h3 : bs.isEmpty = false := by cases bs <;> simp_all
  simp only [State.gwrite, ht, h1, h2, h3, hq, List.isEmpty_nil, Bool.false_eq_true, if_false, if_true]

/-- A store of bytes whose pieces all pass their checks and may go out under a token that the pool accepts. -/
theorem storeObj_ok {s : State} {sl : Slot} {cap : Cap} {off al scope : Nat} {bs : List Byte} {xs : List Piece}
    (ht : nowPieces s s.curCore sl.part cap kStore al (cuts 16 off bs.length) = .ok xs)
    (hg : xs.findSome? (fun x => s.nowGate s.curCore sl.part x scope true) = none) (hs : s.stalePiece sl.part scope cap xs = none) :
    s.storeObj sl cap off al scope bs = .ok (s.writeEach sl cap scope xs bs) [] := by
  simp [State.storeObj, ht, hg, hs]

/-- A read of bytes that lie in one tile, at home, with no request to send. -/
theorem loadObj_one {s : State} {sl : Slot} {cap : Cap} {off n al scope : Nat} {t : Target}
    (ht : nowPieces s s.curCore sl.part cap kLoad al (cuts 16 off n) = .ok [nowPiece t n off cap.oid])
    (hg : s.nowGate s.curCore sl.part (nowPiece t n off cap.oid) scope false = none)
    (hr : s.needsRoute sl.part t n scope false = false) (hk : t.notes = []) (hp : s.locPoison (t.loc s.curCore sl.part) n scope = false) :
    s.loadObj sl cap off n al scope =
      .ok (s.afterRead (t.loc s.curCore sl.part) n scope {}) (s.locBytes (t.loc s.curCore sl.part) n scope) := by
  have hg' := hg
  simp only [nowPiece] at hg'
  simp [State.loadObj, ht, hg', State.readEach, State.readBytesNow, State.sendLines, hr, hk, State.keepNotes, hp, nowPiece]

/-- A frame patched in one page (R317). -/
theorem patchFrame_one {s u : State} {t : Task} {i : Nat} {f : List Byte → List Byte} {b : List Byte} {x : Target}
    (hr : s.savedFrame t i = .ok (b, u)) (hw : s2Alone u u.curCore t.part [] (u.frameAddr t.part i) needW false = .ok x)
    (hq : u.gwriteStop u.curCore t.part x (refreshCrc (f b) []) = none)
    (hl : 0x80 ≤ (f b).length) (hg : u.frameAddr t.part i % 2 ^ 21 + (f b).length ≤ 2 ^ 21) :
    s.patchFrame t i f = .ok (u.gwrote u.curCore t.part x (refreshCrc (f b) [])) := by
  have hn : refreshCrc (f b) [] ≠ [] := by
    intro h; have := refreshCrc_length (b := f b) [] hl; rw [h] at this; simp at this; omega
  simp only [State.patchFrame, hr, State.putFrame]
  rw [gwrite_one (k := 1) hw hq hn (by rw [refreshCrc_length [] hl]; exact hg)]

/-- The bytes of a short range are those of the whole. -/
theorem rdBytes_append (m : Bytes) (a n k : Nat) : rdBytes m a (n + k) = rdBytes m a n ++ rdBytes m (a + n) k := by
  induction n generalizing a with
  | zero => simp [rdBytes]
  | succ n ih =>
    rw [show n + 1 + k = (n + k) + 1 by omega, rdBytes, rdBytes, ih, List.cons_append, show a + (n + 1) = a + 1 + n by omega]

/-- A range of bytes, byte by byte. -/
theorem rdBytes_eq_map (m : Bytes) (a n : Nat) : rdBytes m a n = (List.range n).map (fun i => rd8 m (a + i)) := by
  induction n generalizing a with
  | zero => rfl
  | succ n ih => rw [rdBytes, ih, List.range_succ_eq_map]; simp [Nat.add_assoc, Nat.add_comm 1]

/-- A LOCAL page at SCOPE 3 or more is read from system memory: only L2 keeps copies of it, for SCOPE 0 to 2 (R27, R174). -/
theorem locBytes_local {s : State} {l : Loc} {scope : Nat} (n : Nat) (h : 2 < scope) (ha : l.aper = .localPage) :
    s.locBytes l n scope = rdBytes s.mem l.addr n := by
  simp [State.locBytes, ha, State.pageByte, State.l2Hit, h, rdBytes_eq_map]

/-- Such a read leaves the caches as they are. -/
theorem afterRead_local {s : State} {l : Loc} {scope : Nat} (n : Nat) (f : Fill) (h : 2 < scope) (ha : l.aper = .localPage) :
    s.afterRead l n scope f = s := by
  have e : ∀ ks : List Nat, ks.foldl (fun t k => t.lineRead l scope f k) s = s := by
    intro ks
    induction ks with
    | nil => rfl
    | cons k ks ih => rw [List.foldl_cons, show s.lineRead l scope f k = s by simp [State.lineRead, State.l2Hit, h, ha] <;> omega, ih]
  simp [State.afterRead, ha, e]

/-- A table or a frame in a LOCAL page is read in place, with no request and no note. -/
theorem tableRead_local {s : State} {r p n : Nat} {t : Target} (hg : s.gateStop r p t 3 = none) (hq : s.accRoute p t n 3 false = none)
    (hp : s.locPoison (t.loc r p) n 3 = false) (hk : t.notes = []) (ha : t.aper = .localPage) :
    tableRead s r p t n = .ok (rdBytes s.mem t.addr n, []) := by
  simp only [Target.loc, ha] at hp
  simp [tableRead, hg, hq, hp, hk, msgNote, locBytes_local, Target.loc, ha]

end Sys2Proof.Machine
end

