-- ==== Sys2Proof/Laws/State.lean ====
section
/-! SUPPORT. One law for each field of the state under each named update of Machine/Base.lean, and what an updated part then reads. -/

namespace Sys2Proof.Machine

/-! ### setCore -/
@[simp] theorem State.setCore_tick (s : State) (c : Nat) (v : Core) : (s.setCore c v).tick = s.tick := rfl
@[simp] theorem State.setCore_boots (s : State) (c : Nat) (v : Core) : (s.setCore c v).boots = s.boots := rfl
@[simp] theorem State.setCore_curCore (s : State) (c : Nat) (v : Core) : (s.setCore c v).curCore = s.curCore := rfl
@[simp] theorem State.setCore_curSlot (s : State) (c : Nat) (v : Core) : (s.setCore c v).curSlot = s.curSlot := rfl
@[simp] theorem State.setCore_agenda (s : State) (c : Nat) (v : Core) : (s.setCore c v).agenda = s.agenda := rfl
@[simp] theorem State.setCore_free (s : State) (c : Nat) (v : Core) : (s.setCore c v).free = s.free := rfl
@[simp] theorem State.setCore_clock (s : State) (c : Nat) (v : Core) : (s.setCore c v).clock = s.clock := rfl
@[simp] theorem State.setCore_mem (s : State) (c : Nat) (v : Core) : (s.setCore c v).mem = s.mem := rfl
@[simp] theorem State.setCore_memErr (s : State) (c : Nat) (v : Core) : (s.setCore c v).memErr = s.memErr := rfl
@[simp] theorem State.setCore_resErr (s : State) (c : Nat) (v : Core) : (s.setCore c v).resErr = s.resErr := rfl
@[simp] theorem State.setCore_cist (s : State) (c : Nat) (v : Core) : (s.setCore c v).cist = s.cist := rfl
@[simp] theorem State.setCore_cistErr (s : State) (c : Nat) (v : Core) : (s.setCore c v).cistErr = s.cistErr := rfl
@[simp] theorem State.setCore_regions (s : State) (c : Nat) (v : Core) : (s.setCore c v).regions = s.regions := rfl
@[simp] theorem State.setCore_parts (s : State) (c : Nat) (v : Core) : (s.setCore c v).parts = s.parts := rfl
@[simp] theorem State.setCore_grotto (s : State) (c : Nat) (v : Core) : (s.setCore c v).grotto = s.grotto := rfl
@[simp] theorem State.setCore_links (s : State) (c : Nat) (v : Core) : (s.setCore c v).links = s.links := rfl
@[simp] theorem State.setCore_host (s : State) (c : Nat) (v : Core) : (s.setCore c v).host = s.host := rfl
@[simp] theorem State.setCore_off (s : State) (c : Nat) (v : Core) : (s.setCore c v).off = s.off := rfl

/-! ### setRegion -/
@[simp] theorem State.setRegion_tick (s : State) (r : Nat) (v : Region) : (s.setRegion r v).tick = s.tick := rfl
@[simp] theorem State.setRegion_boots (s : State) (r : Nat) (v : Region) : (s.setRegion r v).boots = s.boots := rfl
@[simp] theorem State.setRegion_curCore (s : State) (r : Nat) (v : Region) : (s.setRegion r v).curCore = s.curCore := rfl
@[simp] theorem State.setRegion_curSlot (s : State) (r : Nat) (v : Region) : (s.setRegion r v).curSlot = s.curSlot := rfl
@[simp] theorem State.setRegion_agenda (s : State) (r : Nat) (v : Region) : (s.setRegion r v).agenda = s.agenda := rfl
@[simp] theorem State.setRegion_free (s : State) (r : Nat) (v : Region) : (s.setRegion r v).free = s.free := rfl
@[simp] theorem State.setRegion_clock (s : State) (r : Nat) (v : Region) : (s.setRegion r v).clock = s.clock := rfl
@[simp] theorem State.setRegion_mem (s : State) (r : Nat) (v : Region) : (s.setRegion r v).mem = s.mem := rfl
@[simp] theorem State.setRegion_memErr (s : State) (r : Nat) (v : Region) : (s.setRegion r v).memErr = s.memErr := rfl
@[simp] theorem State.setRegion_resErr (s : State) (r : Nat) (v : Region) : (s.setRegion r v).resErr = s.resErr := rfl
@[simp] theorem State.setRegion_cist (s : State) (r : Nat) (v : Region) : (s.setRegion r v).cist = s.cist := rfl
@[simp] theorem State.setRegion_cistErr (s : State) (r : Nat) (v : Region) : (s.setRegion r v).cistErr = s.cistErr := rfl
@[simp] theorem State.setRegion_cores (s : State) (r : Nat) (v : Region) : (s.setRegion r v).cores = s.cores := rfl
@[simp] theorem State.setRegion_parts (s : State) (r : Nat) (v : Region) : (s.setRegion r v).parts = s.parts := rfl
@[simp] theorem State.setRegion_grotto (s : State) (r : Nat) (v : Region) : (s.setRegion r v).grotto = s.grotto := rfl
@[simp] theorem State.setRegion_links (s : State) (r : Nat) (v : Region) : (s.setRegion r v).links = s.links := rfl
@[simp] theorem State.setRegion_host (s : State) (r : Nat) (v : Region) : (s.setRegion r v).host = s.host := rfl
@[simp] theorem State.setRegion_off (s : State) (r : Nat) (v : Region) : (s.setRegion r v).off = s.off := rfl

/-! ### setPart -/
@[simp] theorem State.setPart_tick (s : State) (p : Nat) (v : Part) : (s.setPart p v).tick = s.tick := rfl
@[simp] theorem State.setPart_boots (s : State) (p : Nat) (v : Part) : (s.setPart p v).boots = s.boots := rfl
@[simp] theorem State.setPart_curCore (s : State) (p : Nat) (v : Part) : (s.setPart p v).curCore = s.curCore := rfl
@[simp] theorem State.setPart_curSlot (s : State) (p : Nat) (v : Part) : (s.setPart p v).curSlot = s.curSlot := rfl
@[simp] theorem State.setPart_agenda (s : State) (p : Nat) (v : Part) : (s.setPart p v).agenda = s.agenda := rfl
@[simp] theorem State.setPart_free (s : State) (p : Nat) (v : Part) : (s.setPart p v).free = s.free := rfl
@[simp] theorem State.setPart_clock (s : State) (p : Nat) (v : Part) : (s.setPart p v).clock = s.clock := rfl
@[simp] theorem State.setPart_mem (s : State) (p : Nat) (v : Part) : (s.setPart p v).mem = s.mem := rfl
@[simp] theorem State.setPart_memErr (s : State) (p : Nat) (v : Part) : (s.setPart p v).memErr = s.memErr := rfl
@[simp] theorem State.setPart_resErr (s : State) (p : Nat) (v : Part) : (s.setPart p v).resErr = s.resErr := rfl
@[simp] theorem State.setPart_cist (s : State) (p : Nat) (v : Part) : (s.setPart p v).cist = s.cist := rfl
@[simp] theorem State.setPart_cistErr (s : State) (p : Nat) (v : Part) : (s.setPart p v).cistErr = s.cistErr := rfl
@[simp] theorem State.setPart_cores (s : State) (p : Nat) (v : Part) : (s.setPart p v).cores = s.cores := rfl
@[simp] theorem State.setPart_regions (s : State) (p : Nat) (v : Part) : (s.setPart p v).regions = s.regions := rfl
@[simp] theorem State.setPart_grotto (s : State) (p : Nat) (v : Part) : (s.setPart p v).grotto = s.grotto := rfl
@[simp] theorem State.setPart_links (s : State) (p : Nat) (v : Part) : (s.setPart p v).links = s.links := rfl
@[simp] theorem State.setPart_host (s : State) (p : Nat) (v : Part) : (s.setPart p v).host = s.host := rfl
@[simp] theorem State.setPart_off (s : State) (p : Nat) (v : Part) : (s.setPart p v).off = s.off := rfl

/-! ### modGrotto -/
@[simp] theorem State.modGrotto_tick (s : State) (f : Grotto → Grotto) : (s.modGrotto f).tick = s.tick := rfl
@[simp] theorem State.modGrotto_boots (s : State) (f : Grotto → Grotto) : (s.modGrotto f).boots = s.boots := rfl
@[simp] theorem State.modGrotto_curCore (s : State) (f : Grotto → Grotto) : (s.modGrotto f).curCore = s.curCore := rfl
@[simp] theorem State.modGrotto_curSlot (s : State) (f : Grotto → Grotto) : (s.modGrotto f).curSlot = s.curSlot := rfl
@[simp] theorem State.modGrotto_agenda (s : State) (f : Grotto → Grotto) : (s.modGrotto f).agenda = s.agenda := rfl
@[simp] theorem State.modGrotto_free (s : State) (f : Grotto → Grotto) : (s.modGrotto f).free = s.free := rfl
@[simp] theorem State.modGrotto_clock (s : State) (f : Grotto → Grotto) : (s.modGrotto f).clock = s.clock := rfl
@[simp] theorem State.modGrotto_mem (s : State) (f : Grotto → Grotto) : (s.modGrotto f).mem = s.mem := rfl
@[simp] theorem State.modGrotto_memErr (s : State) (f : Grotto → Grotto) : (s.modGrotto f).memErr = s.memErr := rfl
@[simp] theorem State.modGrotto_resErr (s : State) (f : Grotto → Grotto) : (s.modGrotto f).resErr = s.resErr := rfl
@[simp] theorem State.modGrotto_cist (s : State) (f : Grotto → Grotto) : (s.modGrotto f).cist = s.cist := rfl
@[simp] theorem State.modGrotto_cistErr (s : State) (f : Grotto → Grotto) : (s.modGrotto f).cistErr = s.cistErr := rfl
@[simp] theorem State.modGrotto_cores (s : State) (f : Grotto → Grotto) : (s.modGrotto f).cores = s.cores := rfl
@[simp] theorem State.modGrotto_regions (s : State) (f : Grotto → Grotto) : (s.modGrotto f).regions = s.regions := rfl
@[simp] theorem State.modGrotto_parts (s : State) (f : Grotto → Grotto) : (s.modGrotto f).parts = s.parts := rfl
@[simp] theorem State.modGrotto_links (s : State) (f : Grotto → Grotto) : (s.modGrotto f).links = s.links := rfl
@[simp] theorem State.modGrotto_host (s : State) (f : Grotto → Grotto) : (s.modGrotto f).host = s.host := rfl
@[simp] theorem State.modGrotto_off (s : State) (f : Grotto → Grotto) : (s.modGrotto f).off = s.off := rfl

/-! ### modLinks -/
@[simp] theorem State.modLinks_tick (s : State) (f : Links → Links) : (s.modLinks f).tick = s.tick := rfl
@[simp] theorem State.modLinks_boots (s : State) (f : Links → Links) : (s.modLinks f).boots = s.boots := rfl
@[simp] theorem State.modLinks_curCore (s : State) (f : Links → Links) : (s.modLinks f).curCore = s.curCore := rfl
@[simp] theorem State.modLinks_curSlot (s : State) (f : Links → Links) : (s.modLinks f).curSlot = s.curSlot := rfl
@[simp] theorem State.modLinks_agenda (s : State) (f : Links → Links) : (s.modLinks f).agenda = s.agenda := rfl
@[simp] theorem State.modLinks_free (s : State) (f : Links → Links) : (s.modLinks f).free = s.free := rfl
@[simp] theorem State.modLinks_clock (s : State) (f : Links → Links) : (s.modLinks f).clock = s.clock := rfl
@[simp] theorem State.modLinks_mem (s : State) (f : Links → Links) : (s.modLinks f).mem = s.mem := rfl
@[simp] theorem State.modLinks_memErr (s : State) (f : Links → Links) : (s.modLinks f).memErr = s.memErr := rfl
@[simp] theorem State.modLinks_resErr (s : State) (f : Links → Links) : (s.modLinks f).resErr = s.resErr := rfl
@[simp] theorem State.modLinks_cist (s : State) (f : Links → Links) : (s.modLinks f).cist = s.cist := rfl
@[simp] theorem State.modLinks_cistErr (s : State) (f : Links → Links) : (s.modLinks f).cistErr = s.cistErr := rfl
@[simp] theorem State.modLinks_cores (s : State) (f : Links → Links) : (s.modLinks f).cores = s.cores := rfl
@[simp] theorem State.modLinks_regions (s : State) (f : Links → Links) : (s.modLinks f).regions = s.regions := rfl
@[simp] theorem State.modLinks_parts (s : State) (f : Links → Links) : (s.modLinks f).parts = s.parts := rfl
@[simp] theorem State.modLinks_grotto (s : State) (f : Links → Links) : (s.modLinks f).grotto = s.grotto := rfl
@[simp] theorem State.modLinks_host (s : State) (f : Links → Links) : (s.modLinks f).host = s.host := rfl
@[simp] theorem State.modLinks_off (s : State) (f : Links → Links) : (s.modLinks f).off = s.off := rfl

/-! ### modHost -/
@[simp] theorem State.modHost_tick (s : State) (f : HostLink → HostLink) : (s.modHost f).tick = s.tick := rfl
@[simp] theorem State.modHost_boots (s : State) (f : HostLink → HostLink) : (s.modHost f).boots = s.boots := rfl
@[simp] theorem State.modHost_curCore (s : State) (f : HostLink → HostLink) : (s.modHost f).curCore = s.curCore := rfl
@[simp] theorem State.modHost_curSlot (s : State) (f : HostLink → HostLink) : (s.modHost f).curSlot = s.curSlot := rfl
@[simp] theorem State.modHost_agenda (s : State) (f : HostLink → HostLink) : (s.modHost f).agenda = s.agenda := rfl
@[simp] theorem State.modHost_free (s : State) (f : HostLink → HostLink) : (s.modHost f).free = s.free := rfl
@[simp] theorem State.modHost_clock (s : State) (f : HostLink → HostLink) : (s.modHost f).clock = s.clock := rfl
@[simp] theorem State.modHost_mem (s : State) (f : HostLink → HostLink) : (s.modHost f).mem = s.mem := rfl
@[simp] theorem State.modHost_memErr (s : State) (f : HostLink → HostLink) : (s.modHost f).memErr = s.memErr := rfl
@[simp] theorem State.modHost_resErr (s : State) (f : HostLink → HostLink) : (s.modHost f).resErr = s.resErr := rfl
@[simp] theorem State.modHost_cist (s : State) (f : HostLink → HostLink) : (s.modHost f).cist = s.cist := rfl
@[simp] theorem State.modHost_cistErr (s : State) (f : HostLink → HostLink) : (s.modHost f).cistErr = s.cistErr := rfl
@[simp] theorem State.modHost_cores (s : State) (f : HostLink → HostLink) : (s.modHost f).cores = s.cores := rfl
@[simp] theorem State.modHost_regions (s : State) (f : HostLink → HostLink) : (s.modHost f).regions = s.regions := rfl
@[simp] theorem State.modHost_parts (s : State) (f : HostLink → HostLink) : (s.modHost f).parts = s.parts := rfl
@[simp] theorem State.modHost_grotto (s : State) (f : HostLink → HostLink) : (s.modHost f).grotto = s.grotto := rfl
@[simp] theorem State.modHost_links (s : State) (f : HostLink → HostLink) : (s.modHost f).links = s.links := rfl
@[simp] theorem State.modHost_off (s : State) (f : HostLink → HostLink) : (s.modHost f).off = s.off := rfl

/-! ### bump -/
@[simp] theorem State.bump_tick (s : State) : s.bump.tick = s.tick := rfl
@[simp] theorem State.bump_boots (s : State) : s.bump.boots = s.boots := rfl
@[simp] theorem State.bump_curCore (s : State) : s.bump.curCore = s.curCore := rfl
@[simp] theorem State.bump_curSlot (s : State) : s.bump.curSlot = s.curSlot := rfl
@[simp] theorem State.bump_agenda (s : State) : s.bump.agenda = s.agenda := rfl
@[simp] theorem State.bump_free (s : State) : s.bump.free = s.free := rfl
@[simp] theorem State.bump_mem (s : State) : s.bump.mem = s.mem := rfl
@[simp] theorem State.bump_memErr (s : State) : s.bump.memErr = s.memErr := rfl
@[simp] theorem State.bump_resErr (s : State) : s.bump.resErr = s.resErr := rfl
@[simp] theorem State.bump_cist (s : State) : s.bump.cist = s.cist := rfl
@[simp] theorem State.bump_cistErr (s : State) : s.bump.cistErr = s.cistErr := rfl
@[simp] theorem State.bump_cores (s : State) : s.bump.cores = s.cores := rfl
@[simp] theorem State.bump_regions (s : State) : s.bump.regions = s.regions := rfl
@[simp] theorem State.bump_parts (s : State) : s.bump.parts = s.parts := rfl
@[simp] theorem State.bump_grotto (s : State) : s.bump.grotto = s.grotto := rfl
@[simp] theorem State.bump_links (s : State) : s.bump.links = s.links := rfl
@[simp] theorem State.bump_host (s : State) : s.bump.host = s.host := rfl
@[simp] theorem State.bump_off (s : State) : s.bump.off = s.off := rfl

/-! ### setSlot -/
@[simp] theorem State.setSlot_tick (s : State) (c k : Nat) (v : Slot) : (s.setSlot c k v).tick = s.tick := rfl
@[simp] theorem State.setSlot_boots (s : State) (c k : Nat) (v : Slot) : (s.setSlot c k v).boots = s.boots := rfl
@[simp] theorem State.setSlot_curCore (s : State) (c k : Nat) (v : Slot) : (s.setSlot c k v).curCore = s.curCore := rfl
@[simp] theorem State.setSlot_curSlot (s : State) (c k : Nat) (v : Slot) : (s.setSlot c k v).curSlot = s.curSlot := rfl
@[simp] theorem State.setSlot_agenda (s : State) (c k : Nat) (v : Slot) : (s.setSlot c k v).agenda = s.agenda := rfl
@[simp] theorem State.setSlot_free (s : State) (c k : Nat) (v : Slot) : (s.setSlot c k v).free = s.free := rfl
@[simp] theorem State.setSlot_clock (s : State) (c k : Nat) (v : Slot) : (s.setSlot c k v).clock = s.clock := rfl
@[simp] theorem State.setSlot_mem (s : State) (c k : Nat) (v : Slot) : (s.setSlot c k v).mem = s.mem := rfl
@[simp] theorem State.setSlot_memErr (s : State) (c k : Nat) (v : Slot) : (s.setSlot c k v).memErr = s.memErr := rfl
@[simp] theorem State.setSlot_resErr (s : State) (c k : Nat) (v : Slot) : (s.setSlot c k v).resErr = s.resErr := rfl
@[simp] theorem State.setSlot_cist (s : State) (c k : Nat) (v : Slot) : (s.setSlot c k v).cist = s.cist := rfl
@[simp] theorem State.setSlot_cistErr (s : State) (c k : Nat) (v : Slot) : (s.setSlot c k v).cistErr = s.cistErr := rfl
@[simp] theorem State.setSlot_regions (s : State) (c k : Nat) (v : Slot) : (s.setSlot c k v).regions = s.regions := rfl
@[simp] theorem State.setSlot_parts (s : State) (c k : Nat) (v : Slot) : (s.setSlot c k v).parts = s.parts := rfl
@[simp] theorem State.setSlot_grotto (s : State) (c k : Nat) (v : Slot) : (s.setSlot c k v).grotto = s.grotto := rfl
@[simp] theorem State.setSlot_links (s : State) (c k : Nat) (v : Slot) : (s.setSlot c k v).links = s.links := rfl
@[simp] theorem State.setSlot_host (s : State) (c k : Nat) (v : Slot) : (s.setSlot c k v).host = s.host := rfl
@[simp] theorem State.setSlot_off (s : State) (c k : Nat) (v : Slot) : (s.setSlot c k v).off = s.off := rfl

/-! ### clrSlot -/
@[simp] theorem State.clrSlot_tick (s : State) (c k : Nat) : (s.clrSlot c k).tick = s.tick := rfl
@[simp] theorem State.clrSlot_boots (s : State) (c k : Nat) : (s.clrSlot c k).boots = s.boots := rfl
@[simp] theorem State.clrSlot_curCore (s : State) (c k : Nat) : (s.clrSlot c k).curCore = s.curCore := rfl
@[simp] theorem State.clrSlot_curSlot (s : State) (c k : Nat) : (s.clrSlot c k).curSlot = s.curSlot := rfl
@[simp] theorem State.clrSlot_agenda (s : State) (c k : Nat) : (s.clrSlot c k).agenda = s.agenda := rfl
@[simp] theorem State.clrSlot_free (s : State) (c k : Nat) : (s.clrSlot c k).free = s.free := rfl
@[simp] theorem State.clrSlot_clock (s : State) (c k : Nat) : (s.clrSlot c k).clock = s.clock := rfl
@[simp] theorem State.clrSlot_mem (s : State) (c k : Nat) : (s.clrSlot c k).mem = s.mem := rfl
@[simp] theorem State.clrSlot_memErr (s : State) (c k : Nat) : (s.clrSlot c k).memErr = s.memErr := rfl
@[simp] theorem State.clrSlot_resErr (s : State) (c k : Nat) : (s.clrSlot c k).resErr = s.resErr := rfl
@[simp] theorem State.clrSlot_cist (s : State) (c k : Nat) : (s.clrSlot c k).cist = s.cist := rfl
@[simp] theorem State.clrSlot_cistErr (s : State) (c k : Nat) : (s.clrSlot c k).cistErr = s.cistErr := rfl
@[simp] theorem State.clrSlot_regions (s : State) (c k : Nat) : (s.clrSlot c k).regions = s.regions := rfl
@[simp] theorem State.clrSlot_parts (s : State) (c k : Nat) : (s.clrSlot c k).parts = s.parts := rfl
@[simp] theorem State.clrSlot_grotto (s : State) (c k : Nat) : (s.clrSlot c k).grotto = s.grotto := rfl
@[simp] theorem State.clrSlot_links (s : State) (c k : Nat) : (s.clrSlot c k).links = s.links := rfl
@[simp] theorem State.clrSlot_host (s : State) (c k : Nat) : (s.clrSlot c k).host = s.host := rfl
@[simp] theorem State.clrSlot_off (s : State) (c k : Nat) : (s.clrSlot c k).off = s.off := rfl

/-! ### setTask -/
@[simp] theorem State.setTask_tick (s : State) (t : Task) : (s.setTask t).tick = s.tick := rfl
@[simp] theorem State.setTask_boots (s : State) (t : Task) : (s.setTask t).boots = s.boots := rfl
@[simp] theorem State.setTask_curCore (s : State) (t : Task) : (s.setTask t).curCore = s.curCore := rfl
@[simp] theorem State.setTask_curSlot (s : State) (t : Task) : (s.setTask t).curSlot = s.curSlot := rfl
@[simp] theorem State.setTask_agenda (s : State) (t : Task) : (s.setTask t).agenda = s.agenda := rfl
@[simp] theorem State.setTask_free (s : State) (t : Task) : (s.setTask t).free = s.free := rfl
@[simp] theorem State.setTask_clock (s : State) (t : Task) : (s.setTask t).clock = s.clock := rfl
@[simp] theorem State.setTask_mem (s : State) (t : Task) : (s.setTask t).mem = s.mem := rfl
@[simp] theorem State.setTask_memErr (s : State) (t : Task) : (s.setTask t).memErr = s.memErr := rfl
@[simp] theorem State.setTask_resErr (s : State) (t : Task) : (s.setTask t).resErr = s.resErr := rfl
@[simp] theorem State.setTask_cist (s : State) (t : Task) : (s.setTask t).cist = s.cist := rfl
@[simp] theorem State.setTask_cistErr (s : State) (t : Task) : (s.setTask t).cistErr = s.cistErr := rfl
@[simp] theorem State.setTask_cores (s : State) (t : Task) : (s.setTask t).cores = s.cores := rfl
@[simp] theorem State.setTask_regions (s : State) (t : Task) : (s.setTask t).regions = s.regions := rfl
@[simp] theorem State.setTask_grotto (s : State) (t : Task) : (s.setTask t).grotto = s.grotto := rfl
@[simp] theorem State.setTask_links (s : State) (t : Task) : (s.setTask t).links = s.links := rfl
@[simp] theorem State.setTask_host (s : State) (t : Task) : (s.setTask t).host = s.host := rfl
@[simp] theorem State.setTask_off (s : State) (t : Task) : (s.setTask t).off = s.off := rfl

/-! ### dropTask -/
@[simp] theorem State.dropTask_tick (s : State) (p i : Nat) : (s.dropTask p i).tick = s.tick := rfl
@[simp] theorem State.dropTask_boots (s : State) (p i : Nat) : (s.dropTask p i).boots = s.boots := rfl
@[simp] theorem State.dropTask_curCore (s : State) (p i : Nat) : (s.dropTask p i).curCore = s.curCore := rfl
@[simp] theorem State.dropTask_curSlot (s : State) (p i : Nat) : (s.dropTask p i).curSlot = s.curSlot := rfl
@[simp] theorem State.dropTask_agenda (s : State) (p i : Nat) : (s.dropTask p i).agenda = s.agenda := rfl
@[simp] theorem State.dropTask_free (s : State) (p i : Nat) : (s.dropTask p i).free = s.free := rfl
@[simp] theorem State.dropTask_clock (s : State) (p i : Nat) : (s.dropTask p i).clock = s.clock := rfl
@[simp] theorem State.dropTask_mem (s : State) (p i : Nat) : (s.dropTask p i).mem = s.mem := rfl
@[simp] theorem State.dropTask_memErr (s : State) (p i : Nat) : (s.dropTask p i).memErr = s.memErr := rfl
@[simp] theorem State.dropTask_resErr (s : State) (p i : Nat) : (s.dropTask p i).resErr = s.resErr := rfl
@[simp] theorem State.dropTask_cist (s : State) (p i : Nat) : (s.dropTask p i).cist = s.cist := rfl
@[simp] theorem State.dropTask_cistErr (s : State) (p i : Nat) : (s.dropTask p i).cistErr = s.cistErr := rfl
@[simp] theorem State.dropTask_cores (s : State) (p i : Nat) : (s.dropTask p i).cores = s.cores := rfl
@[simp] theorem State.dropTask_regions (s : State) (p i : Nat) : (s.dropTask p i).regions = s.regions := rfl
@[simp] theorem State.dropTask_grotto (s : State) (p i : Nat) : (s.dropTask p i).grotto = s.grotto := rfl
@[simp] theorem State.dropTask_links (s : State) (p i : Nat) : (s.dropTask p i).links = s.links := rfl
@[simp] theorem State.dropTask_host (s : State) (p i : Nat) : (s.dropTask p i).host = s.host := rfl
@[simp] theorem State.dropTask_off (s : State) (p i : Nat) : (s.dropTask p i).off = s.off := rfl

/-! ### setClock -/
@[simp] theorem State.setClock_tick (s : State) (r n : Nat) : (s.setClock r n).tick = s.tick := rfl
@[simp] theorem State.setClock_boots (s : State) (r n : Nat) : (s.setClock r n).boots = s.boots := rfl
@[simp] theorem State.setClock_curCore (s : State) (r n : Nat) : (s.setClock r n).curCore = s.curCore := rfl
@[simp] theorem State.setClock_curSlot (s : State) (r n : Nat) : (s.setClock r n).curSlot = s.curSlot := rfl
@[simp] theorem State.setClock_agenda (s : State) (r n : Nat) : (s.setClock r n).agenda = s.agenda := rfl
@[simp] theorem State.setClock_free (s : State) (r n : Nat) : (s.setClock r n).free = s.free := rfl
@[simp] theorem State.setClock_clock (s : State) (r n : Nat) : (s.setClock r n).clock = s.clock := rfl
@[simp] theorem State.setClock_mem (s : State) (r n : Nat) : (s.setClock r n).mem = s.mem := rfl
@[simp] theorem State.setClock_memErr (s : State) (r n : Nat) : (s.setClock r n).memErr = s.memErr := rfl
@[simp] theorem State.setClock_resErr (s : State) (r n : Nat) : (s.setClock r n).resErr = s.resErr := rfl
@[simp] theorem State.setClock_cist (s : State) (r n : Nat) : (s.setClock r n).cist = s.cist := rfl
@[simp] theorem State.setClock_cistErr (s : State) (r n : Nat) : (s.setClock r n).cistErr = s.cistErr := rfl
@[simp] theorem State.setClock_cores (s : State) (r n : Nat) : (s.setClock r n).cores = s.cores := rfl
@[simp] theorem State.setClock_parts (s : State) (r n : Nat) : (s.setClock r n).parts = s.parts := rfl
@[simp] theorem State.setClock_grotto (s : State) (r n : Nat) : (s.setClock r n).grotto = s.grotto := rfl
@[simp] theorem State.setClock_links (s : State) (r n : Nat) : (s.setClock r n).links = s.links := rfl
@[simp] theorem State.setClock_host (s : State) (r n : Nat) : (s.setClock r n).host = s.host := rfl
@[simp] theorem State.setClock_off (s : State) (r n : Nat) : (s.setClock r n).off = s.off := rfl

/-! ### takeFree -/
@[simp] theorem State.takeFree_tick (s : State) : s.takeFree.2.tick = s.tick := rfl
@[simp] theorem State.takeFree_boots (s : State) : s.takeFree.2.boots = s.boots := rfl
@[simp] theorem State.takeFree_curCore (s : State) : s.takeFree.2.curCore = s.curCore := rfl
@[simp] theorem State.takeFree_curSlot (s : State) : s.takeFree.2.curSlot = s.curSlot := rfl
@[simp] theorem State.takeFree_agenda (s : State) : s.takeFree.2.agenda = s.agenda := rfl
@[simp] theorem State.takeFree_clock (s : State) : s.takeFree.2.clock = s.clock := rfl
@[simp] theorem State.takeFree_mem (s : State) : s.takeFree.2.mem = s.mem := rfl
@[simp] theorem State.takeFree_memErr (s : State) : s.takeFree.2.memErr = s.memErr := rfl
@[simp] theorem State.takeFree_resErr (s : State) : s.takeFree.2.resErr = s.resErr := rfl
@[simp] theorem State.takeFree_cist (s : State) : s.takeFree.2.cist = s.cist := rfl
@[simp] theorem State.takeFree_cistErr (s : State) : s.takeFree.2.cistErr = s.cistErr := rfl
@[simp] theorem State.takeFree_cores (s : State) : s.takeFree.2.cores = s.cores := rfl
@[simp] theorem State.takeFree_regions (s : State) : s.takeFree.2.regions = s.regions := rfl
@[simp] theorem State.takeFree_parts (s : State) : s.takeFree.2.parts = s.parts := rfl
@[simp] theorem State.takeFree_grotto (s : State) : s.takeFree.2.grotto = s.grotto := rfl
@[simp] theorem State.takeFree_links (s : State) : s.takeFree.2.links = s.links := rfl
@[simp] theorem State.takeFree_host (s : State) : s.takeFree.2.host = s.host := rfl
@[simp] theorem State.takeFree_off (s : State) : s.takeFree.2.off = s.off := rfl

/-! ### modSlot -/
@[simp] theorem State.modSlot_tick (s : State) (c k : Nat) (f : Slot → Slot) : (s.modSlot c k f).tick = s.tick := by unfold State.modSlot; split <;> rfl
@[simp] theorem State.modSlot_boots (s : State) (c k : Nat) (f : Slot → Slot) : (s.modSlot c k f).boots = s.boots := by unfold State.modSlot; split <;> rfl
@[simp] theorem State.modSlot_curCore (s : State) (c k : Nat) (f : Slot → Slot) : (s.modSlot c k f).curCore = s.curCore := by unfold State.modSlot; split <;> rfl
@[simp] theorem State.modSlot_curSlot (s : State) (c k : Nat) (f : Slot → Slot) : (s.modSlot c k f).curSlot = s.curSlot := by unfold State.modSlot; split <;> rfl
@[simp] theorem State.modSlot_agenda (s : State) (c k : Nat) (f : Slot → Slot) : (s.modSlot c k f).agenda = s.agenda := by unfold State.modSlot; split <;> rfl
@[simp] theorem State.modSlot_free (s : State) (c k : Nat) (f : Slot → Slot) : (s.modSlot c k f).free = s.free := by unfold State.modSlot; split <;> rfl
@[simp] theorem State.modSlot_clock (s : State) (c k : Nat) (f : Slot → Slot) : (s.modSlot c k f).clock = s.clock := by unfold State.modSlot; split <;> rfl
@[simp] theorem State.modSlot_mem (s : State) (c k : Nat) (f : Slot → Slot) : (s.modSlot c k f).mem = s.mem := by unfold State.modSlot; split <;> rfl
@[simp] theorem State.modSlot_memErr (s : State) (c k : Nat) (f : Slot → Slot) : (s.modSlot c k f).memErr = s.memErr := by unfold State.modSlot; split <;> rfl
@[simp] theorem State.modSlot_resErr (s : State) (c k : Nat) (f : Slot → Slot) : (s.modSlot c k f).resErr = s.resErr := by unfold State.modSlot; split <;> rfl
@[simp] theorem State.modSlot_cist (s : State) (c k : Nat) (f : Slot → Slot) : (s.modSlot c k f).cist = s.cist := by unfold State.modSlot; split <;> rfl
@[simp] theorem State.modSlot_cistErr (s : State) (c k : Nat) (f : Slot → Slot) : (s.modSlot c k f).cistErr = s.cistErr := by unfold State.modSlot; split <;> rfl
@[simp] theorem State.modSlot_regions (s : State) (c k : Nat) (f : Slot → Slot) : (s.modSlot c k f).regions = s.regions := by unfold State.modSlot; split <;> rfl
@[simp] theorem State.modSlot_parts (s : State) (c k : Nat) (f : Slot → Slot) : (s.modSlot c k f).parts = s.parts := by unfold State.modSlot; split <;> rfl
@[simp] theorem State.modSlot_grotto (s : State) (c k : Nat) (f : Slot → Slot) : (s.modSlot c k f).grotto = s.grotto := by unfold State.modSlot; split <;> rfl
@[simp] theorem State.modSlot_links (s : State) (c k : Nat) (f : Slot → Slot) : (s.modSlot c k f).links = s.links := by unfold State.modSlot; split <;> rfl
@[simp] theorem State.modSlot_host (s : State) (c k : Nat) (f : Slot → Slot) : (s.modSlot c k f).host = s.host := by unfold State.modSlot; split <;> rfl
@[simp] theorem State.modSlot_off (s : State) (c k : Nat) (f : Slot → Slot) : (s.modSlot c k f).off = s.off := by unfold State.modSlot; split <;> rfl

/-! ### modTask -/
@[simp] theorem State.modTask_tick (s : State) (p i : Nat) (f : Task → Task) : (s.modTask p i f).tick = s.tick := by unfold State.modTask; split <;> rfl
@[simp] theorem State.modTask_boots (s : State) (p i : Nat) (f : Task → Task) : (s.modTask p i f).boots = s.boots := by unfold State.modTask; split <;> rfl
@[simp] theorem State.modTask_curCore (s : State) (p i : Nat) (f : Task → Task) : (s.modTask p i f).curCore = s.curCore := by unfold State.modTask; split <;> rfl
@[simp] theorem State.modTask_curSlot (s : State) (p i : Nat) (f : Task → Task) : (s.modTask p i f).curSlot = s.curSlot := by unfold State.modTask; split <;> rfl
@[simp] theorem State.modTask_agenda (s : State) (p i : Nat) (f : Task → Task) : (s.modTask p i f).agenda = s.agenda := by unfold State.modTask; split <;> rfl
@[simp] theorem State.modTask_free (s : State) (p i : Nat) (f : Task → Task) : (s.modTask p i f).free = s.free := by unfold State.modTask; split <;> rfl
@[simp] theorem State.modTask_clock (s : State) (p i : Nat) (f : Task → Task) : (s.modTask p i f).clock = s.clock := by unfold State.modTask; split <;> rfl
@[simp] theorem State.modTask_mem (s : State) (p i : Nat) (f : Task → Task) : (s.modTask p i f).mem = s.mem := by unfold State.modTask; split <;> rfl
@[simp] theorem State.modTask_memErr (s : State) (p i : Nat) (f : Task → Task) : (s.modTask p i f).memErr = s.memErr := by unfold State.modTask; split <;> rfl
@[simp] theorem State.modTask_resErr (s : State) (p i : Nat) (f : Task → Task) : (s.modTask p i f).resErr = s.resErr := by unfold State.modTask; split <;> rfl
@[simp] theorem State.modTask_cist (s : State) (p i : Nat) (f : Task → Task) : (s.modTask p i f).cist = s.cist := by unfold State.modTask; split <;> rfl
@[simp] theorem State.modTask_cistErr (s : State) (p i : Nat) (f : Task → Task) : (s.modTask p i f).cistErr = s.cistErr := by unfold State.modTask; split <;> rfl
@[simp] theorem State.modTask_cores (s : State) (p i : Nat) (f : Task → Task) : (s.modTask p i f).cores = s.cores := by unfold State.modTask; split <;> rfl
@[simp] theorem State.modTask_regions (s : State) (p i : Nat) (f : Task → Task) : (s.modTask p i f).regions = s.regions := by unfold State.modTask; split <;> rfl
@[simp] theorem State.modTask_grotto (s : State) (p i : Nat) (f : Task → Task) : (s.modTask p i f).grotto = s.grotto := by unfold State.modTask; split <;> rfl
@[simp] theorem State.modTask_links (s : State) (p i : Nat) (f : Task → Task) : (s.modTask p i f).links = s.links := by unfold State.modTask; split <;> rfl
@[simp] theorem State.modTask_host (s : State) (p i : Nat) (f : Task → Task) : (s.modTask p i f).host = s.host := by unfold State.modTask; split <;> rfl
@[simp] theorem State.modTask_off (s : State) (p i : Nat) (f : Task → Task) : (s.modTask p i f).off = s.off := by unfold State.modTask; split <;> rfl

/-! ### modCtx -/
@[simp] theorem State.modCtx_tick (s : State) (c k : Nat) (f : Ctx → Ctx) : (s.modCtx c k f).tick = s.tick := State.modSlot_tick s c k _
@[simp] theorem State.modCtx_boots (s : State) (c k : Nat) (f : Ctx → Ctx) : (s.modCtx c k f).boots = s.boots := State.modSlot_boots s c k _
@[simp] theorem State.modCtx_curCore (s : State) (c k : Nat) (f : Ctx → Ctx) : (s.modCtx c k f).curCore = s.curCore := State.modSlot_curCore s c k _
@[simp] theorem State.modCtx_curSlot (s : State) (c k : Nat) (f : Ctx → Ctx) : (s.modCtx c k f).curSlot = s.curSlot := State.modSlot_curSlot s c k _
@[simp] theorem State.modCtx_agenda (s : State) (c k : Nat) (f : Ctx → Ctx) : (s.modCtx c k f).agenda = s.agenda := State.modSlot_agenda s c k _
@[simp] theorem State.modCtx_free (s : State) (c k : Nat) (f : Ctx → Ctx) : (s.modCtx c k f).free = s.free := State.modSlot_free s c k _
@[simp] theorem State.modCtx_clock (s : State) (c k : Nat) (f : Ctx → Ctx) : (s.modCtx c k f).clock = s.clock := State.modSlot_clock s c k _
@[simp] theorem State.modCtx_mem (s : State) (c k : Nat) (f : Ctx → Ctx) : (s.modCtx c k f).mem = s.mem := State.modSlot_mem s c k _
@[simp] theorem State.modCtx_memErr (s : State) (c k : Nat) (f : Ctx → Ctx) : (s.modCtx c k f).memErr = s.memErr := State.modSlot_memErr s c k _
@[simp] theorem State.modCtx_resErr (s : State) (c k : Nat) (f : Ctx → Ctx) : (s.modCtx c k f).resErr = s.resErr := State.modSlot_resErr s c k _
@[simp] theorem State.modCtx_cist (s : State) (c k : Nat) (f : Ctx → Ctx) : (s.modCtx c k f).cist = s.cist := State.modSlot_cist s c k _
@[simp] theorem State.modCtx_cistErr (s : State) (c k : Nat) (f : Ctx → Ctx) : (s.modCtx c k f).cistErr = s.cistErr := State.modSlot_cistErr s c k _
@[simp] theorem State.modCtx_regions (s : State) (c k : Nat) (f : Ctx → Ctx) : (s.modCtx c k f).regions = s.regions := State.modSlot_regions s c k _
@[simp] theorem State.modCtx_parts (s : State) (c k : Nat) (f : Ctx → Ctx) : (s.modCtx c k f).parts = s.parts := State.modSlot_parts s c k _
@[simp] theorem State.modCtx_grotto (s : State) (c k : Nat) (f : Ctx → Ctx) : (s.modCtx c k f).grotto = s.grotto := State.modSlot_grotto s c k _
@[simp] theorem State.modCtx_links (s : State) (c k : Nat) (f : Ctx → Ctx) : (s.modCtx c k f).links = s.links := State.modSlot_links s c k _
@[simp] theorem State.modCtx_host (s : State) (c k : Nat) (f : Ctx → Ctx) : (s.modCtx c k f).host = s.host := State.modSlot_host s c k _
@[simp] theorem State.modCtx_off (s : State) (c k : Nat) (f : Ctx → Ctx) : (s.modCtx c k f).off = s.off := State.modSlot_off s c k _

/-! ### logError -/
@[simp] theorem State.logError_tick (s : State) (a b c d e g : Nat) : (s.logError a b c d e g).tick = s.tick := by unfold State.logError; split <;> rfl
@[simp] theorem State.logError_boots (s : State) (a b c d e g : Nat) : (s.logError a b c d e g).boots = s.boots := by unfold State.logError; split <;> rfl
@[simp] theorem State.logError_curCore (s : State) (a b c d e g : Nat) : (s.logError a b c d e g).curCore = s.curCore := by unfold State.logError; split <;> rfl
@[simp] theorem State.logError_curSlot (s : State) (a b c d e g : Nat) : (s.logError a b c d e g).curSlot = s.curSlot := by unfold State.logError; split <;> rfl
@[simp] theorem State.logError_agenda (s : State) (a b c d e g : Nat) : (s.logError a b c d e g).agenda = s.agenda := by unfold State.logError; split <;> rfl
@[simp] theorem State.logError_free (s : State) (a b c d e g : Nat) : (s.logError a b c d e g).free = s.free := by unfold State.logError; split <;> rfl
@[simp] theorem State.logError_clock (s : State) (a b c d e g : Nat) : (s.logError a b c d e g).clock = s.clock := by unfold State.logError; split <;> rfl
@[simp] theorem State.logError_mem (s : State) (a b c d e g : Nat) : (s.logError a b c d e g).mem = s.mem := by unfold State.logError; split <;> rfl
@[simp] theorem State.logError_memErr (s : State) (a b c d e g : Nat) : (s.logError a b c d e g).memErr = s.memErr := by unfold State.logError; split <;> rfl
@[simp] theorem State.logError_resErr (s : State) (a b c d e g : Nat) : (s.logError a b c d e g).resErr = s.resErr := by unfold State.logError; split <;> rfl
@[simp] theorem State.logError_cist (s : State) (a b c d e g : Nat) : (s.logError a b c d e g).cist = s.cist := by unfold State.logError; split <;> rfl
@[simp] theorem State.logError_cistErr (s : State) (a b c d e g : Nat) : (s.logError a b c d e g).cistErr = s.cistErr := by unfold State.logError; split <;> rfl
@[simp] theorem State.logError_cores (s : State) (a b c d e g : Nat) : (s.logError a b c d e g).cores = s.cores := by unfold State.logError; split <;> rfl
@[simp] theorem State.logError_regions (s : State) (a b c d e g : Nat) : (s.logError a b c d e g).regions = s.regions := by unfold State.logError; split <;> rfl
@[simp] theorem State.logError_parts (s : State) (a b c d e g : Nat) : (s.logError a b c d e g).parts = s.parts := by unfold State.logError; split <;> rfl
@[simp] theorem State.logError_grotto (s : State) (a b c d e g : Nat) : (s.logError a b c d e g).grotto = s.grotto := by unfold State.logError; split <;> rfl
@[simp] theorem State.logError_links (s : State) (a b c d e g : Nat) : (s.logError a b c d e g).links = s.links := by unfold State.logError; split <;> rfl
@[simp] theorem State.logError_off (s : State) (a b c d e g : Nat) : (s.logError a b c d e g).off = s.off := by unfold State.logError; split <;> rfl

/-! ### Reads of updated parts -/

/-- A core with an occupied slot is not the default core. -/
theorem core_ne_default {co : Core} (h : co.slots ≠ []) : co ≠ {} := fun e => h (by rw [e])

/-- A core just set reads back. -/
@[simp] theorem State.core_setCore (s : State) (c : Nat) (v : Core) : (s.setCore c v).core c = v :=
  mget_mput_same ({} : Core) s.cores c v

/-- The other cores stay. -/
theorem State.core_setCore_other (s : State) {c d : Nat} (v : Core) (hd : d ≠ c) : (s.setCore c v).core d = s.core d :=
  mget_mput_other ({} : Core) s.cores v hd

/-- A region just set reads back. -/
@[simp] theorem State.region_setRegion (s : State) (r : Nat) (v : Region) : (s.setRegion r v).region r = v :=
  mget_mput_same ({} : Region) s.regions r v

/-- The other regions stay. -/
theorem State.region_setRegion_other (s : State) {r q : Nat} (v : Region) (hq : q ≠ r) :
    (s.setRegion r v).region q = s.region q := mget_mput_other ({} : Region) s.regions v hq

/-- A partition just set reads back. -/
@[simp] theorem State.part_setPart (s : State) (p : Nat) (v : Part) : (s.setPart p v).part p = v :=
  mget_mput_same ({} : Part) s.parts p v

/-- The other partitions stay. -/
theorem State.part_setPart_other (s : State) {p q : Nat} (v : Part) (hq : q ≠ p) :
    (s.setPart p v).part q = s.part q := mget_mput_other ({} : Part) s.parts v hq

/-- Setting a core twice keeps the second. -/
theorem State.setCore_setCore (s : State) (c : Nat) {v w : Core} (hv : v.slots ≠ []) (hw : w.slots ≠ []) :
    (s.setCore c v).setCore c w = s.setCore c w := by
  simp [State.setCore, mput_of_ne ({} : Core) _ c (core_ne_default hv), mput_of_ne ({} : Core) _ c (core_ne_default hw)]

@[simp] theorem State.core_setSlot_same (s : State) (c k : Nat) (v : Slot) :
    (s.setSlot c k v).core c = { s.core c with slots := mset (s.core c).slots k v } :=
  State.core_setCore s c _

theorem State.core_setSlot_other (s : State) {c d : Nat} (k : Nat) (v : Slot) (h : d ≠ c) : (s.setSlot c k v).core d = s.core d :=
  State.core_setCore_other s _ h

/-- A slot just set reads back. -/
@[simp] theorem State.slot_setSlot_same (s : State) (c k : Nat) (v : Slot) : (s.setSlot c k v).slot? c k = some v := by
  simp [State.slot?]

/-- The other slots stay. -/
theorem State.slot_setSlot_other (s : State) {c k d j : Nat} (v : Slot) (h : d ≠ c ∨ j ≠ k) :
    (s.setSlot c k v).slot? d j = s.slot? d j := by
  by_cases hd : d = c
  · subst hd
    simp [State.slot?, mfind_mset_other _ _ (h.resolve_left (fun h => h rfl))]
  · simp [State.slot?, State.core_setSlot_other s k v hd]

@[simp] theorem State.setSlot_setSlot (s : State) (c k : Nat) (v w : Slot) : (s.setSlot c k v).setSlot c k w = s.setSlot c k w := by
  unfold State.setSlot
  rw [State.core_setCore, State.setCore_setCore _ _ (mset_ne_nil _ _ _) (mset_ne_nil _ _ _)]
  simp

/-! ### Registers of a context -/

@[simp] theorem Ctx.reg_zero (x : Ctx) : x.reg 0 = 0 := rfl
@[simp] theorem Ctx.setReg_zero (x : Ctx) (v : Word) : x.setReg 0 v = x := rfl
@[simp] theorem Ctx.k_zero (x : Ctx) : x.k 0 = true := rfl
@[simp] theorem Ctx.setK_zero (x : Ctx) (v : Bool) : x.setK 0 v = x := rfl
@[simp] theorem Ctx.pred_zero (x : Ctx) : x.pred 0 = BitVec.allOnes 128 := rfl
@[simp] theorem Ctx.setPred_zero (x : Ctx) (v : Pred) : x.setPred 0 v = x := rfl
@[simp] theorem Ctx.cap_zero (x : Ctx) : x.cap 0 = {} := rfl
@[simp] theorem Ctx.setCap_zero (x : Ctx) (v : Cap) : x.setCap 0 v = x := rfl

/-- A scalar register written reads back. -/
theorem Ctx.reg_setReg_same (x : Ctx) {n : Nat} (v : Word) (hn : n ≠ 0) : (x.setReg n v).reg n = v := by
  simp [Ctx.reg, Ctx.setReg, hn]

/-- The other scalar registers stay. -/
theorem Ctx.reg_setReg_other (x : Ctx) {n m : Nat} (v : Word) (hm : m ≠ n) :
    (x.setReg n v).reg m = x.reg m := by
  unfold Ctx.reg Ctx.setReg
  split
  · rfl
  · split
    · rfl
    · exact mget_mput_other 0 _ v hm

@[simp] theorem Ctx.setReg_bt (x : Ctx) (n : Nat) (v : Word) : (x.setReg n v).bt = x.bt := by unfold Ctx.setReg; split <;> rfl
@[simp] theorem Ctx.setReg_kreg (x : Ctx) (n : Nat) (v : Word) : (x.setReg n v).kreg = x.kreg := by unfold Ctx.setReg; split <;> rfl
@[simp] theorem Ctx.setReg_lc (x : Ctx) (n : Nat) (v : Word) : (x.setReg n v).lc = x.lc := by unfold Ctx.setReg; split <;> rfl
@[simp] theorem Ctx.setReg_loops (x : Ctx) (n : Nat) (v : Word) : (x.setReg n v).loops = x.loops := by unfold Ctx.setReg; split <;> rfl
@[simp] theorem Ctx.setReg_pipe (x : Ctx) (n : Nat) (v : Word) : (x.setReg n v).pipe = x.pipe := by unfold Ctx.setReg; split <;> rfl
@[simp] theorem Ctx.setReg_delay (x : Ctx) (n : Nat) (v : Word) : (x.setReg n v).delay = x.delay := by unfold Ctx.setReg; split <;> rfl
@[simp] theorem Ctx.setReg_pc (x : Ctx) (n : Nat) (v : Word) : (x.setReg n v).pc = x.pc := by unfold Ctx.setReg; split <;> rfl
@[simp] theorem Ctx.setReg_preds (x : Ctx) (n : Nat) (v : Word) : (x.setReg n v).preds = x.preds := by unfold Ctx.setReg; split <;> rfl
@[simp] theorem Ctx.setReg_caps (x : Ctx) (n : Nat) (v : Word) : (x.setReg n v).caps = x.caps := by unfold Ctx.setReg; split <;> rfl
@[simp] theorem Ctx.setReg_descs (x : Ctx) (n : Nat) (v : Word) : (x.setReg n v).descs = x.descs := by unfold Ctx.setReg; split <;> rfl
@[simp] theorem Ctx.setReg_ma (x : Ctx) (n : Nat) (v : Word) : (x.setReg n v).ma = x.ma := by unfold Ctx.setReg; split <;> rfl
@[simp] theorem Ctx.setReg_mb (x : Ctx) (n : Nat) (v : Word) : (x.setReg n v).mb = x.mb := by unfold Ctx.setReg; split <;> rfl
@[simp] theorem Ctx.setReg_ms (x : Ctx) (n : Nat) (v : Word) : (x.setReg n v).ms = x.ms := by unfold Ctx.setReg; split <;> rfl
@[simp] theorem Ctx.setReg_queues (x : Ctx) (n : Nat) (v : Word) : (x.setReg n v).queues = x.queues := by unfold Ctx.setReg; split <;> rfl
@[simp] theorem Ctx.setReg_bal (x : Ctx) (n : Nat) (v : Word) : (x.setReg n v).bal = x.bal := by unfold Ctx.setReg; split <;> rfl
@[simp] theorem Ctx.setReg_unclaimed (x : Ctx) (n : Nat) (v : Word) : (x.setReg n v).unclaimed = x.unclaimed := by unfold Ctx.setReg; split <;> rfl
@[simp] theorem Ctx.setReg_fmtmode (x : Ctx) (n : Nat) (v : Word) : (x.setReg n v).fmtmode = x.fmtmode := by unfold Ctx.setReg; split <;> rfl
@[simp] theorem Ctx.setReg_sptag (x : Ctx) (n : Nat) (v : Word) : (x.setReg n v).sptag = x.sptag := by unfold Ctx.setReg; split <;> rfl
@[simp] theorem Ctx.setReg_tags (x : Ctx) (n : Nat) (v : Word) : (x.setReg n v).tags = x.tags := by unfold Ctx.setReg; split <;> rfl
@[simp] theorem Ctx.setReg_rem (x : Ctx) (n : Nat) (v : Word) : (x.setReg n v).rem = x.rem := by unfold Ctx.setReg; split <;> rfl
@[simp] theorem Ctx.setReg_remIter (x : Ctx) (n : Nat) (v : Word) : (x.setReg n v).remIter = x.remIter := by unfold Ctx.setReg; split <;> rfl
@[simp] theorem Ctx.setK_regs (x : Ctx) (n : Nat) (v : Bool) : (x.setK n v).regs = x.regs := by unfold Ctx.setK; split <;> rfl
@[simp] theorem Ctx.setK_bt (x : Ctx) (n : Nat) (v : Bool) : (x.setK n v).bt = x.bt := by unfold Ctx.setK; split <;> rfl
@[simp] theorem Ctx.setK_lc (x : Ctx) (n : Nat) (v : Bool) : (x.setK n v).lc = x.lc := by unfold Ctx.setK; split <;> rfl
@[simp] theorem Ctx.setK_loops (x : Ctx) (n : Nat) (v : Bool) : (x.setK n v).loops = x.loops := by unfold Ctx.setK; split <;> rfl
@[simp] theorem Ctx.setK_pipe (x : Ctx) (n : Nat) (v : Bool) : (x.setK n v).pipe = x.pipe := by unfold Ctx.setK; split <;> rfl
@[simp] theorem Ctx.setK_delay (x : Ctx) (n : Nat) (v : Bool) : (x.setK n v).delay = x.delay := by unfold Ctx.setK; split <;> rfl
@[simp] theorem Ctx.setK_pc (x : Ctx) (n : Nat) (v : Bool) : (x.setK n v).pc = x.pc := by unfold Ctx.setK; split <;> rfl
@[simp] theorem Ctx.setK_preds (x : Ctx) (n : Nat) (v : Bool) : (x.setK n v).preds = x.preds := by unfold Ctx.setK; split <;> rfl
@[simp] theorem Ctx.setK_caps (x : Ctx) (n : Nat) (v : Bool) : (x.setK n v).caps = x.caps := by unfold Ctx.setK; split <;> rfl
@[simp] theorem Ctx.setK_descs (x : Ctx) (n : Nat) (v : Bool) : (x.setK n v).descs = x.descs := by unfold Ctx.setK; split <;> rfl
@[simp] theorem Ctx.setK_ma (x : Ctx) (n : Nat) (v : Bool) : (x.setK n v).ma = x.ma := by unfold Ctx.setK; split <;> rfl
@[simp] theorem Ctx.setK_mb (x : Ctx) (n : Nat) (v : Bool) : (x.setK n v).mb = x.mb := by unfold Ctx.setK; split <;> rfl
@[simp] theorem Ctx.setK_ms (x : Ctx) (n : Nat) (v : Bool) : (x.setK n v).ms = x.ms := by unfold Ctx.setK; split <;> rfl
@[simp] theorem Ctx.setK_queues (x : Ctx) (n : Nat) (v : Bool) : (x.setK n v).queues = x.queues := by unfold Ctx.setK; split <;> rfl
@[simp] theorem Ctx.setK_bal (x : Ctx) (n : Nat) (v : Bool) : (x.setK n v).bal = x.bal := by unfold Ctx.setK; split <;> rfl
@[simp] theorem Ctx.setK_unclaimed (x : Ctx) (n : Nat) (v : Bool) : (x.setK n v).unclaimed = x.unclaimed := by unfold Ctx.setK; split <;> rfl
@[simp] theorem Ctx.setK_fmtmode (x : Ctx) (n : Nat) (v : Bool) : (x.setK n v).fmtmode = x.fmtmode := by unfold Ctx.setK; split <;> rfl
@[simp] theorem Ctx.setK_sptag (x : Ctx) (n : Nat) (v : Bool) : (x.setK n v).sptag = x.sptag := by unfold Ctx.setK; split <;> rfl
@[simp] theorem Ctx.setK_tags (x : Ctx) (n : Nat) (v : Bool) : (x.setK n v).tags = x.tags := by unfold Ctx.setK; split <;> rfl
@[simp] theorem Ctx.setK_rem (x : Ctx) (n : Nat) (v : Bool) : (x.setK n v).rem = x.rem := by unfold Ctx.setK; split <;> rfl
@[simp] theorem Ctx.setK_remIter (x : Ctx) (n : Nat) (v : Bool) : (x.setK n v).remIter = x.remIter := by unfold Ctx.setK; split <;> rfl
@[simp] theorem Ctx.setPred_regs (x : Ctx) (n : Nat) (v : Pred) : (x.setPred n v).regs = x.regs := by unfold Ctx.setPred; split <;> rfl
@[simp] theorem Ctx.setPred_bt (x : Ctx) (n : Nat) (v : Pred) : (x.setPred n v).bt = x.bt := by unfold Ctx.setPred; split <;> rfl
@[simp] theorem Ctx.setPred_kreg (x : Ctx) (n : Nat) (v : Pred) : (x.setPred n v).kreg = x.kreg := by unfold Ctx.setPred; split <;> rfl
@[simp] theorem Ctx.setPred_lc (x : Ctx) (n : Nat) (v : Pred) : (x.setPred n v).lc = x.lc := by unfold Ctx.setPred; split <;> rfl
@[simp] theorem Ctx.setPred_loops (x : Ctx) (n : Nat) (v : Pred) : (x.setPred n v).loops = x.loops := by unfold Ctx.setPred; split <;> rfl
@[simp] theorem Ctx.setPred_pipe (x : Ctx) (n : Nat) (v : Pred) : (x.setPred n v).pipe = x.pipe := by unfold Ctx.setPred; split <;> rfl
@[simp] theorem Ctx.setPred_delay (x : Ctx) (n : Nat) (v : Pred) : (x.setPred n v).delay = x.delay := by unfold Ctx.setPred; split <;> rfl
@[simp] theorem Ctx.setPred_pc (x : Ctx) (n : Nat) (v : Pred) : (x.setPred n v).pc = x.pc := by unfold Ctx.setPred; split <;> rfl
@[simp] theorem Ctx.setPred_caps (x : Ctx) (n : Nat) (v : Pred) : (x.setPred n v).caps = x.caps := by unfold Ctx.setPred; split <;> rfl
@[simp] theorem Ctx.setPred_descs (x : Ctx) (n : Nat) (v : Pred) : (x.setPred n v).descs = x.descs := by unfold Ctx.setPred; split <;> rfl
@[simp] theorem Ctx.setPred_ma (x : Ctx) (n : Nat) (v : Pred) : (x.setPred n v).ma = x.ma := by unfold Ctx.setPred; split <;> rfl
@[simp] theorem Ctx.setPred_mb (x : Ctx) (n : Nat) (v : Pred) : (x.setPred n v).mb = x.mb := by unfold Ctx.setPred; split <;> rfl
@[simp] theorem Ctx.setPred_ms (x : Ctx) (n : Nat) (v : Pred) : (x.setPred n v).ms = x.ms := by unfold Ctx.setPred; split <;> rfl
@[simp] theorem Ctx.setPred_queues (x : Ctx) (n : Nat) (v : Pred) : (x.setPred n v).queues = x.queues := by unfold Ctx.setPred; split <;> rfl
@[simp] theorem Ctx.setPred_bal (x : Ctx) (n : Nat) (v : Pred) : (x.setPred n v).bal = x.bal := by unfold Ctx.setPred; split <;> rfl
@[simp] theorem Ctx.setPred_unclaimed (x : Ctx) (n : Nat) (v : Pred) : (x.setPred n v).unclaimed = x.unclaimed := by unfold Ctx.setPred; split <;> rfl
@[simp] theorem Ctx.setPred_fmtmode (x : Ctx) (n : Nat) (v : Pred) : (x.setPred n v).fmtmode = x.fmtmode := by unfold Ctx.setPred; split <;> rfl
@[simp] theorem Ctx.setPred_sptag (x : Ctx) (n : Nat) (v : Pred) : (x.setPred n v).sptag = x.sptag := by unfold Ctx.setPred; split <;> rfl
@[simp] theorem Ctx.setPred_tags (x : Ctx) (n : Nat) (v : Pred) : (x.setPred n v).tags = x.tags := by unfold Ctx.setPred; split <;> rfl
@[simp] theorem Ctx.setPred_rem (x : Ctx) (n : Nat) (v : Pred) : (x.setPred n v).rem = x.rem := by unfold Ctx.setPred; split <;> rfl
@[simp] theorem Ctx.setPred_remIter (x : Ctx) (n : Nat) (v : Pred) : (x.setPred n v).remIter = x.remIter := by unfold Ctx.setPred; split <;> rfl
@[simp] theorem Ctx.setCap_regs (x : Ctx) (n : Nat) (v : Cap) : (x.setCap n v).regs = x.regs := by unfold Ctx.setCap; split <;> rfl
@[simp] theorem Ctx.setCap_bt (x : Ctx) (n : Nat) (v : Cap) : (x.setCap n v).bt = x.bt := by unfold Ctx.setCap; split <;> rfl
@[simp] theorem Ctx.setCap_kreg (x : Ctx) (n : Nat) (v : Cap) : (x.setCap n v).kreg = x.kreg := by unfold Ctx.setCap; split <;> rfl
@[simp] theorem Ctx.setCap_lc (x : Ctx) (n : Nat) (v : Cap) : (x.setCap n v).lc = x.lc := by unfold Ctx.setCap; split <;> rfl
@[simp] theorem Ctx.setCap_loops (x : Ctx) (n : Nat) (v : Cap) : (x.setCap n v).loops = x.loops := by unfold Ctx.setCap; split <;> rfl
@[simp] theorem Ctx.setCap_pipe (x : Ctx) (n : Nat) (v : Cap) : (x.setCap n v).pipe = x.pipe := by unfold Ctx.setCap; split <;> rfl
@[simp] theorem Ctx.setCap_delay (x : Ctx) (n : Nat) (v : Cap) : (x.setCap n v).delay = x.delay := by unfold Ctx.setCap; split <;> rfl
@[simp] theorem Ctx.setCap_pc (x : Ctx) (n : Nat) (v : Cap) : (x.setCap n v).pc = x.pc := by unfold Ctx.setCap; split <;> rfl
@[simp] theorem Ctx.setCap_preds (x : Ctx) (n : Nat) (v : Cap) : (x.setCap n v).preds = x.preds := by unfold Ctx.setCap; split <;> rfl
@[simp] theorem Ctx.setCap_descs (x : Ctx) (n : Nat) (v : Cap) : (x.setCap n v).descs = x.descs := by unfold Ctx.setCap; split <;> rfl
@[simp] theorem Ctx.setCap_ma (x : Ctx) (n : Nat) (v : Cap) : (x.setCap n v).ma = x.ma := by unfold Ctx.setCap; split <;> rfl
@[simp] theorem Ctx.setCap_mb (x : Ctx) (n : Nat) (v : Cap) : (x.setCap n v).mb = x.mb := by unfold Ctx.setCap; split <;> rfl
@[simp] theorem Ctx.setCap_ms (x : Ctx) (n : Nat) (v : Cap) : (x.setCap n v).ms = x.ms := by unfold Ctx.setCap; split <;> rfl
@[simp] theorem Ctx.setCap_queues (x : Ctx) (n : Nat) (v : Cap) : (x.setCap n v).queues = x.queues := by unfold Ctx.setCap; split <;> rfl
@[simp] theorem Ctx.setCap_bal (x : Ctx) (n : Nat) (v : Cap) : (x.setCap n v).bal = x.bal := by unfold Ctx.setCap; split <;> rfl
@[simp] theorem Ctx.setCap_unclaimed (x : Ctx) (n : Nat) (v : Cap) : (x.setCap n v).unclaimed = x.unclaimed := by unfold Ctx.setCap; split <;> rfl
@[simp] theorem Ctx.setCap_fmtmode (x : Ctx) (n : Nat) (v : Cap) : (x.setCap n v).fmtmode = x.fmtmode := by unfold Ctx.setCap; split <;> rfl
@[simp] theorem Ctx.setCap_sptag (x : Ctx) (n : Nat) (v : Cap) : (x.setCap n v).sptag = x.sptag := by unfold Ctx.setCap; split <;> rfl
@[simp] theorem Ctx.setCap_tags (x : Ctx) (n : Nat) (v : Cap) : (x.setCap n v).tags = x.tags := by unfold Ctx.setCap; split <;> rfl
@[simp] theorem Ctx.setCap_rem (x : Ctx) (n : Nat) (v : Cap) : (x.setCap n v).rem = x.rem := by unfold Ctx.setCap; split <;> rfl
@[simp] theorem Ctx.setCap_remIter (x : Ctx) (n : Nat) (v : Cap) : (x.setCap n v).remIter = x.remIter := by unfold Ctx.setCap; split <;> rfl
@[simp] theorem Ctx.setDesc_regs (x : Ctx) (n : Nat) (v : Desc) : (x.setDesc n v).regs = x.regs := rfl
@[simp] theorem Ctx.setDesc_bt (x : Ctx) (n : Nat) (v : Desc) : (x.setDesc n v).bt = x.bt := rfl
@[simp] theorem Ctx.setDesc_kreg (x : Ctx) (n : Nat) (v : Desc) : (x.setDesc n v).kreg = x.kreg := rfl
@[simp] theorem Ctx.setDesc_lc (x : Ctx) (n : Nat) (v : Desc) : (x.setDesc n v).lc = x.lc := rfl
@[simp] theorem Ctx.setDesc_loops (x : Ctx) (n : Nat) (v : Desc) : (x.setDesc n v).loops = x.loops := rfl
@[simp] theorem Ctx.setDesc_pipe (x : Ctx) (n : Nat) (v : Desc) : (x.setDesc n v).pipe = x.pipe := rfl
@[simp] theorem Ctx.setDesc_delay (x : Ctx) (n : Nat) (v : Desc) : (x.setDesc n v).delay = x.delay := rfl
@[simp] theorem Ctx.setDesc_pc (x : Ctx) (n : Nat) (v : Desc) : (x.setDesc n v).pc = x.pc := rfl
@[simp] theorem Ctx.setDesc_preds (x : Ctx) (n : Nat) (v : Desc) : (x.setDesc n v).preds = x.preds := rfl
@[simp] theorem Ctx.setDesc_caps (x : Ctx) (n : Nat) (v : Desc) : (x.setDesc n v).caps = x.caps := rfl
@[simp] theorem Ctx.setDesc_ma (x : Ctx) (n : Nat) (v : Desc) : (x.setDesc n v).ma = x.ma := rfl
@[simp] theorem Ctx.setDesc_mb (x : Ctx) (n : Nat) (v : Desc) : (x.setDesc n v).mb = x.mb := rfl
@[simp] theorem Ctx.setDesc_ms (x : Ctx) (n : Nat) (v : Desc) : (x.setDesc n v).ms = x.ms := rfl
@[simp] theorem Ctx.setDesc_queues (x : Ctx) (n : Nat) (v : Desc) : (x.setDesc n v).queues = x.queues := rfl
@[simp] theorem Ctx.setDesc_bal (x : Ctx) (n : Nat) (v : Desc) : (x.setDesc n v).bal = x.bal := rfl
@[simp] theorem Ctx.setDesc_unclaimed (x : Ctx) (n : Nat) (v : Desc) : (x.setDesc n v).unclaimed = x.unclaimed := rfl
@[simp] theorem Ctx.setDesc_fmtmode (x : Ctx) (n : Nat) (v : Desc) : (x.setDesc n v).fmtmode = x.fmtmode := rfl
@[simp] theorem Ctx.setDesc_sptag (x : Ctx) (n : Nat) (v : Desc) : (x.setDesc n v).sptag = x.sptag := rfl
@[simp] theorem Ctx.setDesc_tags (x : Ctx) (n : Nat) (v : Desc) : (x.setDesc n v).tags = x.tags := rfl
@[simp] theorem Ctx.setDesc_rem (x : Ctx) (n : Nat) (v : Desc) : (x.setDesc n v).rem = x.rem := rfl
@[simp] theorem Ctx.setDesc_remIter (x : Ctx) (n : Nat) (v : Desc) : (x.setDesc n v).remIter = x.remIter := rfl
@[simp] theorem Ctx.setTag_regs (x : Ctx) (n : Nat) (v : Tag) : (x.setTag n v).regs = x.regs := rfl
@[simp] theorem Ctx.setTag_bt (x : Ctx) (n : Nat) (v : Tag) : (x.setTag n v).bt = x.bt := rfl
@[simp] theorem Ctx.setTag_kreg (x : Ctx) (n : Nat) (v : Tag) : (x.setTag n v).kreg = x.kreg := rfl
@[simp] theorem Ctx.setTag_lc (x : Ctx) (n : Nat) (v : Tag) : (x.setTag n v).lc = x.lc := rfl
@[simp] theorem Ctx.setTag_loops (x : Ctx) (n : Nat) (v : Tag) : (x.setTag n v).loops = x.loops := rfl
@[simp] theorem Ctx.setTag_pipe (x : Ctx) (n : Nat) (v : Tag) : (x.setTag n v).pipe = x.pipe := rfl
@[simp] theorem Ctx.setTag_delay (x : Ctx) (n : Nat) (v : Tag) : (x.setTag n v).delay = x.delay := rfl
@[simp] theorem Ctx.setTag_pc (x : Ctx) (n : Nat) (v : Tag) : (x.setTag n v).pc = x.pc := rfl
@[simp] theorem Ctx.setTag_preds (x : Ctx) (n : Nat) (v : Tag) : (x.setTag n v).preds = x.preds := rfl
@[simp] theorem Ctx.setTag_caps (x : Ctx) (n : Nat) (v : Tag) : (x.setTag n v).caps = x.caps := rfl
@[simp] theorem Ctx.setTag_descs (x : Ctx) (n : Nat) (v : Tag) : (x.setTag n v).descs = x.descs := rfl
@[simp] theorem Ctx.setTag_ma (x : Ctx) (n : Nat) (v : Tag) : (x.setTag n v).ma = x.ma := rfl
@[simp] theorem Ctx.setTag_mb (x : Ctx) (n : Nat) (v : Tag) : (x.setTag n v).mb = x.mb := rfl
@[simp] theorem Ctx.setTag_ms (x : Ctx) (n : Nat) (v : Tag) : (x.setTag n v).ms = x.ms := rfl
@[simp] theorem Ctx.setTag_queues (x : Ctx) (n : Nat) (v : Tag) : (x.setTag n v).queues = x.queues := rfl
@[simp] theorem Ctx.setTag_bal (x : Ctx) (n : Nat) (v : Tag) : (x.setTag n v).bal = x.bal := rfl
@[simp] theorem Ctx.setTag_unclaimed (x : Ctx) (n : Nat) (v : Tag) : (x.setTag n v).unclaimed = x.unclaimed := rfl
@[simp] theorem Ctx.setTag_fmtmode (x : Ctx) (n : Nat) (v : Tag) : (x.setTag n v).fmtmode = x.fmtmode := rfl
@[simp] theorem Ctx.setTag_sptag (x : Ctx) (n : Nat) (v : Tag) : (x.setTag n v).sptag = x.sptag := rfl
@[simp] theorem Ctx.setTag_rem (x : Ctx) (n : Nat) (v : Tag) : (x.setTag n v).rem = x.rem := rfl
@[simp] theorem Ctx.setTag_remIter (x : Ctx) (n : Nat) (v : Tag) : (x.setTag n v).remIter = x.remIter := rfl
@[simp] theorem Ctx.setLc_regs (x : Ctx) (n : Nat) (v : Word) : (x.setLc n v).regs = x.regs := rfl
@[simp] theorem Ctx.setLc_bt (x : Ctx) (n : Nat) (v : Word) : (x.setLc n v).bt = x.bt := rfl
@[simp] theorem Ctx.setLc_kreg (x : Ctx) (n : Nat) (v : Word) : (x.setLc n v).kreg = x.kreg := rfl
@[simp] theorem Ctx.setLc_loops (x : Ctx) (n : Nat) (v : Word) : (x.setLc n v).loops = x.loops := rfl
@[simp] theorem Ctx.setLc_pipe (x : Ctx) (n : Nat) (v : Word) : (x.setLc n v).pipe = x.pipe := rfl
@[simp] theorem Ctx.setLc_delay (x : Ctx) (n : Nat) (v : Word) : (x.setLc n v).delay = x.delay := rfl
@[simp] theorem Ctx.setLc_pc (x : Ctx) (n : Nat) (v : Word) : (x.setLc n v).pc = x.pc := rfl
@[simp] theorem Ctx.setLc_preds (x : Ctx) (n : Nat) (v : Word) : (x.setLc n v).preds = x.preds := rfl
@[simp] theorem Ctx.setLc_caps (x : Ctx) (n : Nat) (v : Word) : (x.setLc n v).caps = x.caps := rfl
@[simp] theorem Ctx.setLc_descs (x : Ctx) (n : Nat) (v : Word) : (x.setLc n v).descs = x.descs := rfl
@[simp] theorem Ctx.setLc_ma (x : Ctx) (n : Nat) (v : Word) : (x.setLc n v).ma = x.ma := rfl
@[simp] theorem Ctx.setLc_mb (x : Ctx) (n : Nat) (v : Word) : (x.setLc n v).mb = x.mb := rfl
@[simp] theorem Ctx.setLc_ms (x : Ctx) (n : Nat) (v : Word) : (x.setLc n v).ms = x.ms := rfl
@[simp] theorem Ctx.setLc_queues (x : Ctx) (n : Nat) (v : Word) : (x.setLc n v).queues = x.queues := rfl
@[simp] theorem Ctx.setLc_bal (x : Ctx) (n : Nat) (v : Word) : (x.setLc n v).bal = x.bal := rfl
@[simp] theorem Ctx.setLc_unclaimed (x : Ctx) (n : Nat) (v : Word) : (x.setLc n v).unclaimed = x.unclaimed := rfl
@[simp] theorem Ctx.setLc_fmtmode (x : Ctx) (n : Nat) (v : Word) : (x.setLc n v).fmtmode = x.fmtmode := rfl
@[simp] theorem Ctx.setLc_sptag (x : Ctx) (n : Nat) (v : Word) : (x.setLc n v).sptag = x.sptag := rfl
@[simp] theorem Ctx.setLc_tags (x : Ctx) (n : Nat) (v : Word) : (x.setLc n v).tags = x.tags := rfl
@[simp] theorem Ctx.setLc_rem (x : Ctx) (n : Nat) (v : Word) : (x.setLc n v).rem = x.rem := rfl
@[simp] theorem Ctx.setLc_remIter (x : Ctx) (n : Nat) (v : Word) : (x.setLc n v).remIter = x.remIter := rfl
@[simp] theorem Ctx.setBt_regs (x : Ctx) (n v : Nat) : (x.setBt n v).regs = x.regs := rfl
@[simp] theorem Ctx.setBt_kreg (x : Ctx) (n v : Nat) : (x.setBt n v).kreg = x.kreg := rfl
@[simp] theorem Ctx.setBt_lc (x : Ctx) (n v : Nat) : (x.setBt n v).lc = x.lc := rfl
@[simp] theorem Ctx.setBt_loops (x : Ctx) (n v : Nat) : (x.setBt n v).loops = x.loops := rfl
@[simp] theorem Ctx.setBt_pipe (x : Ctx) (n v : Nat) : (x.setBt n v).pipe = x.pipe := rfl
@[simp] theorem Ctx.setBt_delay (x : Ctx) (n v : Nat) : (x.setBt n v).delay = x.delay := rfl
@[simp] theorem Ctx.setBt_pc (x : Ctx) (n v : Nat) : (x.setBt n v).pc = x.pc := rfl
@[simp] theorem Ctx.setBt_preds (x : Ctx) (n v : Nat) : (x.setBt n v).preds = x.preds := rfl
@[simp] theorem Ctx.setBt_caps (x : Ctx) (n v : Nat) : (x.setBt n v).caps = x.caps := rfl
@[simp] theorem Ctx.setBt_descs (x : Ctx) (n v : Nat) : (x.setBt n v).descs = x.descs := rfl
@[simp] theorem Ctx.setBt_ma (x : Ctx) (n v : Nat) : (x.setBt n v).ma = x.ma := rfl
@[simp] theorem Ctx.setBt_mb (x : Ctx) (n v : Nat) : (x.setBt n v).mb = x.mb := rfl
@[simp] theorem Ctx.setBt_ms (x : Ctx) (n v : Nat) : (x.setBt n v).ms = x.ms := rfl
@[simp] theorem Ctx.setBt_queues (x : Ctx) (n v : Nat) : (x.setBt n v).queues = x.queues := rfl
@[simp] theorem Ctx.setBt_bal (x : Ctx) (n v : Nat) : (x.setBt n v).bal = x.bal := rfl
@[simp] theorem Ctx.setBt_unclaimed (x : Ctx) (n v : Nat) : (x.setBt n v).unclaimed = x.unclaimed := rfl
@[simp] theorem Ctx.setBt_fmtmode (x : Ctx) (n v : Nat) : (x.setBt n v).fmtmode = x.fmtmode := rfl
@[simp] theorem Ctx.setBt_sptag (x : Ctx) (n v : Nat) : (x.setBt n v).sptag = x.sptag := rfl
@[simp] theorem Ctx.setBt_tags (x : Ctx) (n v : Nat) : (x.setBt n v).tags = x.tags := rfl
@[simp] theorem Ctx.setBt_rem (x : Ctx) (n v : Nat) : (x.setBt n v).rem = x.rem := rfl
@[simp] theorem Ctx.setBt_remIter (x : Ctx) (n v : Nat) : (x.setBt n v).remIter = x.remIter := rfl
@[simp] theorem Ctx.setQueue_regs (x : Ctx) (n : Nat) (v : List QEntry) : (x.setQueue n v).regs = x.regs := rfl
@[simp] theorem Ctx.setQueue_bt (x : Ctx) (n : Nat) (v : List QEntry) : (x.setQueue n v).bt = x.bt := rfl
@[simp] theorem Ctx.setQueue_kreg (x : Ctx) (n : Nat) (v : List QEntry) : (x.setQueue n v).kreg = x.kreg := rfl
@[simp] theorem Ctx.setQueue_lc (x : Ctx) (n : Nat) (v : List QEntry) : (x.setQueue n v).lc = x.lc := rfl
@[simp] theorem Ctx.setQueue_loops (x : Ctx) (n : Nat) (v : List QEntry) : (x.setQueue n v).loops = x.loops := rfl
@[simp] theorem Ctx.setQueue_pipe (x : Ctx) (n : Nat) (v : List QEntry) : (x.setQueue n v).pipe = x.pipe := rfl
@[simp] theorem Ctx.setQueue_delay (x : Ctx) (n : Nat) (v : List QEntry) : (x.setQueue n v).delay = x.delay := rfl
@[simp] theorem Ctx.setQueue_pc (x : Ctx) (n : Nat) (v : List QEntry) : (x.setQueue n v).pc = x.pc := rfl
@[simp] theorem Ctx.setQueue_preds (x : Ctx) (n : Nat) (v : List QEntry) : (x.setQueue n v).preds = x.preds := rfl
@[simp] theorem Ctx.setQueue_caps (x : Ctx) (n : Nat) (v : List QEntry) : (x.setQueue n v).caps = x.caps := rfl
@[simp] theorem Ctx.setQueue_descs (x : Ctx) (n : Nat) (v : List QEntry) : (x.setQueue n v).descs = x.descs := rfl
@[simp] theorem Ctx.setQueue_ma (x : Ctx) (n : Nat) (v : List QEntry) : (x.setQueue n v).ma = x.ma := rfl
@[simp] theorem Ctx.setQueue_mb (x : Ctx) (n : Nat) (v : List QEntry) : (x.setQueue n v).mb = x.mb := rfl
@[simp] theorem Ctx.setQueue_ms (x : Ctx) (n : Nat) (v : List QEntry) : (x.setQueue n v).ms = x.ms := rfl
@[simp] theorem Ctx.setQueue_bal (x : Ctx) (n : Nat) (v : List QEntry) : (x.setQueue n v).bal = x.bal := rfl
@[simp] theorem Ctx.setQueue_unclaimed (x : Ctx) (n : Nat) (v : List QEntry) : (x.setQueue n v).unclaimed = x.unclaimed := rfl
@[simp] theorem Ctx.setQueue_fmtmode (x : Ctx) (n : Nat) (v : List QEntry) : (x.setQueue n v).fmtmode = x.fmtmode := rfl
@[simp] theorem Ctx.setQueue_sptag (x : Ctx) (n : Nat) (v : List QEntry) : (x.setQueue n v).sptag = x.sptag := rfl
@[simp] theorem Ctx.setQueue_tags (x : Ctx) (n : Nat) (v : List QEntry) : (x.setQueue n v).tags = x.tags := rfl
@[simp] theorem Ctx.setQueue_rem (x : Ctx) (n : Nat) (v : List QEntry) : (x.setQueue n v).rem = x.rem := rfl
@[simp] theorem Ctx.setQueue_remIter (x : Ctx) (n : Nat) (v : List QEntry) : (x.setQueue n v).remIter = x.remIter := rfl

end Sys2Proof.Machine
end

