-- ==== Sys2Proof/Laws/Issue.lean ====
section
/-! SUPPORT. What issuing an instruction can do: one law for each way in which `issueWith` ends, and the state after a normal
issue. -/

namespace Sys2Proof.Machine

theorem State.slots_ne_nil {s : State} {c k : Nat} {sl : Slot} (h : s.slot? c k = some sl) : (s.core c).slots ≠ [] := by
  intro e; simp [State.slot?, e, mfind] at h

/-- The core of the slot marked as the last that issued. -/
def State.mark (s : State) (c k : Nat) : State := s.setCore c { s.core c with last := k }

theorem State.slot_mark {s : State} {c k : Nat} {sl : Slot} (h : s.slot? c k = some sl) : (s.mark c k).slot? c k = some sl := by
  simpa [State.slot?, State.mark] using h

/-- Retirement of a word of a slot for which no pre-emption waits. -/
theorem State.retire_run {s : State} {c k : Nat} {v : Slot} (f : Ctx → Ctx) (h : s.slot? c k = some v) (hr : v.phase = .run) :
    s.retire c k f = (s.mark c k).setSlot c k (v.retire (f v.ctx)) := by
  have h1 := State.slot_mark h
  have h2 : (v.retire (f v.ctx)).phase = .run := hr
  have hm : (s.setCore c { s.core c with last := k }).slot? c k = some v := h1
  simp only [State.retire, hm]
  rw [if_neg (by simp [hr])]
  simp [State.resumePreempt, h2, State.mark]

/-- Retirement where the slot was just set. -/
theorem State.mark_setSlot (s : State) (c k : Nat) (v w : Slot) :
    ((s.setSlot c k v).mark c k).setSlot c k w =
      s.setCore c { s.core c with last := k, slots := mset (s.core c).slots k w } := by
  simp [State.mark, State.setSlot, State.core_setCore, State.setCore_setCore]

/-- What an instruction meets is a fault where no request waits (R364). -/
theorem State.faultOrHold_raise {s : State} {c k : Nat} {f : FaultRec} (h : f.hold = none) : s.faultOrHold c k f = s.raiseFault c k f := by
  simp [State.faultOrHold, FaultRec.due, h]

/-- The checks passed: what follows is the body. -/
theorem issueWith_pass {i : Instr} {s : State} {sl : Slot} (h : Issues s sl i) (body : Slot → Body) :
    issueWith i s body =
      match body sl with
      | .done s' => .next (s'.retire s.curCore s.curSlot (fun x => x.retire (sl.ctx.pc + 8)))
      | .jump s' n => .next (s'.retire s.curCore s.curSlot (fun x => x.jumpTo n))
      | .stall s' => .next (s'.modSlot s.curCore s.curSlot (fun sl => { sl with stalled := true }))
      | .fault f => .next (s.faultOrHold s.curCore s.curSlot { f with word := encode i, pc := sl.ctx.pc })
      | .lost s' f => .next (s'.faultOrHold s.curCore s.curSlot { f with word := encode i, pc := sl.ctx.pc })
      | .left s' => .next s' := by
  obtain ⟨h1, -, h3, h4⟩ := h
  simp only [State.cmdsHere] at h4
  simp only [issueWith, h1, h3, h4]
  rfl

/-- A body that completes: the word has issued. -/
theorem issueWith_done {i : Instr} {s s' : State} {sl v : Slot} {body : Slot → Body} (h : Issues s sl i) (hb : body sl = .done s')
    (hv : s'.slot? s.curCore s.curSlot = some v) (hr : v.phase = .run) :
    issueWith i s body = .next ((s'.mark s.curCore s.curSlot).setSlot s.curCore s.curSlot (v.past (sl.ctx.pc + 8))) := by
  rw [issueWith_pass h, hb]
  simp only [State.retire_run _ hv hr, Slot.past]

/-- A body that completes and continues elsewhere. -/
theorem issueWith_jump {i : Instr} {s s' : State} {sl v : Slot} {n : Nat} {body : Slot → Body} (h : Issues s sl i)
    (hb : body sl = .jump s' n) (hv : s'.slot? s.curCore s.curSlot = some v) (hr : v.phase = .run) :
    issueWith i s body = .next ((s'.mark s.curCore s.curSlot).setSlot s.curCore s.curSlot (v.goesTo n)) := by
  rw [issueWith_pass h, hb]
  simp only [State.retire_run _ hv hr, Slot.goesTo]

/-- An instruction that only computes a new slot. -/
theorem issueSlot_next {i : Instr} {s : State} {sl : Slot} {f : Slot → Slot} (h : Issues s sl i) (hr : (f sl).phase = .run) :
    issueSlot i s f = .next (s.putSlot ((f sl).past (sl.ctx.pc + 8))) := by
  rw [issueSlot, issueWith_done h rfl (State.slot_setSlot_same _ _ _ _) hr, State.mark_setSlot]
  rfl

/-- A body that only replaces the slot. -/
theorem issueWith_setSlot {i : Instr} {s : State} {sl v : Slot} {body : Slot → Body} (h : Issues s sl i)
    (hb : body sl = .done (s.setSlot s.curCore s.curSlot v)) (hr : v.phase = .run) :
    issueWith i s body = .next (s.putSlot (v.past (sl.ctx.pc + 8))) := by
  rw [issueWith_done h hb (State.slot_setSlot_same _ _ _ _) hr, State.mark_setSlot]
  rfl

/-- A body that replaces the slot and continues elsewhere. -/
theorem issueWith_setJump {i : Instr} {s : State} {sl v : Slot} {n : Nat} {body : Slot → Body} (h : Issues s sl i)
    (hb : body sl = .jump (s.setSlot s.curCore s.curSlot v) n) (hr : v.phase = .run) :
    issueWith i s body = .next (s.putSlot (v.goesTo n)) := by
  rw [issueWith_jump h hb (State.slot_setSlot_same _ _ _ _) hr, State.mark_setSlot]
  rfl

/-- A body that changes nothing but where it continues. -/
theorem issueWith_bareJump {i : Instr} {s : State} {sl : Slot} {n : Nat} {body : Slot → Body} (h : Issues s sl i)
    (hb : body sl = .jump s n) : issueWith i s body = .next (s.putSlot (sl.goesTo n)) := by
  have hne := State.slots_ne_nil h.slot
  rw [issueWith_jump h hb h.slot h.run]
  simp [State.putSlot, State.mark, State.setSlot, State.core_setCore, State.setCore_setCore, hne]

/-- A body that changes nothing. -/
theorem issueWith_bareDone {i : Instr} {s : State} {sl : Slot} {body : Slot → Body} (h : Issues s sl i)
    (hb : body sl = .done s) : issueWith i s body = .next (s.putSlot sl.pastWord) := by
  have hne := State.slots_ne_nil h.slot
  rw [issueWith_done h hb h.slot h.run]
  simp [State.putSlot, State.mark, State.setSlot, State.core_setCore, State.setCore_setCore, hne, Slot.pastWord]

@[simp] theorem Slot.claimReg_phase (sl : Slot) (n : Nat) : (sl.claimReg n).phase = sl.phase := by
  unfold Slot.claimReg; split <;> rfl
@[simp] theorem Slot.writeReg_phase (sl : Slot) (n : Nat) (v : Word) : (sl.writeReg n v).phase = sl.phase := by
  unfold Slot.writeReg; split
  · rfl
  · exact Slot.claimReg_phase _ _
theorem Slot.writeReg_ctx (sl : Slot) (n : Nat) (v : Word) : (sl.writeReg n v).ctx = sl.ctx.setReg n v := by
  unfold Slot.writeReg; split
  · subst_vars; rfl
  · rfl
@[simp] theorem Slot.writeReg_pc (sl : Slot) (n : Nat) (v : Word) : (sl.writeReg n v).ctx.pc = sl.ctx.pc := by
  rw [Slot.writeReg_ctx, Ctx.setReg_pc]

/-- Every outcome of an instruction of an occupied slot is a next state: no instruction stops the machine (R43, R297). -/
theorem issueWith_next {i : Instr} {s : State} {sl : Slot} (h : s.slot? s.curCore s.curSlot = some sl) (body : Slot → Body) :
    ∃ t, issueWith i s body = .next t := by
  simp only [issueWith, h]
  split
  · exact ⟨_, rfl⟩
  · split
    · exact ⟨_, rfl⟩
    · exact ⟨_, rfl⟩
    · exact ⟨_, rfl⟩
    · split <;> exact ⟨_, rfl⟩

/-! ### The slot after a word -/

@[simp] theorem State.core_putSlot (s : State) (v : Slot) :
    (s.putSlot v).core s.curCore = { s.core s.curCore with last := s.curSlot, slots := mset (s.core s.curCore).slots s.curSlot v } :=
  State.core_setCore s _ _

theorem State.core_putSlot_other (s : State) (v : Slot) {d : Nat} (h : d ≠ s.curCore) : (s.putSlot v).core d = s.core d :=
  State.core_setCore_other s _ h

@[simp] theorem State.slot_putSlot (s : State) (v : Slot) : (s.putSlot v).slot? s.curCore s.curSlot = some v := by
  simp [State.slot?]

/-- After a normal issue nothing outside the core has changed. -/
theorem sameOutside_putSlot (s : State) (v : Slot) : sameOutside s.curCore s (s.putSlot v) :=
  ⟨⟨rfl, rfl, rfl, rfl, rfl⟩, fun _ h => State.core_putSlot_other s v h, rfl, rfl, rfl, rfl, rfl, rfl, rfl, rfl, rfl, rfl, rfl⟩

/-- After a normal issue the core keeps all but the slot. -/
theorem sameCoreBut_putSlot (s : State) (v : Slot) : sameCoreBut s.curCore s.curSlot s (s.putSlot v) := by
  refine ⟨?_, ?_, ?_, ?_, ?_, ?_, ?_, fun j hj => ?_⟩ <;> simp [State.slot?]
  exact mfind_mset_other _ _ hj

end Sys2Proof.Machine
end

