-- ==== Sys2Proof/Laws/Retire.lean ====
section
/-! SUPPORT. What a retired word leaves alone in its context: all but the loop counters, loops, LOOPP, delay slots and offset. -/

namespace Sys2Proof.Machine

theorem loopBack_regs (o : Nat) (ls : List LoopRec) (x : Ctx) (kept : List LoopRec) : (loopBack o ls x kept).1.regs = x.regs := by
  induction ls generalizing x kept with
  | nil => rfl
  | cons l ls ih =>
    unfold loopBack
    split
    · split
      · rw [ih]; rfl
      · rfl
    · exact ih _ _
theorem Ctx.endPipe_regs (x : Ctx) (p : Pipe) : (x.endPipe p).regs = x.regs := by
  simp only [Ctx.endPipe]; split <;> rfl
@[simp] theorem Ctx.arrive_regs (x : Ctx) (n : Nat) (b : Bool) : (x.arrive n b).regs = x.regs := by
  unfold Ctx.arrive; split
  · rfl
  · split
    · rw [Ctx.endPipe_regs]
    · split <;> rfl
@[simp] theorem Ctx.retire_regs (x : Ctx) (n : Nat) : (x.retire n).regs = x.regs := by
  unfold Ctx.retire; split
  · split <;> rw [Ctx.arrive_regs]
  · simp only [Ctx.arrive_regs]; exact loopBack_regs _ _ _ _
@[simp] theorem Slot.past_regs (v : Slot) (n : Nat) : (v.past n).ctx.regs = v.ctx.regs := Ctx.retire_regs _ _

theorem loopBack_bt (o : Nat) (ls : List LoopRec) (x : Ctx) (kept : List LoopRec) : (loopBack o ls x kept).1.bt = x.bt := by
  induction ls generalizing x kept with
  | nil => rfl
  | cons l ls ih =>
    unfold loopBack
    split
    · split
      · rw [ih]; rfl
      · rfl
    · exact ih _ _
theorem Ctx.endPipe_bt (x : Ctx) (p : Pipe) : (x.endPipe p).bt = x.bt := by
  simp only [Ctx.endPipe]; split <;> rfl
@[simp] theorem Ctx.arrive_bt (x : Ctx) (n : Nat) (b : Bool) : (x.arrive n b).bt = x.bt := by
  unfold Ctx.arrive; split
  · rfl
  · split
    · rw [Ctx.endPipe_bt]
    · split <;> rfl
@[simp] theorem Ctx.retire_bt (x : Ctx) (n : Nat) : (x.retire n).bt = x.bt := by
  unfold Ctx.retire; split
  · split <;> rw [Ctx.arrive_bt]
  · simp only [Ctx.arrive_bt]; exact loopBack_bt _ _ _ _
@[simp] theorem Slot.past_bt (v : Slot) (n : Nat) : (v.past n).ctx.bt = v.ctx.bt := Ctx.retire_bt _ _

theorem loopBack_kreg (o : Nat) (ls : List LoopRec) (x : Ctx) (kept : List LoopRec) : (loopBack o ls x kept).1.kreg = x.kreg := by
  induction ls generalizing x kept with
  | nil => rfl
  | cons l ls ih =>
    unfold loopBack
    split
    · split
      · rw [ih]; rfl
      · rfl
    · exact ih _ _
theorem Ctx.endPipe_kreg (x : Ctx) (p : Pipe) : (x.endPipe p).kreg = x.kreg := by
  simp only [Ctx.endPipe]; split <;> rfl
@[simp] theorem Ctx.arrive_kreg (x : Ctx) (n : Nat) (b : Bool) : (x.arrive n b).kreg = x.kreg := by
  unfold Ctx.arrive; split
  · rfl
  · split
    · rw [Ctx.endPipe_kreg]
    · split <;> rfl
@[simp] theorem Ctx.retire_kreg (x : Ctx) (n : Nat) : (x.retire n).kreg = x.kreg := by
  unfold Ctx.retire; split
  · split <;> rw [Ctx.arrive_kreg]
  · simp only [Ctx.arrive_kreg]; exact loopBack_kreg _ _ _ _
@[simp] theorem Slot.past_kreg (v : Slot) (n : Nat) : (v.past n).ctx.kreg = v.ctx.kreg := Ctx.retire_kreg _ _

theorem loopBack_preds (o : Nat) (ls : List LoopRec) (x : Ctx) (kept : List LoopRec) : (loopBack o ls x kept).1.preds = x.preds := by
  induction ls generalizing x kept with
  | nil => rfl
  | cons l ls ih =>
    unfold loopBack
    split
    · split
      · rw [ih]; rfl
      · rfl
    · exact ih _ _
theorem Ctx.endPipe_preds (x : Ctx) (p : Pipe) : (x.endPipe p).preds = x.preds := by
  simp only [Ctx.endPipe]; split <;> rfl
@[simp] theorem Ctx.arrive_preds (x : Ctx) (n : Nat) (b : Bool) : (x.arrive n b).preds = x.preds := by
  unfold Ctx.arrive; split
  · rfl
  · split
    · rw [Ctx.endPipe_preds]
    · split <;> rfl
@[simp] theorem Ctx.retire_preds (x : Ctx) (n : Nat) : (x.retire n).preds = x.preds := by
  unfold Ctx.retire; split
  · split <;> rw [Ctx.arrive_preds]
  · simp only [Ctx.arrive_preds]; exact loopBack_preds _ _ _ _
@[simp] theorem Slot.past_preds (v : Slot) (n : Nat) : (v.past n).ctx.preds = v.ctx.preds := Ctx.retire_preds _ _

theorem loopBack_caps (o : Nat) (ls : List LoopRec) (x : Ctx) (kept : List LoopRec) : (loopBack o ls x kept).1.caps = x.caps := by
  induction ls generalizing x kept with
  | nil => rfl
  | cons l ls ih =>
    unfold loopBack
    split
    · split
      · rw [ih]; rfl
      · rfl
    · exact ih _ _
theorem Ctx.endPipe_caps (x : Ctx) (p : Pipe) : (x.endPipe p).caps = x.caps := by
  simp only [Ctx.endPipe]; split <;> rfl
@[simp] theorem Ctx.arrive_caps (x : Ctx) (n : Nat) (b : Bool) : (x.arrive n b).caps = x.caps := by
  unfold Ctx.arrive; split
  · rfl
  · split
    · rw [Ctx.endPipe_caps]
    · split <;> rfl
@[simp] theorem Ctx.retire_caps (x : Ctx) (n : Nat) : (x.retire n).caps = x.caps := by
  unfold Ctx.retire; split
  · split <;> rw [Ctx.arrive_caps]
  · simp only [Ctx.arrive_caps]; exact loopBack_caps _ _ _ _
@[simp] theorem Slot.past_caps (v : Slot) (n : Nat) : (v.past n).ctx.caps = v.ctx.caps := Ctx.retire_caps _ _

theorem loopBack_descs (o : Nat) (ls : List LoopRec) (x : Ctx) (kept : List LoopRec) : (loopBack o ls x kept).1.descs = x.descs := by
  induction ls generalizing x kept with
  | nil => rfl
  | cons l ls ih =>
    unfold loopBack
    split
    · split
      · rw [ih]; rfl
      · rfl
    · exact ih _ _
theorem Ctx.endPipe_descs (x : Ctx) (p : Pipe) : (x.endPipe p).descs = x.descs := by
  simp only [Ctx.endPipe]; split <;> rfl
@[simp] theorem Ctx.arrive_descs (x : Ctx) (n : Nat) (b : Bool) : (x.arrive n b).descs = x.descs := by
  unfold Ctx.arrive; split
  · rfl
  · split
    · rw [Ctx.endPipe_descs]
    · split <;> rfl
@[simp] theorem Ctx.retire_descs (x : Ctx) (n : Nat) : (x.retire n).descs = x.descs := by
  unfold Ctx.retire; split
  · split <;> rw [Ctx.arrive_descs]
  · simp only [Ctx.arrive_descs]; exact loopBack_descs _ _ _ _
@[simp] theorem Slot.past_descs (v : Slot) (n : Nat) : (v.past n).ctx.descs = v.ctx.descs := Ctx.retire_descs _ _

theorem loopBack_ma (o : Nat) (ls : List LoopRec) (x : Ctx) (kept : List LoopRec) : (loopBack o ls x kept).1.ma = x.ma := by
  induction ls generalizing x kept with
  | nil => rfl
  | cons l ls ih =>
    unfold loopBack
    split
    · split
      · rw [ih]; rfl
      · rfl
    · exact ih _ _
theorem Ctx.endPipe_ma (x : Ctx) (p : Pipe) : (x.endPipe p).ma = x.ma := by
  simp only [Ctx.endPipe]; split <;> rfl
@[simp] theorem Ctx.arrive_ma (x : Ctx) (n : Nat) (b : Bool) : (x.arrive n b).ma = x.ma := by
  unfold Ctx.arrive; split
  · rfl
  · split
    · rw [Ctx.endPipe_ma]
    · split <;> rfl
@[simp] theorem Ctx.retire_ma (x : Ctx) (n : Nat) : (x.retire n).ma = x.ma := by
  unfold Ctx.retire; split
  · split <;> rw [Ctx.arrive_ma]
  · simp only [Ctx.arrive_ma]; exact loopBack_ma _ _ _ _
@[simp] theorem Slot.past_ma (v : Slot) (n : Nat) : (v.past n).ctx.ma = v.ctx.ma := Ctx.retire_ma _ _

theorem loopBack_mb (o : Nat) (ls : List LoopRec) (x : Ctx) (kept : List LoopRec) : (loopBack o ls x kept).1.mb = x.mb := by
  induction ls generalizing x kept with
  | nil => rfl
  | cons l ls ih =>
    unfold loopBack
    split
    · split
      · rw [ih]; rfl
      · rfl
    · exact ih _ _
theorem Ctx.endPipe_mb (x : Ctx) (p : Pipe) : (x.endPipe p).mb = x.mb := by
  simp only [Ctx.endPipe]; split <;> rfl
@[simp] theorem Ctx.arrive_mb (x : Ctx) (n : Nat) (b : Bool) : (x.arrive n b).mb = x.mb := by
  unfold Ctx.arrive; split
  · rfl
  · split
    · rw [Ctx.endPipe_mb]
    · split <;> rfl
@[simp] theorem Ctx.retire_mb (x : Ctx) (n : Nat) : (x.retire n).mb = x.mb := by
  unfold Ctx.retire; split
  · split <;> rw [Ctx.arrive_mb]
  · simp only [Ctx.arrive_mb]; exact loopBack_mb _ _ _ _
@[simp] theorem Slot.past_mb (v : Slot) (n : Nat) : (v.past n).ctx.mb = v.ctx.mb := Ctx.retire_mb _ _

theorem loopBack_ms (o : Nat) (ls : List LoopRec) (x : Ctx) (kept : List LoopRec) : (loopBack o ls x kept).1.ms = x.ms := by
  induction ls generalizing x kept with
  | nil => rfl
  | cons l ls ih =>
    unfold loopBack
    split
    · split
      · rw [ih]; rfl
      · rfl
    · exact ih _ _
theorem Ctx.endPipe_ms (x : Ctx) (p : Pipe) : (x.endPipe p).ms = x.ms := by
  simp only [Ctx.endPipe]; split <;> rfl
@[simp] theorem Ctx.arrive_ms (x : Ctx) (n : Nat) (b : Bool) : (x.arrive n b).ms = x.ms := by
  unfold Ctx.arrive; split
  · rfl
  · split
    · rw [Ctx.endPipe_ms]
    · split <;> rfl
@[simp] theorem Ctx.retire_ms (x : Ctx) (n : Nat) : (x.retire n).ms = x.ms := by
  unfold Ctx.retire; split
  · split <;> rw [Ctx.arrive_ms]
  · simp only [Ctx.arrive_ms]; exact loopBack_ms _ _ _ _
@[simp] theorem Slot.past_ms (v : Slot) (n : Nat) : (v.past n).ctx.ms = v.ctx.ms := Ctx.retire_ms _ _

theorem loopBack_queues (o : Nat) (ls : List LoopRec) (x : Ctx) (kept : List LoopRec) : (loopBack o ls x kept).1.queues = x.queues := by
  induction ls generalizing x kept with
  | nil => rfl
  | cons l ls ih =>
    unfold loopBack
    split
    · split
      · rw [ih]; rfl
      · rfl
    · exact ih _ _
theorem Ctx.endPipe_queues (x : Ctx) (p : Pipe) : (x.endPipe p).queues = x.queues := by
  simp only [Ctx.endPipe]; split <;> rfl
@[simp] theorem Ctx.arrive_queues (x : Ctx) (n : Nat) (b : Bool) : (x.arrive n b).queues = x.queues := by
  unfold Ctx.arrive; split
  · rfl
  · split
    · rw [Ctx.endPipe_queues]
    · split <;> rfl
@[simp] theorem Ctx.retire_queues (x : Ctx) (n : Nat) : (x.retire n).queues = x.queues := by
  unfold Ctx.retire; split
  · split <;> rw [Ctx.arrive_queues]
  · simp only [Ctx.arrive_queues]; exact loopBack_queues _ _ _ _
@[simp] theorem Slot.past_queues (v : Slot) (n : Nat) : (v.past n).ctx.queues = v.ctx.queues := Ctx.retire_queues _ _

theorem loopBack_bal (o : Nat) (ls : List LoopRec) (x : Ctx) (kept : List LoopRec) : (loopBack o ls x kept).1.bal = x.bal := by
  induction ls generalizing x kept with
  | nil => rfl
  | cons l ls ih =>
    unfold loopBack
    split
    · split
      · rw [ih]; rfl
      · rfl
    · exact ih _ _
theorem Ctx.endPipe_bal (x : Ctx) (p : Pipe) : (x.endPipe p).bal = x.bal := by
  simp only [Ctx.endPipe]; split <;> rfl
@[simp] theorem Ctx.arrive_bal (x : Ctx) (n : Nat) (b : Bool) : (x.arrive n b).bal = x.bal := by
  unfold Ctx.arrive; split
  · rfl
  · split
    · rw [Ctx.endPipe_bal]
    · split <;> rfl
@[simp] theorem Ctx.retire_bal (x : Ctx) (n : Nat) : (x.retire n).bal = x.bal := by
  unfold Ctx.retire; split
  · split <;> rw [Ctx.arrive_bal]
  · simp only [Ctx.arrive_bal]; exact loopBack_bal _ _ _ _
@[simp] theorem Slot.past_bal (v : Slot) (n : Nat) : (v.past n).ctx.bal = v.ctx.bal := Ctx.retire_bal _ _

theorem loopBack_unclaimed (o : Nat) (ls : List LoopRec) (x : Ctx) (kept : List LoopRec) : (loopBack o ls x kept).1.unclaimed = x.unclaimed := by
  induction ls generalizing x kept with
  | nil => rfl
  | cons l ls ih =>
    unfold loopBack
    split
    · split
      · rw [ih]; rfl
      · rfl
    · exact ih _ _
theorem Ctx.endPipe_unclaimed (x : Ctx) (p : Pipe) : (x.endPipe p).unclaimed = x.unclaimed := by
  simp only [Ctx.endPipe]; split <;> rfl
@[simp] theorem Ctx.arrive_unclaimed (x : Ctx) (n : Nat) (b : Bool) : (x.arrive n b).unclaimed = x.unclaimed := by
  unfold Ctx.arrive; split
  · rfl
  · split
    · rw [Ctx.endPipe_unclaimed]
    · split <;> rfl
@[simp] theorem Ctx.retire_unclaimed (x : Ctx) (n : Nat) : (x.retire n).unclaimed = x.unclaimed := by
  unfold Ctx.retire; split
  · split <;> rw [Ctx.arrive_unclaimed]
  · simp only [Ctx.arrive_unclaimed]; exact loopBack_unclaimed _ _ _ _
@[simp] theorem Slot.past_unclaimed (v : Slot) (n : Nat) : (v.past n).ctx.unclaimed = v.ctx.unclaimed := Ctx.retire_unclaimed _ _

theorem loopBack_fmtmode (o : Nat) (ls : List LoopRec) (x : Ctx) (kept : List LoopRec) : (loopBack o ls x kept).1.fmtmode = x.fmtmode := by
  induction ls generalizing x kept with
  | nil => rfl
  | cons l ls ih =>
    unfold loopBack
    split
    · split
      · rw [ih]; rfl
      · rfl
    · exact ih _ _
theorem Ctx.endPipe_fmtmode (x : Ctx) (p : Pipe) : (x.endPipe p).fmtmode = x.fmtmode := by
  simp only [Ctx.endPipe]; split <;> rfl
@[simp] theorem Ctx.arrive_fmtmode (x : Ctx) (n : Nat) (b : Bool) : (x.arrive n b).fmtmode = x.fmtmode := by
  unfold Ctx.arrive; split
  · rfl
  · split
    · rw [Ctx.endPipe_fmtmode]
    · split <;> rfl
@[simp] theorem Ctx.retire_fmtmode (x : Ctx) (n : Nat) : (x.retire n).fmtmode = x.fmtmode := by
  unfold Ctx.retire; split
  · split <;> rw [Ctx.arrive_fmtmode]
  · simp only [Ctx.arrive_fmtmode]; exact loopBack_fmtmode _ _ _ _
@[simp] theorem Slot.past_fmtmode (v : Slot) (n : Nat) : (v.past n).ctx.fmtmode = v.ctx.fmtmode := Ctx.retire_fmtmode _ _

theorem loopBack_sptag (o : Nat) (ls : List LoopRec) (x : Ctx) (kept : List LoopRec) : (loopBack o ls x kept).1.sptag = x.sptag := by
  induction ls generalizing x kept with
  | nil => rfl
  | cons l ls ih =>
    unfold loopBack
    split
    · split
      · rw [ih]; rfl
      · rfl
    · exact ih _ _
theorem Ctx.endPipe_sptag (x : Ctx) (p : Pipe) : (x.endPipe p).sptag = x.sptag := by
  simp only [Ctx.endPipe]; split <;> rfl
@[simp] theorem Ctx.arrive_sptag (x : Ctx) (n : Nat) (b : Bool) : (x.arrive n b).sptag = x.sptag := by
  unfold Ctx.arrive; split
  · rfl
  · split
    · rw [Ctx.endPipe_sptag]
    · split <;> rfl
@[simp] theorem Ctx.retire_sptag (x : Ctx) (n : Nat) : (x.retire n).sptag = x.sptag := by
  unfold Ctx.retire; split
  · split <;> rw [Ctx.arrive_sptag]
  · simp only [Ctx.arrive_sptag]; exact loopBack_sptag _ _ _ _
@[simp] theorem Slot.past_sptag (v : Slot) (n : Nat) : (v.past n).ctx.sptag = v.ctx.sptag := Ctx.retire_sptag _ _

theorem loopBack_tags (o : Nat) (ls : List LoopRec) (x : Ctx) (kept : List LoopRec) : (loopBack o ls x kept).1.tags = x.tags := by
  induction ls generalizing x kept with
  | nil => rfl
  | cons l ls ih =>
    unfold loopBack
    split
    · split
      · rw [ih]; rfl
      · rfl
    · exact ih _ _
theorem Ctx.endPipe_tags (x : Ctx) (p : Pipe) : (x.endPipe p).tags = x.tags := by
  simp only [Ctx.endPipe]; split <;> rfl
@[simp] theorem Ctx.arrive_tags (x : Ctx) (n : Nat) (b : Bool) : (x.arrive n b).tags = x.tags := by
  unfold Ctx.arrive; split
  · rfl
  · split
    · rw [Ctx.endPipe_tags]
    · split <;> rfl
@[simp] theorem Ctx.retire_tags (x : Ctx) (n : Nat) : (x.retire n).tags = x.tags := by
  unfold Ctx.retire; split
  · split <;> rw [Ctx.arrive_tags]
  · simp only [Ctx.arrive_tags]; exact loopBack_tags _ _ _ _
@[simp] theorem Slot.past_tags (v : Slot) (n : Nat) : (v.past n).ctx.tags = v.ctx.tags := Ctx.retire_tags _ _

theorem loopBack_rem (o : Nat) (ls : List LoopRec) (x : Ctx) (kept : List LoopRec) : (loopBack o ls x kept).1.rem = x.rem := by
  induction ls generalizing x kept with
  | nil => rfl
  | cons l ls ih =>
    unfold loopBack
    split
    · split
      · rw [ih]; rfl
      · rfl
    · exact ih _ _
theorem Ctx.endPipe_rem (x : Ctx) (p : Pipe) : (x.endPipe p).rem = x.rem := by
  simp only [Ctx.endPipe]; split <;> rfl
@[simp] theorem Ctx.arrive_rem (x : Ctx) (n : Nat) (b : Bool) : (x.arrive n b).rem = x.rem := by
  unfold Ctx.arrive; split
  · rfl
  · split
    · rw [Ctx.endPipe_rem]
    · split <;> rfl
@[simp] theorem Ctx.retire_rem (x : Ctx) (n : Nat) : (x.retire n).rem = x.rem := by
  unfold Ctx.retire; split
  · split <;> rw [Ctx.arrive_rem]
  · simp only [Ctx.arrive_rem]; exact loopBack_rem _ _ _ _
@[simp] theorem Slot.past_rem (v : Slot) (n : Nat) : (v.past n).ctx.rem = v.ctx.rem := Ctx.retire_rem _ _

/-- Outside a LOOPP a word that ends no loop goes on to the next word. -/
theorem Ctx.retire_plain {x : Ctx} (n : Nat) (hd : x.delay = none) (hl : x.loops = []) (hp : x.pipe = none) :
    x.retire n = { x with pc := n } := by
  simp [Ctx.retire, hd, hl, hp, loopBack, Ctx.arrive]

/-- Reads of a context that a retired word leaves alone. -/
@[simp] theorem Ctx.retire_reg (x : Ctx) (n r : Nat) : (x.retire n).reg r = x.reg r := by simp [Ctx.reg]
@[simp] theorem Ctx.retire_k (x : Ctx) (n r : Nat) : (x.retire n).k r = x.k r := by simp [Ctx.k]
@[simp] theorem Ctx.retire_pred (x : Ctx) (n r : Nat) : (x.retire n).pred r = x.pred r := by simp [Ctx.pred]
@[simp] theorem Ctx.retire_cap (x : Ctx) (n r : Nat) : (x.retire n).cap r = x.cap r := by simp [Ctx.cap]

/-- Without active loops the loop counters stay. -/
theorem Ctx.retire_lc {x : Ctx} (n : Nat) (h : x.loops = []) : (x.retire n).lc = x.lc := by
  have ha : ∀ (y : Ctx) (m : Nat) (b : Bool), (y.arrive m b).lc = y.lc := by
    intro y m b; unfold Ctx.arrive; split
    · rfl
    · split
      · simp only [Ctx.endPipe]; split <;> rfl
      · split <;> rfl
  unfold Ctx.retire; split
  · split <;> rw [ha]
  · simp [h, loopBack, ha]

@[simp] theorem Slot.pastWord_flt (v : Slot) : v.pastWord.flt = v.flt := rfl
@[simp] theorem Slot.pastWord_hsel (v : Slot) : v.pastWord.hsel = v.hsel := rfl
@[simp] theorem Slot.pastWord_rsel (v : Slot) : v.pastWord.rsel = v.rsel := rfl

end Sys2Proof.Machine
end

