-- ==== Sys2Proof/Laws/Stores.lean ====
section
/-! SUPPORT. Laws of the package's byte stores: every operation that writes one keeps all of them in canonical form, and what a
write at a location leaves of every byte. -/

namespace Sys2Proof.Machine

/-- A state with the same stores is as canonical. -/
theorem State.storesWf_congr {s t : State} (hm : t.mem = s.mem) (hc : t.cist = s.cist) (hs : ∀ c, (t.core c).spad = (s.core c).spad)
    (hl : ∀ p, (t.part p).lines = (s.part p).lines) (h : s.storesWf) : t.storesWf :=
  ⟨hm ▸ h.mem, hc ▸ h.cist, fun c => (hs c).symm ▸ h.spad c, fun p => (hl p).symm ▸ h.lines p⟩

/-- A core with a canonical scratchpad put in place keeps the form. -/
theorem State.storesWf_setCore {s : State} (c : Nat) (v : Core) (hv : Bytes.wf v.spad = true) (h : s.storesWf) :
    (s.setCore c v).storesWf := by
  refine ⟨h.mem, h.cist, fun d => ?_, h.lines⟩
  by_cases hd : d = c
  · subst hd; simpa [State.core, State.setCore] using hv
  · simpa [State.core, State.setCore, mget_mput_other _ _ _ hd] using h.spad d

/-- A partition that holds each of its lines once put in place keeps the form. -/
theorem State.storesWf_setPart {s : State} (p : Nat) (v : Part) (hv : (v.lines.map ResLine.line).Nodup) (h : s.storesWf) :
    (s.setPart p v).storesWf := by
  refine ⟨h.mem, h.cist, h.spad, fun d => ?_⟩
  by_cases hd : d = p
  · subst hd; simpa [State.part, State.setPart] using hv
  · simpa [State.part, State.setPart, mget_mput_other _ _ _ hd] using h.lines d

/-- A region put in place keeps the form. -/
theorem State.storesWf_setRegion {s : State} (r : Nat) (v : Region) (h : s.storesWf) : (s.setRegion r v).storesWf :=
  ⟨h.mem, h.cist, h.spad, h.lines⟩

/-- What a step of a fold keeps, the fold keeps. -/
theorem foldl_keeps {α β : Type} {P : α → Prop} {f : α → β → α} (hf : ∀ a b, P a → P (f a b)) (l : List β) {a : α} (h : P a) :
    P (l.foldl f a) := by
  induction l generalizing a with
  | nil => exact h
  | cons b l ih => exact ih (hf a b h)

/-! ### Lines that leave the caches -/

/-- Flags that clear in a residency table keep the form. -/
theorem State.storesWf_residGone {s : State} (flag : Nat) (ts : List (Nat × Nat)) (rs : List Nat) (h : s.storesWf) :
    (s.residGone flag ts rs).storesWf := by
  unfold State.residGone
  split
  · exact h
  · exact foldl_keeps (P := State.storesWf) (fun _ _ h => State.storesWf_setRegion _ _ h) rs h

/-- Flags that clear in a residency table leave the partitions alone. -/
@[simp] theorem State.parts_residGone (s : State) (flag : Nat) (ts : List (Nat × Nat)) (rs : List Nat) :
    (s.residGone flag ts rs).parts = s.parts := by
  unfold State.residGone
  split
  · rfl
  · exact foldl_keeps (P := fun t : State => t.parts = s.parts)
      (f := fun t r => t.residClear r flag (fun e => ts.any (fun u => e.is u.1 u.2))) (fun _ _ h => h) rs rfl

/-- Lines that leave an L2 slice keep the form. -/
theorem State.storesWf_dropL2 {s : State} (r : Nat) (sel : L2Line → Bool) (h : s.storesWf) : (s.dropL2 r sel).storesWf := by
  unfold State.dropL2
  dsimp only
  split
  · exact h
  · exact State.storesWf_residGone _ _ _ (State.storesWf_setRegion _ _ h)

/-- Lines that leave the Reservoir keep the form. -/
theorem State.storesWf_dropRes {s : State} (p : Nat) (sel : Nat → Bool) (h : s.storesWf) : (s.dropRes p sel).storesWf := by
  unfold State.dropRes
  dsimp only
  split
  · exact h
  · refine State.storesWf_residGone _ _ _ (foldl_keeps (P := State.storesWf) (fun _ _ h => State.storesWf_dropL2 _ _ h) _ ?_)
    exact State.storesWf_setPart _ _ ((List.filter_sublist.map _).nodup (h.lines p)) ⟨h.mem, h.cist, h.spad, h.lines⟩

/-- Lines that leave an L2 slice leave the partitions alone. -/
@[simp] theorem State.parts_dropL2 (s : State) (r : Nat) (sel : L2Line → Bool) : (s.dropL2 r sel).parts = s.parts := by
  unfold State.dropL2
  dsimp only
  split
  · rfl
  · exact State.parts_residGone _ _ _ _

/-- The lines that stay in the Reservoir share of a partition. -/
theorem State.lines_dropRes (s : State) (p : Nat) (sel : Nat → Bool) (y : ResLine) (hy : y ∈ ((s.dropRes p sel).part p).lines) :
    y ∈ (s.part p).lines ∧ sel y.line = false := by
  unfold State.dropRes at hy
  dsimp only at hy
  split at hy
  · next hg =>
    refine ⟨hy, ?_⟩
    have := List.filter_eq_nil_iff.mp hg y hy
    simpa using this
  · rw [State.part, State.parts_residGone, foldl_keeps (P := fun t : State => t.parts = _) (fun a b (h : a.parts = _) => (State.parts_dropL2 a b _).trans h) _ rfl] at hy
    simp only [State.setPart, mget_mput_same] at hy
    simpa using List.mem_filter.mp hy

/-- Lines of every partition that leave the Reservoir keep the form. -/
theorem State.storesWf_dropResAll {s : State} (sel : Nat → Bool) (h : s.storesWf) : (s.dropResAll sel).storesWf :=
  foldl_keeps (P := State.storesWf) (fun _ _ h => State.storesWf_dropRes _ _ h) _ h

/-- A recall keeps the form. -/
theorem State.storesWf_recallLines {s : State} (base size2 : Nat) (h : s.storesWf) : (s.recallLines base size2).storesWf :=
  State.storesWf_congr (s := s.dropResAll _) rfl rfl (fun _ => rfl) (fun _ => rfl) (State.storesWf_dropResAll _ h)

/-! ### Lines that enter the caches -/

/-- A line put into an L2 slice keeps the form. -/
theorem State.storesWf_putL2 {s : State} (r : Nat) (x : L2Line) (err : List Nat) (h : s.storesWf) : (s.putL2 r x err).storesWf := by
  unfold State.putL2
  refine State.storesWf_setRegion _ _ ?_
  split
  · exact h
  · split
    · exact State.storesWf_dropL2 _ _ h
    · exact h

/-- A line that an access leaves in an L2 slice keeps the form. -/
theorem State.storesWf_fillL2 {s : State} (r p : Nat) (aper : Aper) (line : Nat) (f : Fill) (h : s.storesWf) :
    (s.fillL2 r p aper line f).storesWf := by
  unfold State.fillL2
  dsimp only
  repeat' split
  all_goals first | exact State.storesWf_putL2 _ _ _ h | exact h

/-- Room made in a Reservoir share keeps the form. -/
theorem State.storesWf_resMake {s : State} (p : Nat) (h : s.storesWf) : (s.resMake p).storesWf := by
  unfold State.resMake
  repeat' split
  all_goals first | exact State.storesWf_dropRes _ _ h | exact h

/-- Room made in a Reservoir share adds no line. -/
theorem State.lines_resMake (s : State) (p : Nat) (y : ResLine) (hy : y ∈ ((s.resMake p).part p).lines) : y ∈ (s.part p).lines := by
  unfold State.resMake at hy
  split at hy
  · exact hy
  · split at hy
    · exact (State.lines_dropRes _ _ _ y hy).1
    · exact hy

/-- A line put behind those of other numbers is listed once. -/
theorem nodup_lines_append {l : List ResLine} {x : ResLine} (h : (l.map ResLine.line).Nodup) (hx : ∀ y ∈ l, y.line ≠ x.line) :
    ((l ++ [x]).map ResLine.line).Nodup := by
  rw [List.map_append, List.nodup_append]
  refine ⟨h, by simp, ?_⟩
  simp only [List.mem_map, List.map_cons, List.map_nil, List.mem_singleton, ne_eq, forall_exists_index, and_imp]
  rintro a y hy rfl b rfl
  exact hx y hy

/-- Uncorrectable granules of Reservoir copies are no part of the form. -/
theorem State.storesWf_resErr {s : State} (l : List Nat) (h : s.storesWf) : State.storesWf { s with resErr := l } :=
  ⟨h.mem, h.cist, h.spad, h.lines⟩

/-- Read leases kept by the pool leave the stores as they are. -/
theorem State.storesWf_keepPast {s : State} (gone : List ResLine) (h : s.storesWf) : (s.keepPast gone).storesWf :=
  State.storesWf_congr (s := s) rfl rfl (fun _ => rfl) (fun _ => rfl) h

/-- A line filled in the Reservoir keeps the form. -/
theorem State.storesWf_fillLine {s : State} (p line lcls : Nat) (f : Fill) (h : s.storesWf) : (s.fillLine p line lcls f).storesWf := by
  unfold State.fillLine
  split
  · refine State.storesWf_setPart _ _ (nodup_lines_append ((List.filter_sublist.map _).nodup (h.lines p)) ?_) h
    intro y hy
    next x hx =>
      have hline : x.line = line := by
        have := List.find?_some hx
        simp only [Bool.and_eq_true, beq_iff_eq] at this
        exact this.1
      have hne := (List.mem_filter.mp hy).2
      show y.line ≠ x.line
      rw [hline]
      simpa using hne
  · have h' := State.storesWf_resMake p (State.storesWf_dropRes p (fun l => l == line) h)
    have hl := fun y hy => (State.lines_dropRes s p (fun l => l == line) y (State.lines_resMake _ p y hy)).2
    generalize (s.dropRes p (fun l => l == line)).resMake p = u at h' hl ⊢
    dsimp only
    split
    · exact State.storesWf_keepPast _ h'
    · refine State.storesWf_setPart _ _ (nodup_lines_append (h'.lines p) ?_) (State.storesWf_resErr _ h')
      intro y hy he
      have := hl y hy
      simp [show y.line = line from he] at this

/-- The caches after a read keep the form. -/
theorem State.storesWf_afterRead {s : State} (l : Loc) (n scope : Nat) (f : Fill) (h : s.storesWf) : (s.afterRead l n scope f).storesWf := by
  unfold State.afterRead
  split
  · refine foldl_keeps (P := State.storesWf) (fun t k h => ?_) _ h
    unfold State.lineRead
    dsimp only
    repeat' split
    all_goals first
      | exact State.storesWf_fillL2 _ _ _ _ _ h
      | exact State.storesWf_fillL2 _ _ _ _ _ (State.storesWf_fillLine _ _ _ _ h)
      | exact State.storesWf_fillLine _ _ _ _ h
      | exact h
  · exact h

/-! ### Writes -/

/-- A write to system memory keeps the form. -/
theorem State.storesWf_writeSys {s : State} (a : Nat) (bs : List Byte) (h : s.storesWf) : (s.writeSys a bs).storesWf := by
  refine ⟨wrBytes_wf a bs h.mem, h.cist, h.spad, fun p => ?_⟩
  have := h.lines p
  simp only [State.part, State.writeSys] at this ⊢
  rw [mget_map (d := ({} : Part)) (f := fun q => { q with lines := q.lines.map (fun l => { l with data := patchRow (wrBytes s.mem a bs) a bs.length l.line l.data }) }) rfl]
  simpa [List.map_map, Function.comp_def] using this

/-- A write at any location keeps the form. -/
theorem State.storesWf_writeLoc {s : State} (l : Loc) (bs : List Byte) (h : s.storesWf) : (s.writeLoc l bs).storesWf := by
  unfold State.writeLoc
  split
  · exact State.storesWf_setCore _ _ (wrBytes_wf _ _ (h.spad _)) h
  · exact ⟨h.mem, wrBytes_wf _ _ h.cist, h.spad, h.lines⟩
  · exact State.storesWf_writeSys _ _ h

/-- A store at a location keeps the form. -/
theorem State.storesWf_storeLoc {s : State} (l : Loc) (scope : Nat) (bs : List Byte) (h : s.storesWf) : (s.storeLoc l scope bs).storesWf := by
  unfold State.storeLoc State.homeOnly
  split
  · exact foldl_keeps (P := State.storesWf) (fun _ _ h => State.storesWf_dropL2 _ _ h) _ (State.storesWf_writeLoc l bs h)
  · exact State.storesWf_writeLoc l bs h

/-- A store of an access of the package keeps the form. -/
theorem State.storesWf_storeAt {s : State} (l : Loc) (scope : Nat) (f : Fill) (bs : List Byte) (h : s.storesWf) :
    (s.storeAt l scope f bs).storesWf := by
  unfold State.storeAt
  dsimp only
  split
  · refine foldl_keeps (P := State.storesWf) (fun t k h => ?_) _ (State.storesWf_storeLoc l scope bs h)
    unfold State.touchLine
    dsimp only
    repeat' split
    all_goals first
      | exact State.storesWf_fillL2 _ _ _ _ _ h
      | exact State.storesWf_fillL2 _ _ _ _ _ (State.storesWf_fillLine _ _ _ _ h)
      | exact State.storesWf_fillLine _ _ _ _ h
      | exact h
  · exact State.storesWf_storeLoc l scope bs h

/-- A write of another package that reaches the pool keeps the form, performed or waiting. -/
theorem State.storesWf_poolTry {s : State} (a : Nat) (bs : List Byte) (h : s.storesWf) : (s.poolTry a bs).storesWf := by
  unfold State.poolTry
  split
  · exact ⟨wrBytes_wf a bs h.mem, h.cist, h.spad, h.lines⟩
  · split
    · have hr : ((linesOf a bs.length).foldl (fun s k => s.recallLines (k * 128) 7) s).storesWf :=
        foldl_keeps (P := State.storesWf) (fun _ _ h => State.storesWf_recallLines _ _ h) _ h
      exact ⟨wrBytes_wf a bs hr.mem, hr.cist, hr.spad, hr.lines⟩
    · exact ⟨h.mem, h.cist, h.spad, h.lines⟩

/-- The writes that wait at the pool go on and keep the form. -/
theorem State.storesWf_poolRetry {s : State} (h : s.storesWf) : s.poolRetry.storesWf :=
  foldl_keeps (P := State.storesWf) (fun _ _ h => State.storesWf_poolTry _ _ h) _ ⟨h.mem, h.cist, h.spad, h.lines⟩

/-- A write of another package keeps the form. -/
theorem State.storesWf_poolWrite {s : State} (a : Nat) (bs : List Byte) (h : s.storesWf) : (s.poolWrite a bs).storesWf :=
  State.storesWf_poolTry _ _ (State.storesWf_poolRetry h)

/-- A frame zeroed by the pool keeps the form. -/
theorem State.storesWf_zeroFrame {s : State} (f : Nat) (h : s.storesWf) : (s.zeroFrame f).storesWf :=
  ⟨filter_wf _ h.mem, h.cist, h.spad, h.lines⟩

/-- A completed unit of a scrub phase keeps the form. -/
theorem State.storesWf_clearUnit {s : State} (r phase u : Nat) (h : s.storesWf) : (s.clearUnit r phase u).storesWf := by
  unfold State.clearUnit
  split
  · exact State.storesWf_setCore _ _ (h.spad _) h
  · exact State.storesWf_setCore _ _ (filter_wf _ (h.spad _)) h
  · split
    · exact State.storesWf_setRegion _ _ h
    · exact h
  · exact ⟨h.mem, filter_wf _ h.cist, h.spad, h.lines⟩
  · exact State.storesWf_setRegion _ _ h
  · split
    · exact State.storesWf_setPart _ _ (h.lines _) h
    · exact h
  · exact h

/-- Reset memory is in canonical form. -/
theorem reset_mem_wf : Bytes.wf State.reset.mem = true := rfl

/-- A write at a location changes no byte of its store outside the bytes it writes, and no byte of another store. -/
theorem State.byteAt_writeLoc_outside (s : State) (l : Loc) (bs : List Byte) (ap : Aper) (c x : Nat)
    (hx : sameStore l.aper l.core ap c = true → x < l.addr ∨ l.addr + bs.length ≤ x) :
    (s.writeLoc l bs).byteAt ap c x = s.byteAt ap c x := by
  unfold State.writeLoc
  cases hl : l.aper with
  | spad =>
    cases ap with
    | spad =>
      by_cases hc : l.core = c
      · subst hc
        have := hx (by simp [hl, sameStore])
        simp [State.byteAt, State.core, State.setCore, rd8_wrBytes_outside _ _ this]
      · simp [State.byteAt, State.core, State.setCore, mget_mput_other _ _ _ (Ne.symm hc)]
    | _ => rfl
  | cistern =>
    cases ap with
    | cistern =>
      have := hx (by simp [hl, sameStore])
      simp [State.byteAt, rd8_wrBytes_outside _ _ this]
    | _ => rfl
  | _ =>
    cases ap with
    | spad => rfl
    | cistern => rfl
    | _ =>
      have := hx (by simp [hl, sameStore])
      simp [State.byteAt, State.writeSys, rd8_wrBytes_outside _ _ this]

/-- A write at a location leaves its bytes there. -/
theorem State.byteAt_writeLoc_inside (s : State) (l : Loc) (bs : List Byte) {j : Nat} (hj : j < bs.length) :
    (s.writeLoc l bs).byteAt l.aper l.core (l.addr + j) = bs[j] := by
  unfold State.writeLoc
  cases hl : l.aper <;> simp [State.byteAt, State.writeSys, State.core, State.setCore, rd8_wrBytes_inside _ _ hj]

end Sys2Proof.Machine
end

