-- ==== Sys2Proof/Tests/Slice0.lean ====
section
/-! SUPPORT. Tests: words of the spec's encodings decode, ill-formed terms are refused, concrete states meet the hypotheses
of every statement, clause by clause, and single steps give the results that the rules state. -/

open Sys2Proof Sys2Proof.Machine

namespace Sys2Proof.Tests

/-! ### Helpers -/

/-- A capability with every right over an object of one tile, which system memory holds from 0x10000 on. -/
def tCap : Cap := { w0 := toW (2 ^ 63 + 2 ^ 61 + 2 ^ 60 + 2 ^ 59 + 2 ^ 58), w2 := 65536, w3 := toW loadTtp }

/-- FP32 tiles, s9 = 64, c2 and c3 bound, and a sparsity image ms7. -/
def tCtx : Ctx :=
  { regs := [(9, 64), (40, 64)], ms := [(7, 0x10000000)], caps := [(2, tCap), (3, tCap)],
    tags := (List.range 32).map (fun n => (n, { code := 0, scaled := false })) }

/-- The slot of the tests: a task of the fontanier, at level H. -/
def tSlot : Slot := { loadSlot with ctx := tCtx }

/-- The state of the tests, on the fontanier. -/
def tH : State := (State.reset.load 0).setSlot 64 0 tSlot

/-- The state of the tests with another slot. -/
def onSlot (v : Slot) : State := tH.setSlot 64 0 v

/-- The state of the tests with another context. -/
def onCtx (x : Ctx) : State := onSlot { tSlot with ctx := x }

/-- The state of the tests with these scalar registers. -/
def onRegs (l : List (Nat × Word)) : State := onCtx { tCtx with regs := l }

/-- The state of the tests with these commands queued. -/
def onCmds (l : List Cmd) : State := tH.setCore 64 { tH.core 64 with cmds := l }

/-- The slot whose instruction executes. -/
def cur (s : State) : Slot := (s.slot? s.curCore s.curSlot).getD tSlot

/-- `Issues`, as a computation. -/
def issuesB (s : State) (sl : Slot) (i : Instr) : Bool :=
  decide (s.slot? s.curCore s.curSlot = some sl) && decide (sl.phase = .run) && sl.issues &&
    (match issueCheck s s.curCore sl s.cmdsHere i with
     | .pass => true
     | _ => false)

theorem issues_of {s : State} {sl : Slot} {i : Instr} (h : issuesB s sl i = true) : Issues s sl i := by
  simp only [issuesB, Bool.and_eq_true, decide_eq_true_eq] at h
  refine ⟨h.1.1.1, h.1.1.2, h.1.2, ?_⟩
  have h4 := h.2
  split at h4
  · assumption
  · cases h4

/-- In `s` instruction `i` issues normally for the current slot, and `p` holds. -/
abbrev Meets (s : State) (i : Instr) (p : Prop) [Decidable p] : Prop := (issuesB s (cur s) i && decide p) = true

/-- What a witness below shows: the current slot of `s` meets `Issues` for `i` together with the further hypotheses. -/
theorem Meets.sound {s : State} {i : Instr} {p : Prop} [Decidable p] (h : Meets s i p) : Issues s (cur s) i ∧ p := by
  simp only [Meets, Bool.and_eq_true, decide_eq_true_eq] at h
  exact ⟨issues_of h.1, h.2⟩

/-- Every instruction of the list issues normally for the current slot of `s`. -/
abbrev AllIssue (s : State) (l : List Instr) : Prop := l.all (fun i => issuesB s (cur s) i) = true

/-- A next state. -/
def answers (o : Host.Outcome State Fault Refusal) : Bool :=
  match o with
  | .next _ => true
  | _ => false

/-- A check of an outcome's next state. -/
def after (o : Host.Outcome State Fault Refusal) (p : State → Bool) : Bool :=
  match o with
  | .next s => p s
  | _ => false

/-- The plain ordering fields. -/
def o0 : AccOrd := ⟨0, .plain, 0, 0⟩

set_option maxRecDepth 20000

/-! ### Words of the spec's encodings decode -/

/-- Words of class CTL, each field placed by its format (R48 to R54). -/
def words_ctl : List (Nat × Instr) :=
  [(0x0010000000000000, .nop),
   (0x0021490000000000, .mov 5 9),
   (0x0031492C03000000, .sel 5 9 11 3),
   (0x0041492C00030000, .lea 5 9 11 3),
   (0x005140000A000000, .mfs 5 0x0A),
   (0x006009000A000000, .mts 9 0x0A),
   (0x0100C41400010000, .add 3 4 5 .sat),
   (0x0110C41400020000, .sub 3 4 5 .satu),
   (0x0120C41400000000, .mul 3 4 5 .wrap),
   (0x013FC10800000000, .mulh 63 1 2),
   (0x014FC10C00000000, .mulhu 63 1 3),
   (0x015FC11000000000, .div 63 1 4),
   (0x016FC11400000000, .divu 63 1 5),
   (0x017FC11800000000, .rem 63 1 6),
   (0x018FC11C00000000, .remu 63 1 7),
   (0x019FC12000000000, .min 63 1 8),
   (0x01AFC12400000000, .max 63 1 9),
   (0x01BFC12800000000, .minu 63 1 10),
   (0x01CFC12C00000000, .maxu 63 1 11),
   (0x0201A11C00000000, .and 6 33 7),
   (0x0211A12000000000, .or 6 33 8),
   (0x0221A12400000000, .xor 6 33 9),
   (0x0231A12800000000, .andn 6 33 10),
   (0x0241A12C00000000, .shl 6 33 11),
   (0x0251A13000000000, .shr 6 33 12),
   (0x0261A13400000000, .sra 6 33 13),
   (0x0271A13800000000, .rol 6 33 14),
   (0x0281A10000000000, .clz 6 33),
   (0x0291A20000000000, .ctz 6 34),
   (0x02A1A30000000000, .popc 6 35),
   (0x02B1A40000000000, .brev 6 36),
   (0x02C1870000010000, .sext 6 7 .h),
   (0x02D1870000020000, .zext 6 7 .w),
   (0x03014601FFFFFFFE, .addi 5 6 .sat (-2)),
   (0x0311460000000007, .muli 5 6 .wrap 7),
   (0x0321460080000001, .andi 5 6 0x80000001),
   (0x0331460080000001, .ori 5 6 0x80000001),
   (0x0341460080000001, .xori 5 6 0x80000001),
   (0x035146000000003F, .shli 5 6 63),
   (0x036146000000003F, .shri 5 6 63),
   (0x037146000000003F, .srai 5 6 63),
   (0x03814000FFFFFFFB, .ldi 5 (-5)),
   (0x03914000FFFFFFFF, .ldih 5 0xFFFFFFFF),
   (0x04000518020B0000, .cmp 2 5 6 .ntst),
   (0x0410850200000064, .cmpi 2 5 .lt 100),
   (0x0420470000000000, .kand 1 7 0),
   (0x0430870000000000, .kor 2 7 0),
   (0x0440C70000000000, .kxor 3 7 0),
   (0x0451060000000000, .knot 4 6),
   (0x0460070003000000, .vany 3 7),
   (0x0470000003000000, .vall 3 0),
   (0x05080000FFFFFFFD, .prep 2 (-3)),
   (0x051C009000000000, .prepr 3 9),
   (0x0526800000000000, .br 1 5),
   (0x0536800000000000, .bra 1 5),
   (0x0546800000000000, .call 1 5),
   (0x0553000000000000, .ret 6),
   (0x0580400000005009, .loop 2 0 5 9),
   (0x0595A80300803007, .loopp 1 3 0 2 3 7 0xA3),
   (0x05A1600000000000, .brk 3 2)]

/-- Words of class MEM, each field placed by its format (R48 to R54). -/
def words_mem : List (Nat × Instr) :=
  [(0x10014893698FFFF8, .lds 5 2 9 ⟨3, .acq, 5, 1⟩ .w (-8)),
   (0x101148939F07FFFF, .sts 5 2 9 ⟨3, .rel, 3, 7⟩ .b 524287),
   (0x1021409311D00010, .ldp 5 9 ⟨3, .plain, 2, 1⟩ 16),
   (0x1031409311D00010, .stp 5 9 ⟨3, .plain, 2, 1⟩ 16),
   (0x10417C9311600004, .lde 5 15 9 ⟨3, .plain, 2, 1⟩ .h 4),
   (0x10517C9311E00004, .ste 5 15 9 ⟨3, .plain, 2, 1⟩ .d 4),
   (0x11000833A98C1000, .atom 2 3 ⟨3, .rel, 5, 1⟩ .xchg .d .object 4),
   (0x1112003000991000, .atomf 8 0 3 ⟨0, .plain, 0, 0⟩ .fadd .w .spad 4),
   (0x11220830D80813F0, .acas 8 2 3 ⟨0, .ar, 3, 0⟩ .w .object 4 63),
   (0x1200C40000001234, .capsel 3 4 0x1234),
   (0x1210C41400020000, .capnar 3 4 5 .hi),
   (0x1228440000030000, .capinf 33 4 .attr),
   (0x1230C00000000000, .capclr 3),
   (0x1280E80000080000, .tdset 3 40 .base),
   (0x129A0300000C0000, .tdget 40 3 .ttp),
   (0x12A0C40000000000, .tdcap 3 4),
   (0x13000031056277E0, .pref 3 4 5 6 4 7 31),
   (0x1310003105000443, .hint 3 4 5 2 .stream)]

/-- Words of class ORD, each field placed by its format (R48 to R54). -/
def words_ord : List (Nat × Instr) :=
  [(0x2000000021058001, .fence 0x21 5 0x8001),
   (0x2010000011000000, .fencem 0x11),
   (0x2020000000000000, .joinm),
   (0x2030000000001F2E, .waitc 1 15 2 14),
   (0x2041489358CFFFFF, .waita 5 2 9 ⟨3, .acq, 3, 0⟩ .d .object (-1)),
   (0x208007000F000000, .tokp 15 7),
   (0x2091C0000F000000, .tokg 7 15),
   (0x20A1C00001000000, .tokn 7 1)]

/-- Words of class VEC, each field placed by its format (R48 to R54). -/
def words_vec : List (Nat × Instr) :=
  [(0x30049001C830A068, .vld (.v 4 16) .spad 7 8 ⟨3, .plain, 1, 2⟩ 3 2),
   (0x30149051C830A46A, .vlds (.v 4 16) (.desc 5) 7 8 ⟨3, .plain, 1, 2⟩ 3 2 2),
   (0x30249001C830A068, .vldt (.v 4 16) .spad 7 8 ⟨3, .plain, 1, 2⟩ 3 2),
   (0x30349001C830A068, .vldg (.v 4 16) .spad 7 8 ⟨3, .plain, 1, 2⟩ 3 2),
   (0x304C0151C8300868, .vldc (.q 1) 5 7 8 3 3 2),
   (0x310C0401C838A068, .vst (.q 4) .spad 7 8 ⟨3, .rel, 1, 2⟩ 3 2),
   (0x31109051C838A46B, .vsts (.h 4 16) (.desc 5) 7 8 ⟨3, .rel, 1, 2⟩ 3 2 3),
   (0x31209001C838A068, .vstt (.h 4 16) .spad 7 8 ⟨3, .rel, 1, 2⟩ 3 2),
   (0x31309001C838A068, .vsct (.h 4 16) .spad 7 8 ⟨3, .rel, 1, 2⟩ 3 2),
   (0x3143FE51C8300828, .vstc (.h 31 30) 5 7 8 3 1 2),
   (0x320890110FFF25FC, .vadd (.d 4 16) (.h 8 16) .bcast 9 3 31),
   (0x321890110FFF25FC, .vsub (.d 4 16) (.h 8 16) .bcast 9 3 31),
   (0x322890110FFF25FC, .vmul (.d 4 16) (.h 8 16) .bcast 9 3 31),
   (0x327890110FFF25FC, .vmin (.d 4 16) (.h 8 16) .bcast 9 3 31),
   (0x328890110FFF25FC, .vmax (.d 4 16) (.h 8 16) .bcast 9 3 31),
   (0x333890110FFF25FC, .vand (.d 4 16) (.h 8 16) .bcast 9 3 31),
   (0x334890110FFF25FC, .vor (.d 4 16) (.h 8 16) .bcast 9 3 31),
   (0x335890110FFF25FC, .vxor (.d 4 16) (.h 8 16) .bcast 9 3 31),
   (0x336890110FFF25FC, .vshl (.d 4 16) (.h 8 16) .bcast 9 3 31),
   (0x337890110FFF25FC, .vshr (.d 4 16) (.h 8 16) .bcast 9 3 31),
   (0x338890110FFF25FC, .vsra (.d 4 16) (.h 8 16) .bcast 9 3 31),
   (0x323080C004412584, .vfma (.h 4 0) (.q 0) (.v 2 1) 9 3 1),
   (0x3240E3C00FFF2400, .vfms (.h 7 3) (.q 0) .bcast 9 0 0),
   (0x325090501000019C, .vneg (.h 4 16) (.v 8 1) 0 3 7),
   (0x326090501000019C, .vabs (.h 4 16) (.v 8 1) 0 3 7),
   (0x329090501000019C, .vrcp (.h 4 16) (.v 8 1) 0 3 7),
   (0x32A090501000019C, .vrsq (.h 4 16) (.v 8 1) 0 3 7),
   (0x32B090501000019C, .vexp2 (.h 4 16) (.v 8 1) 0 3 7),
   (0x32C090501000019C, .vlog2 (.h 4 16) (.v 8 1) 0 3 7),
   (0x3300800A00C00089, .viadd (.h 4 0) (.h 5 0) (.h 6 0) 0 1 2 .sat),
   (0x3310800A00C0008A, .visub (.h 4 0) (.h 5 0) (.h 6 0) 0 1 2 .satu),
   (0x3320800A00C00088, .vimul (.h 4 0) (.h 5 0) (.h 6 0) 0 1 2 .wrap),
   (0x3390800A00C00089, .vimin (.h 4 0) (.h 5 0) (.h 6 0) 0 1 2 true),
   (0x33A0800A00C00088, .vimax (.h 4 0) (.h 5 0) (.h 6 0) 0 1 2 false),
   (0x340A050A00C00080, .vcmp 5 .unord (.h 5 0) (.h 6 0) 0 1),
   (0x3416070A0FFF0880, .vicmp 7 .ltu (.h 5 0) .bcast 2 1),
   (0x3420050060070000, .pand 5 6 7),
   (0x3430050060070000, .por 5 6 7),
   (0x3440050060070000, .pxor 5 6 7),
   (0x3450050060000000, .pnot 5 6),
   (0x3460050060000000, .pmov 5 6),
   (0x350080FFF000088C, .vmov (.h 4 0) .bcast 2 1 3),
   (0x3510800A10C2020C, .vsel (.h 4 0) (.h 5 1) (.h 6 2) 0 4 3),
   (0x3520800A1000088C, .vbcst (.h 4 0) (.h 5 1) 2 1 3),
   (0x3530800A10C2008C, .vperm (.h 4 0) (.h 5 1) (.h 6 2) 1 3),
   (0x3540800A10C2088C, .vrmg (.h 4 0) (.h 5 1) (.h 6 2) 2 1 3),
   (0x355080000000088C, .vidx (.h 4 0) 2 1 3),
   (0x3600800A0000008C, .vred (.h 4 0) (.h 5 0) 1 3 .add),
   (0x3610800A0000008D, .vreds (.h 4 0) (.h 5 0) 1 3 .min),
   (0x3620800A0000008E, .vscan (.h 4 0) (.h 5 0) 1 3 .max)]

/-- Words of class CNV, each field placed by its format (R48 to R54). -/
def words_cnv : List (Nat × Instr) :=
  [(0x4000800A01180C8C, .vcvt (.h 4 0) (.h 5 0) ⟨.bf16, .rtz, true⟩ 3 1 3),
   (0x4010800A01D00C8C, .vcvts (.h 4 0) (.h 5 0) ⟨.fp8l, .sto, false⟩ 3 1 3),
   (0x4020800A04C2008E, .vscl (.h 4 0) (.h 5 0) (.v 6 2) 1 3 2),
   (0x4030800A0000008D, .vpack (.h 4 0) (.h 5 0) 1 3 .qtr),
   (0x4040800A0000008C, .vunpk (.h 4 0) (.h 5 0) ⟨.fp32, .rne, false⟩ 1 3),
   (0x4050800A02B0008C, .vqln (.h 4 0) (.h 5 0) ⟨.ln6, .rup, false⟩ 1 3),
   (0x408000001F000028, .ttag 31 .int8 true),
   (0x4091C0001F000000, .ttget 7 31),
   (0x40A00900000000FF, .fmtm 9 0xFF)]

/-- Words of class MTX, each field placed by its format (R48 to R54). -/
def words_mtx : List (Nat × Instr) :=
  [(0x5008DD4322311F00, .mma 17 5 6 40 3 .bf16 .bf16 ⟨3, .plain, 2, 1⟩),
   (0x5018DD4101311700, .mmas 17 5 6 40 1 .fp8l .fp8w ⟨3, .plain, 2, 1⟩ 7),
   (0x5028DD4244311F00, .mmal 17 5 6 40 2 .ln6 .ln6 ⟨3, .plain, 2, 1⟩ none),
   (0x5038DD4033311F00, .mmaz 17 5 6 40 0 .fp16 .fp16 ⟨3, .plain, 2, 1⟩),
   (0x5081C92800020000, .mxsa 7 9 10 .desc),
   (0x5091892800010000, .mxsb 6 9 10 .spad),
   (0x50A1490000030000, .mxsm 5 9 .both),
   (0x50BA000000570000, .mxrd 40 .mbwb 7)]

/-- Words of class XFR, each field placed by its format (R48 to R54). -/
def words_xfr : List (Nat × Instr) :=
  [(0x60020C4154000000, .bget (.cap 2) 3 4 5 20 ⟨0, .plain, 0, 0⟩ .spad),
   (0x60131872150A8800, .bput (.desc 3) 6 7 8 21 ⟨0, .rel, 5, 0⟩),
   (0x60231872153A9100, .bcpy (.object 3) 6 7 8 21 ⟨3, .rel, 5, 1⟩),
   (0x60300072153A90A5, .bfill .spad 7 8 21 ⟨3, .rel, 5, 1⟩ 0xA5),
   (0x60400000153A9000, .xflag 21 ⟨3, .rel, 5, 1⟩),
   (0x60500000153A9000, .bcan 21 ⟨3, .rel, 5, 1⟩),
   (0x61020C41463A9008, .rlpub 2 3 4 5 6 ⟨3, .rel, 5, 1⟩ 8),
   (0x61100C00063A9000, .rlstp 3 6 ⟨3, .rel, 5, 1⟩),
   (0x61200030063A9000, .rlqry 3 6 ⟨3, .rel, 5, 1⟩),
   (0x62000030063A92FF, .cbind 3 6 ⟨3, .rel, 5, 1⟩ .cl 0xFF),
   (0x62100000063A9103, .crel 6 ⟨3, .rel, 5, 1⟩ .cp 3),
   (0x62220C41463A9000, .ccoll 2 3 4 5 6 ⟨3, .rel, 5, 1⟩),
   (0x62320C41463A9100, .ccmp 2 3 4 5 6 ⟨3, .rel, 5, 1⟩ true),
   (0x62420C41463A9000, .cdcp 2 3 4 5 6 ⟨3, .rel, 5, 1⟩ false),
   (0x62500030063A9000, .cstat 3 6 ⟨3, .rel, 5, 1⟩)]

/-- Words of class TSK, each field placed by its format (R48 to R54). -/
def words_tsk : List (Nat × Instr) :=
  [(0x7002831002010000, .tspawn 10 2 3 4 true),
   (0x7012831000000000, .tdep 10 3 4 false),
   (0x7020000000000000, .tend),
   (0x7030000000000000, .ttrig),
   (0x7040000000000000, .tyld),
   (0x7052800000020000, .tself 10 .frame),
   (0x7062831000000000, .tprio 10 3 4),
   (0x71028300000000FF, .gjoin 10 3 255),
   (0x71128300000000FF, .gleave 10 3 255),
   (0x71228300000000FF, .gbar 10 3 255),
   (0x71328300000000FF, .gmem 10 3 255),
   (0x7202831002050000, .tlinc 10 2 3 4 5),
   (0x7212831002050000, .tlset 10 2 3 4 5),
   (0x7222831002050000, .tlwait 10 2 3 4 5),
   (0x7232830002030000, .tlget 10 2 3 3),
   (0x7302831041000000, .resq 10 3 4 65),
   (0x73100310090D0000, .reshint 3 4 9 true 5)]

/-- Words of class SYS, each field placed by its format (R48 to R54). -/
def words_sys : List (Nat × Instr) :=
  [(0x8000030000011234, .trap 3 0x1234 true),
   (0x8010030000020000, .eret 3 .refl),
   (0x8022830048000000, .mfsp 10 3 0x48),
   (0x8030031050000000, .mtsp 3 4 0x50),
   (0x8042831002070000, .ctxsv 10 3 4 2 true 3),
   (0x80528010020A0000, .ctxld 10 4 2 5),
   (0x8061800000060000, .fltinfo 6 0 .leaf),
   (0x8102831000000000, .tlbiv 10 3 4 .tile),
   (0x8112830000010000, .unmap 10 3 true),
   (0x8120000000000000, .mapsync),
   (0x8132800000010000, .cstwin 10 true),
   (0x8402831000000000, .rgnasn 10 3 4),
   (0x8412830000000000, .rgnwin 10 3),
   (0x8422830000000000, .rgnrst 10 3),
   (0x8432890000000000, .scrub 10 9 false),
   (0x8442800000010000, .scrst 10 0 true),
   (0x84548C4402010000, .tokchk 18 12 17 2 true),
   (0x8462830000000000, .keyz 10 3),
   (0x84728300020000FF, .msgf 10 3 2 255),
   (0x8482830002000007, .xenq 10 3 2 7),
   (0x8801490000010000, .lkst 5 9 true),
   (0x8811490000000000, .lkdrn 5 9),
   (0x8821490002000000, .lktop 5 9 2),
   (0x8831490000000000, .lkrsm 5 9),
   (0x8841840000010000, .lsacq 6 4 0 true),
   (0x8851801000000000, .lsrnw 6 4),
   (0x8861800000000000, .lsrel 6),
   (0x8873C00000000000, .lstok 15 .tok),
   (0x8901400000010000, .feat 5 .acc),
   (0x8911030002010000, .errlog 4 3 2 true)]

theorem test_decode_ctl : words_ctl.all (fun p => decodeWord p.1 == some p.2 && encode p.2 == p.1) = true := by decide
theorem test_decode_mem : words_mem.all (fun p => decodeWord p.1 == some p.2 && encode p.2 == p.1) = true := by decide
theorem test_decode_ord : words_ord.all (fun p => decodeWord p.1 == some p.2 && encode p.2 == p.1) = true := by decide
theorem test_decode_vec : words_vec.all (fun p => decodeWord p.1 == some p.2 && encode p.2 == p.1) = true := by decide
theorem test_decode_cnv : words_cnv.all (fun p => decodeWord p.1 == some p.2 && encode p.2 == p.1) = true := by decide
theorem test_decode_mtx : words_mtx.all (fun p => decodeWord p.1 == some p.2 && encode p.2 == p.1) = true := by decide
theorem test_decode_xfr : words_xfr.all (fun p => decodeWord p.1 == some p.2 && encode p.2 == p.1) = true := by decide
theorem test_decode_tsk : words_tsk.all (fun p => decodeWord p.1 == some p.2 && encode p.2 == p.1) = true := by decide
theorem test_decode_sys : words_sys.all (fun p => decodeWord p.1 == some p.2 && encode p.2 == p.1) = true := by decide

/-! ### Ill-formed terms are refused (one for each check of `Instr.wf`, at the first value beyond a field) -/

/-- Instructions of class CTL, each with one field at the first value beyond its range. -/
def bad_ctl_1 : List Instr :=
  [.mov 64 9, .mov 5 64, .sel 64 9 11 3, .sel 5 64 11 3, .sel 5 9 64 3, .sel 5 9 11 8, .lea 64 9 11 3, .lea 5 64 11 3,
    .lea 5 9 64 3, .lea 5 9 11 8, .mfs 64 0x0A, .mfs 5 1024, .mts 64 0x0A, .mts 9 1024, .add 64 4 5 .sat,
    .add 3 64 5 .sat, .add 3 4 64 .sat, .sub 64 4 5 .satu, .sub 3 64 5 .satu, .sub 3 4 64 .satu, .mul 64 4 5 .wrap,
    .mul 3 64 5 .wrap, .mul 3 4 64 .wrap, .mulh 64 1 2, .mulh 63 64 2, .mulh 63 1 64, .mulhu 64 1 3, .mulhu 63 64 3,
    .mulhu 63 1 64, .div 64 1 4, .div 63 64 4, .div 63 1 64, .divu 64 1 5, .divu 63 64 5, .divu 63 1 64, .rem 64 1 6,
    .rem 63 64 6, .rem 63 1 64, .remu 64 1 7, .remu 63 64 7]

/-- Instructions of class CTL, each with one field at the first value beyond its range. -/
def bad_ctl_2 : List Instr :=
  [.remu 63 1 64, .min 64 1 8, .min 63 64 8, .min 63 1 64, .max 64 1 9, .max 63 64 9, .max 63 1 64, .minu 64 1 10,
    .minu 63 64 10, .minu 63 1 64, .maxu 64 1 11, .maxu 63 64 11, .maxu 63 1 64, .and 64 33 7, .and 6 64 7, .and 6 33 64,
    .or 64 33 8, .or 6 64 8, .or 6 33 64, .xor 64 33 9, .xor 6 64 9, .xor 6 33 64, .andn 64 33 10, .andn 6 64 10,
    .andn 6 33 64, .shl 64 33 11, .shl 6 64 11, .shl 6 33 64, .shr 64 33 12, .shr 6 64 12, .shr 6 33 64, .sra 64 33 13,
    .sra 6 64 13, .sra 6 33 64, .rol 64 33 14, .rol 6 64 14, .rol 6 33 64, .clz 64 33, .clz 6 64, .ctz 64 34]

/-- Instructions of class CTL, each with one field at the first value beyond its range. -/
def bad_ctl_3 : List Instr :=
  [.ctz 6 64, .popc 64 35, .popc 6 64, .brev 64 36, .brev 6 64, .sext 64 7 .h, .sext 6 64 .h, .zext 64 7 .w,
    .zext 6 64 .w, .addi 64 6 .sat (-2), .addi 5 64 .sat (-2), .addi 5 6 .sat 2147483648, .muli 64 6 .wrap 7,
    .muli 5 64 .wrap 7, .muli 5 6 .wrap 2147483648, .andi 64 6 0x80000001, .andi 5 64 0x80000001, .andi 5 6 4294967296,
    .ori 64 6 0x80000001, .ori 5 64 0x80000001, .ori 5 6 4294967296, .xori 64 6 0x80000001, .xori 5 64 0x80000001,
    .xori 5 6 4294967296, .shli 64 6 63, .shli 5 64 63, .shli 5 6 64, .shri 64 6 63, .shri 5 64 63, .shri 5 6 64,
    .srai 64 6 63, .srai 5 64 63, .srai 5 6 64, .ldi 64 (-5), .ldi 5 2147483648, .ldih 64 0xFFFFFFFF, .ldih 5 4294967296,
    .cmp 8 5 6 .ntst, .cmp 2 64 6 .ntst, .cmp 2 5 64 .ntst]

/-- Instructions of class CTL, each with one field at the first value beyond its range. -/
def bad_ctl_4 : List Instr :=
  [.cmpi 8 5 .lt 100, .cmpi 2 64 .lt 100, .cmpi 2 5 .lt 2147483648, .kand 8 7 0, .kand 1 8 0, .kand 1 7 8, .kor 8 7 0,
    .kor 2 8 0, .kor 2 7 8, .kxor 8 7 0, .kxor 3 8 0, .kxor 3 7 8, .knot 8 6, .knot 4 8, .vany 8 7, .vany 3 8, .vall 8 0,
    .vall 3 8, .prep 4 (-3), .prep 2 2147483648, .prepr 4 9, .prepr 3 64, .br 4 5, .br 1 8, .bra 4 5, .bra 1 8,
    .call 4 5, .call 1 8, .ret 8, .loop 4 0 5 9, .loop 2 64 5 9, .loop 2 0 1024 9, .loop 2 0 5 4096,
    .loopp 4 3 0 2 3 7 0xA3, .loopp 1 8 0 2 3 7 0xA3, .loopp 1 3 64 2 3 7 0xA3, .loopp 1 3 0 1024 3 7 0xA3,
    .loopp 1 3 0 2 1024 7 0xA3, .loopp 1 3 0 2 3 4096 0xA3, .loopp 1 3 0 2 3 7 512]

/-- Instructions of class CTL, each with one field at the first value beyond its range. -/
def bad_ctl_5 : List Instr :=
  [.brk 4 2, .brk 3 8]

/-- Instructions of class MEM, each with one field at the first value beyond its range. -/
def bad_mem_1 : List Instr :=
  [.lds 64 2 9 ⟨3, .acq, 5, 1⟩ .w (-8), .lds 5 16 9 ⟨3, .acq, 5, 1⟩ .w (-8), .lds 5 2 64 ⟨3, .acq, 5, 1⟩ .w (-8),
    .lds 5 2 9 ⟨16, .acq, 5, 1⟩ .w (-8), .lds 5 2 9 ⟨3, .acq, 8, 1⟩ .w (-8), .lds 5 2 9 ⟨3, .acq, 5, 8⟩ .w (-8),
    .lds 5 2 9 ⟨3, .acq, 5, 1⟩ .w 524288, .sts 64 2 9 ⟨3, .rel, 3, 7⟩ .b 524287, .sts 5 16 9 ⟨3, .rel, 3, 7⟩ .b 524287,
    .sts 5 2 64 ⟨3, .rel, 3, 7⟩ .b 524287, .sts 5 2 9 ⟨16, .rel, 3, 7⟩ .b 524287, .sts 5 2 9 ⟨3, .rel, 8, 7⟩ .b 524287,
    .sts 5 2 9 ⟨3, .rel, 3, 8⟩ .b 524287, .sts 5 2 9 ⟨3, .rel, 3, 7⟩ .b 524288, .ldp 64 9 ⟨3, .plain, 2, 1⟩ 16,
    .ldp 5 64 ⟨3, .plain, 2, 1⟩ 16, .ldp 5 9 ⟨16, .plain, 2, 1⟩ 16, .ldp 5 9 ⟨3, .plain, 8, 1⟩ 16,
    .ldp 5 9 ⟨3, .plain, 2, 8⟩ 16, .ldp 5 9 ⟨3, .plain, 2, 1⟩ 524288, .stp 64 9 ⟨3, .plain, 2, 1⟩ 16,
    .stp 5 64 ⟨3, .plain, 2, 1⟩ 16, .stp 5 9 ⟨16, .plain, 2, 1⟩ 16, .stp 5 9 ⟨3, .plain, 8, 1⟩ 16,
    .stp 5 9 ⟨3, .plain, 2, 8⟩ 16, .stp 5 9 ⟨3, .plain, 2, 1⟩ 524288, .lde 64 15 9 ⟨3, .plain, 2, 1⟩ .h 4,
    .lde 5 16 9 ⟨3, .plain, 2, 1⟩ .h 4, .lde 5 15 64 ⟨3, .plain, 2, 1⟩ .h 4, .lde 5 15 9 ⟨16, .plain, 2, 1⟩ .h 4,
    .lde 5 15 9 ⟨3, .plain, 8, 1⟩ .h 4, .lde 5 15 9 ⟨3, .plain, 2, 8⟩ .h 4, .lde 5 15 9 ⟨3, .plain, 2, 1⟩ .h 524288,
    .ste 64 15 9 ⟨3, .plain, 2, 1⟩ .d 4, .ste 5 16 9 ⟨3, .plain, 2, 1⟩ .d 4, .ste 5 15 64 ⟨3, .plain, 2, 1⟩ .d 4,
    .ste 5 15 9 ⟨16, .plain, 2, 1⟩ .d 4, .ste 5 15 9 ⟨3, .plain, 8, 1⟩ .d 4, .ste 5 15 9 ⟨3, .plain, 2, 8⟩ .d 4,
    .ste 5 15 9 ⟨3, .plain, 2, 1⟩ .d 524288]

/-- Instructions of class MEM, each with one field at the first value beyond its range. -/
def bad_mem_2 : List Instr :=
  [.atom 16 3 ⟨3, .rel, 5, 1⟩ .xchg .d .object 4, .atom 2 64 ⟨3, .rel, 5, 1⟩ .xchg .d .object 4,
    .atom 2 3 ⟨16, .rel, 5, 1⟩ .xchg .d .object 4, .atom 2 3 ⟨3, .rel, 8, 1⟩ .xchg .d .object 4,
    .atom 2 3 ⟨3, .rel, 5, 8⟩ .xchg .d .object 4, .atom 2 3 ⟨3, .rel, 5, 1⟩ .xchg .d .object 64,
    .atomf 64 0 3 ⟨0, .plain, 0, 0⟩ .fadd .w .spad 4, .atomf 8 16 3 ⟨0, .plain, 0, 0⟩ .fadd .w .spad 4,
    .atomf 8 0 64 ⟨0, .plain, 0, 0⟩ .fadd .w .spad 4, .atomf 8 0 3 ⟨16, .plain, 0, 0⟩ .fadd .w .spad 4,
    .atomf 8 0 3 ⟨0, .plain, 8, 0⟩ .fadd .w .spad 4, .atomf 8 0 3 ⟨0, .plain, 0, 8⟩ .fadd .w .spad 4,
    .atomf 8 0 3 ⟨0, .plain, 0, 0⟩ .fadd .w .spad 64, .acas 64 2 3 ⟨0, .ar, 3, 0⟩ .w .object 4 63,
    .acas 8 16 3 ⟨0, .ar, 3, 0⟩ .w .object 4 63, .acas 8 2 64 ⟨0, .ar, 3, 0⟩ .w .object 4 63,
    .acas 8 2 3 ⟨16, .ar, 3, 0⟩ .w .object 4 63, .acas 8 2 3 ⟨0, .ar, 8, 0⟩ .w .object 4 63,
    .acas 8 2 3 ⟨0, .ar, 3, 8⟩ .w .object 4 63, .acas 8 2 3 ⟨0, .ar, 3, 0⟩ .w .object 64 63,
    .acas 8 2 3 ⟨0, .ar, 3, 0⟩ .w .object 4 64, .capsel 16 4 0x1234, .capsel 3 64 0x1234, .capsel 3 4 65536,
    .capnar 16 4 5 .hi, .capnar 3 16 5 .hi, .capnar 3 4 64 .hi, .capinf 64 4 .attr, .capinf 33 16 .attr, .capclr 16,
    .tdset 16 40 .base, .tdset 3 64 .base, .tdget 64 3 .ttp, .tdget 40 16 .ttp, .tdcap 16 4, .tdcap 3 16,
    .pref 16 4 5 6 4 7 31, .pref 3 64 5 6 4 7 31, .pref 3 4 64 6 4 7 31, .pref 3 4 5 16 4 7 31]

/-- Instructions of class MEM, each with one field at the first value beyond its range. -/
def bad_mem_3 : List Instr :=
  [.pref 3 4 5 6 8 7 31, .pref 3 4 5 6 4 8 31, .pref 3 4 5 6 4 7 32, .hint 16 4 5 2 .stream, .hint 3 64 5 2 .stream,
    .hint 3 4 64 2 .stream, .hint 3 4 5 32 .stream]

/-- Instructions of class ORD, each with one field at the first value beyond its range. -/
def bad_ord : List Instr :=
  [.fence 64 5 0x8001, .fence 0x21 8 0x8001, .fence 0x21 5 65536, .fencem 32, .waitc 16 15 2 14, .waitc 1 16 2 14,
    .waitc 1 15 16 14, .waitc 1 15 2 16, .waita 64 2 9 ⟨3, .acq, 3, 0⟩ .d .object (-1),
    .waita 5 16 9 ⟨3, .acq, 3, 0⟩ .d .object (-1), .waita 5 2 64 ⟨3, .acq, 3, 0⟩ .d .object (-1),
    .waita 5 2 9 ⟨16, .acq, 3, 0⟩ .d .object (-1), .waita 5 2 9 ⟨3, .acq, 8, 0⟩ .d .object (-1),
    .waita 5 2 9 ⟨3, .acq, 3, 8⟩ .d .object (-1), .waita 5 2 9 ⟨3, .acq, 3, 0⟩ .d .object 524288, .tokp 16 7,
    .tokp 15 64, .tokg 64 15, .tokg 7 16, .tokn 64 1, .tokn 7 16]

/-- Instructions of class VEC, each with one field at the first value beyond its range. -/
def bad_vec_1 : List Instr :=
  [.vld (.v 32 16) .spad 7 8 ⟨3, .plain, 1, 2⟩ 3 2, .vld (.v 4 32) .spad 7 8 ⟨3, .plain, 1, 2⟩ 3 2,
    .vld (.v 4 16) .spad 64 8 ⟨3, .plain, 1, 2⟩ 3 2, .vld (.v 4 16) .spad 7 64 ⟨3, .plain, 1, 2⟩ 3 2,
    .vld (.v 4 16) .spad 7 8 ⟨16, .plain, 1, 2⟩ 3 2, .vld (.v 4 16) .spad 7 8 ⟨3, .plain, 8, 2⟩ 3 2,
    .vld (.v 4 16) .spad 7 8 ⟨3, .plain, 1, 8⟩ 3 2, .vld (.v 4 16) .spad 7 8 ⟨3, .plain, 1, 2⟩ 32 2,
    .vld (.v 4 16) .spad 7 8 ⟨3, .plain, 1, 2⟩ 3 8, .vlds (.v 32 16) (.desc 5) 7 8 ⟨3, .plain, 1, 2⟩ 3 2 2,
    .vlds (.v 4 32) (.desc 5) 7 8 ⟨3, .plain, 1, 2⟩ 3 2 2, .vlds (.v 4 16) (.desc 16) 7 8 ⟨3, .plain, 1, 2⟩ 3 2 2,
    .vlds (.v 4 16) (.desc 5) 64 8 ⟨3, .plain, 1, 2⟩ 3 2 2, .vlds (.v 4 16) (.desc 5) 7 64 ⟨3, .plain, 1, 2⟩ 3 2 2,
    .vlds (.v 4 16) (.desc 5) 7 8 ⟨16, .plain, 1, 2⟩ 3 2 2, .vlds (.v 4 16) (.desc 5) 7 8 ⟨3, .plain, 8, 2⟩ 3 2 2,
    .vlds (.v 4 16) (.desc 5) 7 8 ⟨3, .plain, 1, 8⟩ 3 2 2, .vlds (.v 4 16) (.desc 5) 7 8 ⟨3, .plain, 1, 2⟩ 32 2 2,
    .vlds (.v 4 16) (.desc 5) 7 8 ⟨3, .plain, 1, 2⟩ 3 8 2, .vlds (.v 4 16) (.desc 5) 7 8 ⟨3, .plain, 1, 2⟩ 3 2 4,
    .vldt (.v 32 16) .spad 7 8 ⟨3, .plain, 1, 2⟩ 3 2, .vldt (.v 4 32) .spad 7 8 ⟨3, .plain, 1, 2⟩ 3 2,
    .vldt (.v 4 16) .spad 64 8 ⟨3, .plain, 1, 2⟩ 3 2, .vldt (.v 4 16) .spad 7 64 ⟨3, .plain, 1, 2⟩ 3 2,
    .vldt (.v 4 16) .spad 7 8 ⟨16, .plain, 1, 2⟩ 3 2, .vldt (.v 4 16) .spad 7 8 ⟨3, .plain, 8, 2⟩ 3 2,
    .vldt (.v 4 16) .spad 7 8 ⟨3, .plain, 1, 8⟩ 3 2, .vldt (.v 4 16) .spad 7 8 ⟨3, .plain, 1, 2⟩ 32 2,
    .vldt (.v 4 16) .spad 7 8 ⟨3, .plain, 1, 2⟩ 3 8, .vldg (.v 32 16) .spad 7 8 ⟨3, .plain, 1, 2⟩ 3 2,
    .vldg (.v 4 32) .spad 7 8 ⟨3, .plain, 1, 2⟩ 3 2, .vldg (.v 4 16) .spad 64 8 ⟨3, .plain, 1, 2⟩ 3 2,
    .vldg (.v 4 16) .spad 7 64 ⟨3, .plain, 1, 2⟩ 3 2, .vldg (.v 4 16) .spad 7 8 ⟨16, .plain, 1, 2⟩ 3 2,
    .vldg (.v 4 16) .spad 7 8 ⟨3, .plain, 8, 2⟩ 3 2, .vldg (.v 4 16) .spad 7 8 ⟨3, .plain, 1, 8⟩ 3 2,
    .vldg (.v 4 16) .spad 7 8 ⟨3, .plain, 1, 2⟩ 32 2, .vldg (.v 4 16) .spad 7 8 ⟨3, .plain, 1, 2⟩ 3 8,
    .vldc (.q 8) 5 7 8 3 3 2, .vldc (.q 1) 16 7 8 3 3 2]

/-- Instructions of class VEC, each with one field at the first value beyond its range. -/
def bad_vec_2 : List Instr :=
  [.vldc (.q 1) 5 64 8 3 3 2, .vldc (.q 1) 5 7 64 3 3 2, .vldc (.q 1) 5 7 8 16 3 2, .vldc (.q 1) 5 7 8 3 32 2,
    .vldc (.q 1) 5 7 8 3 3 8, .vst (.q 8) .spad 7 8 ⟨3, .rel, 1, 2⟩ 3 2, .vst (.q 4) .spad 64 8 ⟨3, .rel, 1, 2⟩ 3 2,
    .vst (.q 4) .spad 7 64 ⟨3, .rel, 1, 2⟩ 3 2, .vst (.q 4) .spad 7 8 ⟨16, .rel, 1, 2⟩ 3 2,
    .vst (.q 4) .spad 7 8 ⟨3, .rel, 8, 2⟩ 3 2, .vst (.q 4) .spad 7 8 ⟨3, .rel, 1, 8⟩ 3 2,
    .vst (.q 4) .spad 7 8 ⟨3, .rel, 1, 2⟩ 32 2, .vst (.q 4) .spad 7 8 ⟨3, .rel, 1, 2⟩ 3 8,
    .vsts (.h 32 16) (.desc 5) 7 8 ⟨3, .rel, 1, 2⟩ 3 2 3, .vsts (.h 4 32) (.desc 5) 7 8 ⟨3, .rel, 1, 2⟩ 3 2 3,
    .vsts (.h 4 16) (.desc 16) 7 8 ⟨3, .rel, 1, 2⟩ 3 2 3, .vsts (.h 4 16) (.desc 5) 64 8 ⟨3, .rel, 1, 2⟩ 3 2 3,
    .vsts (.h 4 16) (.desc 5) 7 64 ⟨3, .rel, 1, 2⟩ 3 2 3, .vsts (.h 4 16) (.desc 5) 7 8 ⟨16, .rel, 1, 2⟩ 3 2 3,
    .vsts (.h 4 16) (.desc 5) 7 8 ⟨3, .rel, 8, 2⟩ 3 2 3, .vsts (.h 4 16) (.desc 5) 7 8 ⟨3, .rel, 1, 8⟩ 3 2 3,
    .vsts (.h 4 16) (.desc 5) 7 8 ⟨3, .rel, 1, 2⟩ 32 2 3, .vsts (.h 4 16) (.desc 5) 7 8 ⟨3, .rel, 1, 2⟩ 3 8 3,
    .vsts (.h 4 16) (.desc 5) 7 8 ⟨3, .rel, 1, 2⟩ 3 2 4, .vstt (.h 32 16) .spad 7 8 ⟨3, .rel, 1, 2⟩ 3 2,
    .vstt (.h 4 32) .spad 7 8 ⟨3, .rel, 1, 2⟩ 3 2, .vstt (.h 4 16) .spad 64 8 ⟨3, .rel, 1, 2⟩ 3 2,
    .vstt (.h 4 16) .spad 7 64 ⟨3, .rel, 1, 2⟩ 3 2, .vstt (.h 4 16) .spad 7 8 ⟨16, .rel, 1, 2⟩ 3 2,
    .vstt (.h 4 16) .spad 7 8 ⟨3, .rel, 8, 2⟩ 3 2, .vstt (.h 4 16) .spad 7 8 ⟨3, .rel, 1, 8⟩ 3 2,
    .vstt (.h 4 16) .spad 7 8 ⟨3, .rel, 1, 2⟩ 32 2, .vstt (.h 4 16) .spad 7 8 ⟨3, .rel, 1, 2⟩ 3 8,
    .vsct (.h 32 16) .spad 7 8 ⟨3, .rel, 1, 2⟩ 3 2, .vsct (.h 4 32) .spad 7 8 ⟨3, .rel, 1, 2⟩ 3 2,
    .vsct (.h 4 16) .spad 64 8 ⟨3, .rel, 1, 2⟩ 3 2, .vsct (.h 4 16) .spad 7 64 ⟨3, .rel, 1, 2⟩ 3 2,
    .vsct (.h 4 16) .spad 7 8 ⟨16, .rel, 1, 2⟩ 3 2, .vsct (.h 4 16) .spad 7 8 ⟨3, .rel, 8, 2⟩ 3 2,
    .vsct (.h 4 16) .spad 7 8 ⟨3, .rel, 1, 8⟩ 3 2]

/-- Instructions of class VEC, each with one field at the first value beyond its range. -/
def bad_vec_3 : List Instr :=
  [.vsct (.h 4 16) .spad 7 8 ⟨3, .rel, 1, 2⟩ 32 2, .vsct (.h 4 16) .spad 7 8 ⟨3, .rel, 1, 2⟩ 3 8,
    .vstc (.h 32 30) 5 7 8 3 1 2, .vstc (.h 31 32) 5 7 8 3 1 2, .vstc (.h 31 30) 16 7 8 3 1 2,
    .vstc (.h 31 30) 5 64 8 3 1 2, .vstc (.h 31 30) 5 7 64 3 1 2, .vstc (.h 31 30) 5 7 8 16 1 2,
    .vstc (.h 31 30) 5 7 8 3 32 2, .vstc (.h 31 30) 5 7 8 3 1 8, .vadd (.d 32 16) (.h 8 16) .bcast 9 3 31,
    .vadd (.d 4 32) (.h 8 16) .bcast 9 3 31, .vadd (.d 4 16) (.h 32 16) .bcast 9 3 31,
    .vadd (.d 4 16) (.h 8 32) .bcast 9 3 31, .vadd (.d 4 16) (.h 8 16) .bcast 64 3 31,
    .vadd (.d 4 16) (.h 8 16) .bcast 9 8 31, .vadd (.d 4 16) (.h 8 16) .bcast 9 3 32,
    .vsub (.d 32 16) (.h 8 16) .bcast 9 3 31, .vsub (.d 4 32) (.h 8 16) .bcast 9 3 31,
    .vsub (.d 4 16) (.h 32 16) .bcast 9 3 31, .vsub (.d 4 16) (.h 8 32) .bcast 9 3 31,
    .vsub (.d 4 16) (.h 8 16) .bcast 64 3 31, .vsub (.d 4 16) (.h 8 16) .bcast 9 8 31,
    .vsub (.d 4 16) (.h 8 16) .bcast 9 3 32, .vmul (.d 32 16) (.h 8 16) .bcast 9 3 31,
    .vmul (.d 4 32) (.h 8 16) .bcast 9 3 31, .vmul (.d 4 16) (.h 32 16) .bcast 9 3 31,
    .vmul (.d 4 16) (.h 8 32) .bcast 9 3 31, .vmul (.d 4 16) (.h 8 16) .bcast 64 3 31,
    .vmul (.d 4 16) (.h 8 16) .bcast 9 8 31, .vmul (.d 4 16) (.h 8 16) .bcast 9 3 32,
    .vmin (.d 32 16) (.h 8 16) .bcast 9 3 31, .vmin (.d 4 32) (.h 8 16) .bcast 9 3 31,
    .vmin (.d 4 16) (.h 32 16) .bcast 9 3 31, .vmin (.d 4 16) (.h 8 32) .bcast 9 3 31,
    .vmin (.d 4 16) (.h 8 16) .bcast 64 3 31, .vmin (.d 4 16) (.h 8 16) .bcast 9 8 31,
    .vmin (.d 4 16) (.h 8 16) .bcast 9 3 32, .vmax (.d 32 16) (.h 8 16) .bcast 9 3 31,
    .vmax (.d 4 32) (.h 8 16) .bcast 9 3 31]

/-- Instructions of class VEC, each with one field at the first value beyond its range. -/
def bad_vec_4 : List Instr :=
  [.vmax (.d 4 16) (.h 32 16) .bcast 9 3 31, .vmax (.d 4 16) (.h 8 32) .bcast 9 3 31,
    .vmax (.d 4 16) (.h 8 16) .bcast 64 3 31, .vmax (.d 4 16) (.h 8 16) .bcast 9 8 31,
    .vmax (.d 4 16) (.h 8 16) .bcast 9 3 32, .vand (.d 32 16) (.h 8 16) .bcast 9 3 31,
    .vand (.d 4 32) (.h 8 16) .bcast 9 3 31, .vand (.d 4 16) (.h 32 16) .bcast 9 3 31,
    .vand (.d 4 16) (.h 8 32) .bcast 9 3 31, .vand (.d 4 16) (.h 8 16) .bcast 64 3 31,
    .vand (.d 4 16) (.h 8 16) .bcast 9 8 31, .vand (.d 4 16) (.h 8 16) .bcast 9 3 32,
    .vor (.d 32 16) (.h 8 16) .bcast 9 3 31, .vor (.d 4 32) (.h 8 16) .bcast 9 3 31,
    .vor (.d 4 16) (.h 32 16) .bcast 9 3 31, .vor (.d 4 16) (.h 8 32) .bcast 9 3 31,
    .vor (.d 4 16) (.h 8 16) .bcast 64 3 31, .vor (.d 4 16) (.h 8 16) .bcast 9 8 31,
    .vor (.d 4 16) (.h 8 16) .bcast 9 3 32, .vxor (.d 32 16) (.h 8 16) .bcast 9 3 31,
    .vxor (.d 4 32) (.h 8 16) .bcast 9 3 31, .vxor (.d 4 16) (.h 32 16) .bcast 9 3 31,
    .vxor (.d 4 16) (.h 8 32) .bcast 9 3 31, .vxor (.d 4 16) (.h 8 16) .bcast 64 3 31,
    .vxor (.d 4 16) (.h 8 16) .bcast 9 8 31, .vxor (.d 4 16) (.h 8 16) .bcast 9 3 32,
    .vshl (.d 32 16) (.h 8 16) .bcast 9 3 31, .vshl (.d 4 32) (.h 8 16) .bcast 9 3 31,
    .vshl (.d 4 16) (.h 32 16) .bcast 9 3 31, .vshl (.d 4 16) (.h 8 32) .bcast 9 3 31,
    .vshl (.d 4 16) (.h 8 16) .bcast 64 3 31, .vshl (.d 4 16) (.h 8 16) .bcast 9 8 31,
    .vshl (.d 4 16) (.h 8 16) .bcast 9 3 32, .vshr (.d 32 16) (.h 8 16) .bcast 9 3 31,
    .vshr (.d 4 32) (.h 8 16) .bcast 9 3 31, .vshr (.d 4 16) (.h 32 16) .bcast 9 3 31,
    .vshr (.d 4 16) (.h 8 32) .bcast 9 3 31, .vshr (.d 4 16) (.h 8 16) .bcast 64 3 31,
    .vshr (.d 4 16) (.h 8 16) .bcast 9 8 31, .vshr (.d 4 16) (.h 8 16) .bcast 9 3 32]

/-- Instructions of class VEC, each with one field at the first value beyond its range. -/
def bad_vec_5 : List Instr :=
  [.vsra (.d 32 16) (.h 8 16) .bcast 9 3 31, .vsra (.d 4 32) (.h 8 16) .bcast 9 3 31,
    .vsra (.d 4 16) (.h 32 16) .bcast 9 3 31, .vsra (.d 4 16) (.h 8 32) .bcast 9 3 31,
    .vsra (.d 4 16) (.h 8 16) .bcast 64 3 31, .vsra (.d 4 16) (.h 8 16) .bcast 9 8 31,
    .vsra (.d 4 16) (.h 8 16) .bcast 9 3 32, .vfma (.h 32 0) (.q 0) (.v 2 1) 9 3 1,
    .vfma (.h 4 32) (.q 0) (.v 2 1) 9 3 1, .vfma (.h 4 0) (.q 8) (.v 2 1) 9 3 1, .vfma (.h 4 0) (.q 0) (.v 32 1) 9 3 1,
    .vfma (.h 4 0) (.q 0) (.v 2 32) 9 3 1, .vfma (.h 4 0) (.q 0) (.v 2 1) 64 3 1, .vfma (.h 4 0) (.q 0) (.v 2 1) 9 8 1,
    .vfma (.h 4 0) (.q 0) (.v 2 1) 9 3 32, .vfms (.h 32 3) (.q 0) .bcast 9 0 0, .vfms (.h 7 32) (.q 0) .bcast 9 0 0,
    .vfms (.h 7 3) (.q 8) .bcast 9 0 0, .vfms (.h 7 3) (.q 0) .bcast 64 0 0, .vfms (.h 7 3) (.q 0) .bcast 9 8 0,
    .vfms (.h 7 3) (.q 0) .bcast 9 0 32, .vneg (.h 32 16) (.v 8 1) 0 3 7, .vneg (.h 4 32) (.v 8 1) 0 3 7,
    .vneg (.h 4 16) (.v 32 1) 0 3 7, .vneg (.h 4 16) (.v 8 32) 0 3 7, .vneg (.h 4 16) (.v 8 1) 64 3 7,
    .vneg (.h 4 16) (.v 8 1) 0 8 7, .vneg (.h 4 16) (.v 8 1) 0 3 32, .vabs (.h 32 16) (.v 8 1) 0 3 7,
    .vabs (.h 4 32) (.v 8 1) 0 3 7, .vabs (.h 4 16) (.v 32 1) 0 3 7, .vabs (.h 4 16) (.v 8 32) 0 3 7,
    .vabs (.h 4 16) (.v 8 1) 64 3 7, .vabs (.h 4 16) (.v 8 1) 0 8 7, .vabs (.h 4 16) (.v 8 1) 0 3 32,
    .vrcp (.h 32 16) (.v 8 1) 0 3 7, .vrcp (.h 4 32) (.v 8 1) 0 3 7, .vrcp (.h 4 16) (.v 32 1) 0 3 7,
    .vrcp (.h 4 16) (.v 8 32) 0 3 7, .vrcp (.h 4 16) (.v 8 1) 64 3 7]

/-- Instructions of class VEC, each with one field at the first value beyond its range. -/
def bad_vec_6 : List Instr :=
  [.vrcp (.h 4 16) (.v 8 1) 0 8 7, .vrcp (.h 4 16) (.v 8 1) 0 3 32, .vrsq (.h 32 16) (.v 8 1) 0 3 7,
    .vrsq (.h 4 32) (.v 8 1) 0 3 7, .vrsq (.h 4 16) (.v 32 1) 0 3 7, .vrsq (.h 4 16) (.v 8 32) 0 3 7,
    .vrsq (.h 4 16) (.v 8 1) 64 3 7, .vrsq (.h 4 16) (.v 8 1) 0 8 7, .vrsq (.h 4 16) (.v 8 1) 0 3 32,
    .vexp2 (.h 32 16) (.v 8 1) 0 3 7, .vexp2 (.h 4 32) (.v 8 1) 0 3 7, .vexp2 (.h 4 16) (.v 32 1) 0 3 7,
    .vexp2 (.h 4 16) (.v 8 32) 0 3 7, .vexp2 (.h 4 16) (.v 8 1) 64 3 7, .vexp2 (.h 4 16) (.v 8 1) 0 8 7,
    .vexp2 (.h 4 16) (.v 8 1) 0 3 32, .vlog2 (.h 32 16) (.v 8 1) 0 3 7, .vlog2 (.h 4 32) (.v 8 1) 0 3 7,
    .vlog2 (.h 4 16) (.v 32 1) 0 3 7, .vlog2 (.h 4 16) (.v 8 32) 0 3 7, .vlog2 (.h 4 16) (.v 8 1) 64 3 7,
    .vlog2 (.h 4 16) (.v 8 1) 0 8 7, .vlog2 (.h 4 16) (.v 8 1) 0 3 32, .viadd (.h 32 0) (.h 5 0) (.h 6 0) 0 1 2 .sat,
    .viadd (.h 4 32) (.h 5 0) (.h 6 0) 0 1 2 .sat, .viadd (.h 4 0) (.h 32 0) (.h 6 0) 0 1 2 .sat,
    .viadd (.h 4 0) (.h 5 32) (.h 6 0) 0 1 2 .sat, .viadd (.h 4 0) (.h 5 0) (.h 32 0) 0 1 2 .sat,
    .viadd (.h 4 0) (.h 5 0) (.h 6 32) 0 1 2 .sat, .viadd (.h 4 0) (.h 5 0) (.h 6 0) 64 1 2 .sat,
    .viadd (.h 4 0) (.h 5 0) (.h 6 0) 0 8 2 .sat, .viadd (.h 4 0) (.h 5 0) (.h 6 0) 0 1 32 .sat,
    .visub (.h 32 0) (.h 5 0) (.h 6 0) 0 1 2 .satu, .visub (.h 4 32) (.h 5 0) (.h 6 0) 0 1 2 .satu,
    .visub (.h 4 0) (.h 32 0) (.h 6 0) 0 1 2 .satu, .visub (.h 4 0) (.h 5 32) (.h 6 0) 0 1 2 .satu,
    .visub (.h 4 0) (.h 5 0) (.h 32 0) 0 1 2 .satu, .visub (.h 4 0) (.h 5 0) (.h 6 32) 0 1 2 .satu,
    .visub (.h 4 0) (.h 5 0) (.h 6 0) 64 1 2 .satu, .visub (.h 4 0) (.h 5 0) (.h 6 0) 0 8 2 .satu]

/-- Instructions of class VEC, each with one field at the first value beyond its range. -/
def bad_vec_7 : List Instr :=
  [.visub (.h 4 0) (.h 5 0) (.h 6 0) 0 1 32 .satu, .vimul (.h 32 0) (.h 5 0) (.h 6 0) 0 1 2 .wrap,
    .vimul (.h 4 32) (.h 5 0) (.h 6 0) 0 1 2 .wrap, .vimul (.h 4 0) (.h 32 0) (.h 6 0) 0 1 2 .wrap,
    .vimul (.h 4 0) (.h 5 32) (.h 6 0) 0 1 2 .wrap, .vimul (.h 4 0) (.h 5 0) (.h 32 0) 0 1 2 .wrap,
    .vimul (.h 4 0) (.h 5 0) (.h 6 32) 0 1 2 .wrap, .vimul (.h 4 0) (.h 5 0) (.h 6 0) 64 1 2 .wrap,
    .vimul (.h 4 0) (.h 5 0) (.h 6 0) 0 8 2 .wrap, .vimul (.h 4 0) (.h 5 0) (.h 6 0) 0 1 32 .wrap,
    .vimin (.h 32 0) (.h 5 0) (.h 6 0) 0 1 2 true, .vimin (.h 4 32) (.h 5 0) (.h 6 0) 0 1 2 true,
    .vimin (.h 4 0) (.h 32 0) (.h 6 0) 0 1 2 true, .vimin (.h 4 0) (.h 5 32) (.h 6 0) 0 1 2 true,
    .vimin (.h 4 0) (.h 5 0) (.h 32 0) 0 1 2 true, .vimin (.h 4 0) (.h 5 0) (.h 6 32) 0 1 2 true,
    .vimin (.h 4 0) (.h 5 0) (.h 6 0) 64 1 2 true, .vimin (.h 4 0) (.h 5 0) (.h 6 0) 0 8 2 true,
    .vimin (.h 4 0) (.h 5 0) (.h 6 0) 0 1 32 true, .vimax (.h 32 0) (.h 5 0) (.h 6 0) 0 1 2 false,
    .vimax (.h 4 32) (.h 5 0) (.h 6 0) 0 1 2 false, .vimax (.h 4 0) (.h 32 0) (.h 6 0) 0 1 2 false,
    .vimax (.h 4 0) (.h 5 32) (.h 6 0) 0 1 2 false, .vimax (.h 4 0) (.h 5 0) (.h 32 0) 0 1 2 false,
    .vimax (.h 4 0) (.h 5 0) (.h 6 32) 0 1 2 false, .vimax (.h 4 0) (.h 5 0) (.h 6 0) 64 1 2 false,
    .vimax (.h 4 0) (.h 5 0) (.h 6 0) 0 8 2 false, .vimax (.h 4 0) (.h 5 0) (.h 6 0) 0 1 32 false,
    .vcmp 8 .unord (.h 5 0) (.h 6 0) 0 1, .vcmp 5 .unord (.h 32 0) (.h 6 0) 0 1, .vcmp 5 .unord (.h 5 32) (.h 6 0) 0 1,
    .vcmp 5 .unord (.h 5 0) (.h 32 0) 0 1, .vcmp 5 .unord (.h 5 0) (.h 6 32) 0 1, .vcmp 5 .unord (.h 5 0) (.h 6 0) 64 1,
    .vcmp 5 .unord (.h 5 0) (.h 6 0) 0 8, .vicmp 8 .ltu (.h 5 0) .bcast 2 1, .vicmp 7 .ltu (.h 32 0) .bcast 2 1,
    .vicmp 7 .ltu (.h 5 32) .bcast 2 1, .vicmp 7 .ltu (.h 5 0) .bcast 64 1, .vicmp 7 .ltu (.h 5 0) .bcast 2 8]

/-- Instructions of class VEC, each with one field at the first value beyond its range. -/
def bad_vec_8 : List Instr :=
  [.pand 8 6 7, .pand 5 8 7, .pand 5 6 8, .por 8 6 7, .por 5 8 7, .por 5 6 8, .pxor 8 6 7, .pxor 5 8 7, .pxor 5 6 8,
    .pnot 8 6, .pnot 5 8, .pmov 8 6, .pmov 5 8, .vmov (.h 32 0) .bcast 2 1 3, .vmov (.h 4 32) .bcast 2 1 3,
    .vmov (.h 4 0) .bcast 64 1 3, .vmov (.h 4 0) .bcast 2 8 3, .vmov (.h 4 0) .bcast 2 1 32,
    .vsel (.h 32 0) (.h 5 1) (.h 6 2) 0 4 3, .vsel (.h 4 32) (.h 5 1) (.h 6 2) 0 4 3,
    .vsel (.h 4 0) (.h 32 1) (.h 6 2) 0 4 3, .vsel (.h 4 0) (.h 5 32) (.h 6 2) 0 4 3,
    .vsel (.h 4 0) (.h 5 1) (.h 32 2) 0 4 3, .vsel (.h 4 0) (.h 5 1) (.h 6 32) 0 4 3,
    .vsel (.h 4 0) (.h 5 1) (.h 6 2) 64 4 3, .vsel (.h 4 0) (.h 5 1) (.h 6 2) 0 8 3,
    .vsel (.h 4 0) (.h 5 1) (.h 6 2) 0 4 32, .vbcst (.h 32 0) (.h 5 1) 2 1 3, .vbcst (.h 4 32) (.h 5 1) 2 1 3,
    .vbcst (.h 4 0) (.h 32 1) 2 1 3, .vbcst (.h 4 0) (.h 5 32) 2 1 3, .vbcst (.h 4 0) (.h 5 1) 64 1 3,
    .vbcst (.h 4 0) (.h 5 1) 2 8 3, .vbcst (.h 4 0) (.h 5 1) 2 1 32, .vperm (.h 32 0) (.h 5 1) (.h 6 2) 1 3,
    .vperm (.h 4 32) (.h 5 1) (.h 6 2) 1 3, .vperm (.h 4 0) (.h 32 1) (.h 6 2) 1 3,
    .vperm (.h 4 0) (.h 5 32) (.h 6 2) 1 3, .vperm (.h 4 0) (.h 5 1) (.h 32 2) 1 3, .vperm (.h 4 0) (.h 5 1) (.h 6 32) 1 3]

/-- Instructions of class VEC, each with one field at the first value beyond its range. -/
def bad_vec_9 : List Instr :=
  [.vperm (.h 4 0) (.h 5 1) (.h 6 2) 8 3, .vperm (.h 4 0) (.h 5 1) (.h 6 2) 1 32,
    .vrmg (.h 32 0) (.h 5 1) (.h 6 2) 2 1 3, .vrmg (.h 4 32) (.h 5 1) (.h 6 2) 2 1 3,
    .vrmg (.h 4 0) (.h 32 1) (.h 6 2) 2 1 3, .vrmg (.h 4 0) (.h 5 32) (.h 6 2) 2 1 3,
    .vrmg (.h 4 0) (.h 5 1) (.h 32 2) 2 1 3, .vrmg (.h 4 0) (.h 5 1) (.h 6 32) 2 1 3,
    .vrmg (.h 4 0) (.h 5 1) (.h 6 2) 64 1 3, .vrmg (.h 4 0) (.h 5 1) (.h 6 2) 2 8 3,
    .vrmg (.h 4 0) (.h 5 1) (.h 6 2) 2 1 32, .vidx (.h 32 0) 2 1 3, .vidx (.h 4 32) 2 1 3, .vidx (.h 4 0) 64 1 3,
    .vidx (.h 4 0) 2 8 3, .vidx (.h 4 0) 2 1 32, .vred (.h 32 0) (.h 5 0) 1 3 .add, .vred (.h 4 32) (.h 5 0) 1 3 .add,
    .vred (.h 4 0) (.h 32 0) 1 3 .add, .vred (.h 4 0) (.h 5 32) 1 3 .add, .vred (.h 4 0) (.h 5 0) 8 3 .add,
    .vred (.h 4 0) (.h 5 0) 1 32 .add, .vreds (.h 32 0) (.h 5 0) 1 3 .min, .vreds (.h 4 32) (.h 5 0) 1 3 .min,
    .vreds (.h 4 0) (.h 32 0) 1 3 .min, .vreds (.h 4 0) (.h 5 32) 1 3 .min, .vreds (.h 4 0) (.h 5 0) 8 3 .min,
    .vreds (.h 4 0) (.h 5 0) 1 32 .min, .vscan (.h 32 0) (.h 5 0) 1 3 .max, .vscan (.h 4 32) (.h 5 0) 1 3 .max,
    .vscan (.h 4 0) (.h 32 0) 1 3 .max, .vscan (.h 4 0) (.h 5 32) 1 3 .max, .vscan (.h 4 0) (.h 5 0) 8 3 .max,
    .vscan (.h 4 0) (.h 5 0) 1 32 .max]

/-- Instructions of class CNV, each with one field at the first value beyond its range. -/
def bad_cnv_1 : List Instr :=
  [.vcvt (.h 32 0) (.h 5 0) ⟨.bf16, .rtz, true⟩ 3 1 3, .vcvt (.h 4 32) (.h 5 0) ⟨.bf16, .rtz, true⟩ 3 1 3,
    .vcvt (.h 4 0) (.h 32 0) ⟨.bf16, .rtz, true⟩ 3 1 3, .vcvt (.h 4 0) (.h 5 32) ⟨.bf16, .rtz, true⟩ 3 1 3,
    .vcvt (.h 4 0) (.h 5 0) ⟨.bf16, .rtz, true⟩ 64 1 3, .vcvt (.h 4 0) (.h 5 0) ⟨.bf16, .rtz, true⟩ 3 8 3,
    .vcvt (.h 4 0) (.h 5 0) ⟨.bf16, .rtz, true⟩ 3 1 32, .vcvts (.h 32 0) (.h 5 0) ⟨.fp8l, .sto, false⟩ 3 1 3,
    .vcvts (.h 4 32) (.h 5 0) ⟨.fp8l, .sto, false⟩ 3 1 3, .vcvts (.h 4 0) (.h 32 0) ⟨.fp8l, .sto, false⟩ 3 1 3,
    .vcvts (.h 4 0) (.h 5 32) ⟨.fp8l, .sto, false⟩ 3 1 3, .vcvts (.h 4 0) (.h 5 0) ⟨.fp8l, .sto, false⟩ 64 1 3,
    .vcvts (.h 4 0) (.h 5 0) ⟨.fp8l, .sto, false⟩ 3 8 3, .vcvts (.h 4 0) (.h 5 0) ⟨.fp8l, .sto, false⟩ 3 1 32,
    .vscl (.h 32 0) (.h 5 0) (.v 6 2) 1 3 2, .vscl (.h 4 32) (.h 5 0) (.v 6 2) 1 3 2,
    .vscl (.h 4 0) (.h 32 0) (.v 6 2) 1 3 2, .vscl (.h 4 0) (.h 5 32) (.v 6 2) 1 3 2,
    .vscl (.h 4 0) (.h 5 0) (.v 32 2) 1 3 2, .vscl (.h 4 0) (.h 5 0) (.v 6 32) 1 3 2,
    .vscl (.h 4 0) (.h 5 0) (.v 6 2) 8 3 2, .vscl (.h 4 0) (.h 5 0) (.v 6 2) 1 32 2,
    .vscl (.h 4 0) (.h 5 0) (.v 6 2) 1 3 4, .vpack (.h 32 0) (.h 5 0) 1 3 .qtr, .vpack (.h 4 32) (.h 5 0) 1 3 .qtr,
    .vpack (.h 4 0) (.h 32 0) 1 3 .qtr, .vpack (.h 4 0) (.h 5 32) 1 3 .qtr, .vpack (.h 4 0) (.h 5 0) 8 3 .qtr,
    .vpack (.h 4 0) (.h 5 0) 1 32 .qtr, .vunpk (.h 32 0) (.h 5 0) ⟨.fp32, .rne, false⟩ 1 3,
    .vunpk (.h 4 32) (.h 5 0) ⟨.fp32, .rne, false⟩ 1 3, .vunpk (.h 4 0) (.h 32 0) ⟨.fp32, .rne, false⟩ 1 3,
    .vunpk (.h 4 0) (.h 5 32) ⟨.fp32, .rne, false⟩ 1 3, .vunpk (.h 4 0) (.h 5 0) ⟨.fp32, .rne, false⟩ 8 3,
    .vunpk (.h 4 0) (.h 5 0) ⟨.fp32, .rne, false⟩ 1 32, .vqln (.h 32 0) (.h 5 0) ⟨.ln6, .rup, false⟩ 1 3,
    .vqln (.h 4 32) (.h 5 0) ⟨.ln6, .rup, false⟩ 1 3, .vqln (.h 4 0) (.h 32 0) ⟨.ln6, .rup, false⟩ 1 3,
    .vqln (.h 4 0) (.h 5 32) ⟨.ln6, .rup, false⟩ 1 3, .vqln (.h 4 0) (.h 5 0) ⟨.ln6, .rup, false⟩ 8 3]

/-- Instructions of class CNV, each with one field at the first value beyond its range. -/
def bad_cnv_2 : List Instr :=
  [.vqln (.h 4 0) (.h 5 0) ⟨.ln6, .rup, false⟩ 1 32, .ttag 32 .int8 true, .ttget 64 31, .ttget 7 32, .fmtm 64 0xFF,
    .fmtm 9 256]

/-- Instructions of class MTX, each with one field at the first value beyond its range. -/
def bad_mtx_1 : List Instr :=
  [.mma 32 5 6 40 3 .bf16 .bf16 ⟨3, .plain, 2, 1⟩, .mma 17 8 6 40 3 .bf16 .bf16 ⟨3, .plain, 2, 1⟩,
    .mma 17 5 8 40 3 .bf16 .bf16 ⟨3, .plain, 2, 1⟩, .mma 17 5 6 64 3 .bf16 .bf16 ⟨3, .plain, 2, 1⟩,
    .mma 17 5 6 40 4 .bf16 .bf16 ⟨3, .plain, 2, 1⟩, .mma 17 5 6 40 3 .bf16 .bf16 ⟨16, .plain, 2, 1⟩,
    .mma 17 5 6 40 3 .bf16 .bf16 ⟨3, .plain, 8, 1⟩, .mma 17 5 6 40 3 .bf16 .bf16 ⟨3, .plain, 2, 8⟩,
    .mmas 32 5 6 40 1 .fp8l .fp8w ⟨3, .plain, 2, 1⟩ 7, .mmas 17 8 6 40 1 .fp8l .fp8w ⟨3, .plain, 2, 1⟩ 7,
    .mmas 17 5 8 40 1 .fp8l .fp8w ⟨3, .plain, 2, 1⟩ 7, .mmas 17 5 6 64 1 .fp8l .fp8w ⟨3, .plain, 2, 1⟩ 7,
    .mmas 17 5 6 40 4 .fp8l .fp8w ⟨3, .plain, 2, 1⟩ 7, .mmas 17 5 6 40 1 .fp8l .fp8w ⟨16, .plain, 2, 1⟩ 7,
    .mmas 17 5 6 40 1 .fp8l .fp8w ⟨3, .plain, 8, 1⟩ 7, .mmas 17 5 6 40 1 .fp8l .fp8w ⟨3, .plain, 2, 8⟩ 7,
    .mmas 17 5 6 40 1 .fp8l .fp8w ⟨3, .plain, 2, 1⟩ 8, .mmal 32 5 6 40 2 .ln6 .ln6 ⟨3, .plain, 2, 1⟩ none,
    .mmal 17 8 6 40 2 .ln6 .ln6 ⟨3, .plain, 2, 1⟩ none, .mmal 17 5 8 40 2 .ln6 .ln6 ⟨3, .plain, 2, 1⟩ none,
    .mmal 17 5 6 64 2 .ln6 .ln6 ⟨3, .plain, 2, 1⟩ none, .mmal 17 5 6 40 4 .ln6 .ln6 ⟨3, .plain, 2, 1⟩ none,
    .mmal 17 5 6 40 2 .ln6 .ln6 ⟨16, .plain, 2, 1⟩ none, .mmal 17 5 6 40 2 .ln6 .ln6 ⟨3, .plain, 8, 1⟩ none,
    .mmal 17 5 6 40 2 .ln6 .ln6 ⟨3, .plain, 2, 8⟩ none, .mmaz 32 5 6 40 0 .fp16 .fp16 ⟨3, .plain, 2, 1⟩,
    .mmaz 17 8 6 40 0 .fp16 .fp16 ⟨3, .plain, 2, 1⟩, .mmaz 17 5 8 40 0 .fp16 .fp16 ⟨3, .plain, 2, 1⟩,
    .mmaz 17 5 6 64 0 .fp16 .fp16 ⟨3, .plain, 2, 1⟩, .mmaz 17 5 6 40 4 .fp16 .fp16 ⟨3, .plain, 2, 1⟩,
    .mmaz 17 5 6 40 0 .fp16 .fp16 ⟨16, .plain, 2, 1⟩, .mmaz 17 5 6 40 0 .fp16 .fp16 ⟨3, .plain, 8, 1⟩,
    .mmaz 17 5 6 40 0 .fp16 .fp16 ⟨3, .plain, 2, 8⟩, .mxsa 8 9 10 .desc, .mxsa 7 64 10 .desc, .mxsa 7 9 64 .desc,
    .mxsb 8 9 10 .spad, .mxsb 6 64 10 .spad, .mxsb 6 9 64 .spad, .mxsm 8 9 .both]

/-- Instructions of class MTX, each with one field at the first value beyond its range. -/
def bad_mtx_2 : List Instr :=
  [.mxsm 5 64 .both, .mxrd 64 .mbwb 7, .mxrd 40 .mbwb 16]

/-- Instructions of class XFR, each with one field at the first value beyond its range. -/
def bad_xfr_1 : List Instr :=
  [.bget (.cap 16) 3 4 5 20 ⟨0, .plain, 0, 0⟩ .spad, .bget (.cap 2) 64 4 5 20 ⟨0, .plain, 0, 0⟩ .spad,
    .bget (.cap 2) 3 64 5 20 ⟨0, .plain, 0, 0⟩ .spad, .bget (.cap 2) 3 4 64 20 ⟨0, .plain, 0, 0⟩ .spad,
    .bget (.cap 2) 3 4 5 64 ⟨0, .plain, 0, 0⟩ .spad, .bget (.cap 2) 3 4 5 20 ⟨16, .plain, 0, 0⟩ .spad,
    .bget (.cap 2) 3 4 5 20 ⟨0, .plain, 8, 0⟩ .spad, .bget (.cap 2) 3 4 5 20 ⟨0, .plain, 0, 8⟩ .spad,
    .bput (.desc 16) 6 7 8 21 ⟨0, .rel, 5, 0⟩, .bput (.desc 3) 64 7 8 21 ⟨0, .rel, 5, 0⟩,
    .bput (.desc 3) 6 64 8 21 ⟨0, .rel, 5, 0⟩, .bput (.desc 3) 6 7 64 21 ⟨0, .rel, 5, 0⟩,
    .bput (.desc 3) 6 7 8 64 ⟨0, .rel, 5, 0⟩, .bput (.desc 3) 6 7 8 21 ⟨16, .rel, 5, 0⟩,
    .bput (.desc 3) 6 7 8 21 ⟨0, .rel, 8, 0⟩, .bput (.desc 3) 6 7 8 21 ⟨0, .rel, 5, 8⟩,
    .bcpy (.object 16) 6 7 8 21 ⟨3, .rel, 5, 1⟩, .bcpy (.object 3) 64 7 8 21 ⟨3, .rel, 5, 1⟩,
    .bcpy (.object 3) 6 64 8 21 ⟨3, .rel, 5, 1⟩, .bcpy (.object 3) 6 7 64 21 ⟨3, .rel, 5, 1⟩,
    .bcpy (.object 3) 6 7 8 64 ⟨3, .rel, 5, 1⟩, .bcpy (.object 3) 6 7 8 21 ⟨16, .rel, 5, 1⟩,
    .bcpy (.object 3) 6 7 8 21 ⟨3, .rel, 8, 1⟩, .bcpy (.object 3) 6 7 8 21 ⟨3, .rel, 5, 8⟩,
    .bfill .spad 64 8 21 ⟨3, .rel, 5, 1⟩ 0xA5, .bfill .spad 7 64 21 ⟨3, .rel, 5, 1⟩ 0xA5,
    .bfill .spad 7 8 64 ⟨3, .rel, 5, 1⟩ 0xA5, .bfill .spad 7 8 21 ⟨16, .rel, 5, 1⟩ 0xA5,
    .bfill .spad 7 8 21 ⟨3, .rel, 8, 1⟩ 0xA5, .bfill .spad 7 8 21 ⟨3, .rel, 5, 8⟩ 0xA5,
    .bfill .spad 7 8 21 ⟨3, .rel, 5, 1⟩ 256, .xflag 64 ⟨3, .rel, 5, 1⟩, .xflag 21 ⟨16, .rel, 5, 1⟩,
    .xflag 21 ⟨3, .rel, 8, 1⟩, .xflag 21 ⟨3, .rel, 5, 8⟩, .bcan 64 ⟨3, .rel, 5, 1⟩, .bcan 21 ⟨16, .rel, 5, 1⟩,
    .bcan 21 ⟨3, .rel, 8, 1⟩, .bcan 21 ⟨3, .rel, 5, 8⟩, .rlpub 16 3 4 5 6 ⟨3, .rel, 5, 1⟩ 8]

/-- Instructions of class XFR, each with one field at the first value beyond its range. -/
def bad_xfr_2 : List Instr :=
  [.rlpub 2 64 4 5 6 ⟨3, .rel, 5, 1⟩ 8, .rlpub 2 3 64 5 6 ⟨3, .rel, 5, 1⟩ 8, .rlpub 2 3 4 64 6 ⟨3, .rel, 5, 1⟩ 8,
    .rlpub 2 3 4 5 64 ⟨3, .rel, 5, 1⟩ 8, .rlpub 2 3 4 5 6 ⟨16, .rel, 5, 1⟩ 8, .rlpub 2 3 4 5 6 ⟨3, .rel, 8, 1⟩ 8,
    .rlpub 2 3 4 5 6 ⟨3, .rel, 5, 8⟩ 8, .rlpub 2 3 4 5 6 ⟨3, .rel, 5, 1⟩ 256, .rlstp 64 6 ⟨3, .rel, 5, 1⟩,
    .rlstp 3 64 ⟨3, .rel, 5, 1⟩, .rlstp 3 6 ⟨16, .rel, 5, 1⟩, .rlstp 3 6 ⟨3, .rel, 8, 1⟩, .rlstp 3 6 ⟨3, .rel, 5, 8⟩,
    .rlqry 64 6 ⟨3, .rel, 5, 1⟩, .rlqry 3 64 ⟨3, .rel, 5, 1⟩, .rlqry 3 6 ⟨16, .rel, 5, 1⟩, .rlqry 3 6 ⟨3, .rel, 8, 1⟩,
    .rlqry 3 6 ⟨3, .rel, 5, 8⟩, .cbind 64 6 ⟨3, .rel, 5, 1⟩ .cl 0xFF, .cbind 3 64 ⟨3, .rel, 5, 1⟩ .cl 0xFF,
    .cbind 3 6 ⟨16, .rel, 5, 1⟩ .cl 0xFF, .cbind 3 6 ⟨3, .rel, 8, 1⟩ .cl 0xFF, .cbind 3 6 ⟨3, .rel, 5, 8⟩ .cl 0xFF,
    .cbind 3 6 ⟨3, .rel, 5, 1⟩ .cl 256, .crel 64 ⟨3, .rel, 5, 1⟩ .cp 3, .crel 6 ⟨16, .rel, 5, 1⟩ .cp 3,
    .crel 6 ⟨3, .rel, 8, 1⟩ .cp 3, .crel 6 ⟨3, .rel, 5, 8⟩ .cp 3, .crel 6 ⟨3, .rel, 5, 1⟩ .cp 256,
    .ccoll 16 3 4 5 6 ⟨3, .rel, 5, 1⟩, .ccoll 2 64 4 5 6 ⟨3, .rel, 5, 1⟩, .ccoll 2 3 64 5 6 ⟨3, .rel, 5, 1⟩,
    .ccoll 2 3 4 64 6 ⟨3, .rel, 5, 1⟩, .ccoll 2 3 4 5 64 ⟨3, .rel, 5, 1⟩, .ccoll 2 3 4 5 6 ⟨16, .rel, 5, 1⟩,
    .ccoll 2 3 4 5 6 ⟨3, .rel, 8, 1⟩, .ccoll 2 3 4 5 6 ⟨3, .rel, 5, 8⟩, .ccmp 16 3 4 5 6 ⟨3, .rel, 5, 1⟩ true,
    .ccmp 2 64 4 5 6 ⟨3, .rel, 5, 1⟩ true, .ccmp 2 3 64 5 6 ⟨3, .rel, 5, 1⟩ true]

/-- Instructions of class XFR, each with one field at the first value beyond its range. -/
def bad_xfr_3 : List Instr :=
  [.ccmp 2 3 4 64 6 ⟨3, .rel, 5, 1⟩ true, .ccmp 2 3 4 5 64 ⟨3, .rel, 5, 1⟩ true, .ccmp 2 3 4 5 6 ⟨16, .rel, 5, 1⟩ true,
    .ccmp 2 3 4 5 6 ⟨3, .rel, 8, 1⟩ true, .ccmp 2 3 4 5 6 ⟨3, .rel, 5, 8⟩ true, .cdcp 16 3 4 5 6 ⟨3, .rel, 5, 1⟩ false,
    .cdcp 2 64 4 5 6 ⟨3, .rel, 5, 1⟩ false, .cdcp 2 3 64 5 6 ⟨3, .rel, 5, 1⟩ false,
    .cdcp 2 3 4 64 6 ⟨3, .rel, 5, 1⟩ false, .cdcp 2 3 4 5 64 ⟨3, .rel, 5, 1⟩ false,
    .cdcp 2 3 4 5 6 ⟨16, .rel, 5, 1⟩ false, .cdcp 2 3 4 5 6 ⟨3, .rel, 8, 1⟩ false, .cdcp 2 3 4 5 6 ⟨3, .rel, 5, 8⟩ false,
    .cstat 64 6 ⟨3, .rel, 5, 1⟩, .cstat 3 64 ⟨3, .rel, 5, 1⟩, .cstat 3 6 ⟨16, .rel, 5, 1⟩, .cstat 3 6 ⟨3, .rel, 8, 1⟩,
    .cstat 3 6 ⟨3, .rel, 5, 8⟩]

/-- Instructions of class TSK, each with one field at the first value beyond its range. -/
def bad_tsk_1 : List Instr :=
  [.tspawn 64 2 3 4 true, .tspawn 10 16 3 4 true, .tspawn 10 2 64 4 true, .tspawn 10 2 3 64 true, .tdep 64 3 4 false,
    .tdep 10 64 4 false, .tdep 10 3 64 false, .tself 64 .frame, .tprio 64 3 4, .tprio 10 64 4, .tprio 10 3 64,
    .gjoin 64 3 255, .gjoin 10 64 255, .gjoin 10 3 65536, .gleave 64 3 255, .gleave 10 64 255, .gleave 10 3 65536,
    .gbar 64 3 255, .gbar 10 64 255, .gbar 10 3 65536, .gmem 64 3 255, .gmem 10 64 255, .gmem 10 3 65536,
    .tlinc 64 2 3 4 5, .tlinc 10 16 3 4 5, .tlinc 10 2 64 4 5, .tlinc 10 2 3 64 5, .tlinc 10 2 3 4 8, .tlset 64 2 3 4 5,
    .tlset 10 16 3 4 5, .tlset 10 2 64 4 5, .tlset 10 2 3 64 5, .tlset 10 2 3 4 8, .tlwait 64 2 3 4 5,
    .tlwait 10 16 3 4 5, .tlwait 10 2 64 4 5, .tlwait 10 2 3 64 5, .tlwait 10 2 3 4 8, .tlget 64 2 3 3, .tlget 10 16 3 3]

/-- Instructions of class TSK, each with one field at the first value beyond its range. -/
def bad_tsk_2 : List Instr :=
  [.tlget 10 2 64 3, .tlget 10 2 3 8, .resq 64 3 4 65, .resq 10 64 4 65, .resq 10 3 64 65, .resq 10 3 4 128,
    .reshint 64 4 9 true 5, .reshint 3 64 9 true 5, .reshint 3 4 128 true 5, .reshint 3 4 9 true 8]

/-- Instructions of class SYS, each with one field at the first value beyond its range. -/
def bad_sys_1 : List Instr :=
  [.trap 64 0x1234 true, .trap 3 65536 true, .eret 64 .refl, .mfsp 64 3 0x48, .mfsp 10 64 0x48, .mfsp 10 3 1024,
    .mtsp 64 4 0x50, .mtsp 3 64 0x50, .mtsp 3 4 1024, .ctxsv 64 3 4 2 true 3, .ctxsv 10 64 4 2 true 3,
    .ctxsv 10 3 64 2 true 3, .ctxsv 10 3 4 16 true 3, .ctxsv 10 3 4 2 true 8, .ctxld 64 4 2 5, .ctxld 10 64 2 5,
    .ctxld 10 4 16 5, .ctxld 10 4 2 8, .fltinfo 64 0 .leaf, .fltinfo 6 64 .leaf, .tlbiv 64 3 4 .tile,
    .tlbiv 10 64 4 .tile, .tlbiv 10 3 64 .tile, .unmap 64 3 true, .unmap 10 64 true, .cstwin 64 true, .rgnasn 64 3 4,
    .rgnasn 10 64 4, .rgnasn 10 3 64, .rgnwin 64 3, .rgnwin 10 64, .rgnrst 64 3, .rgnrst 10 64, .scrub 64 9 false,
    .scrub 10 64 false, .scrst 64 0 true, .scrst 10 64 true, .tokchk 64 12 17 2 true, .tokchk 18 64 17 2 true,
    .tokchk 18 12 64 2 true]

/-- Instructions of class SYS, each with one field at the first value beyond its range. -/
def bad_sys_2 : List Instr :=
  [.tokchk 18 12 17 16 true, .keyz 64 3, .keyz 10 64, .msgf 64 3 2 255, .msgf 10 64 2 255, .msgf 10 3 16 255,
    .msgf 10 3 2 256, .xenq 64 3 2 7, .xenq 10 64 2 7, .xenq 10 3 16 7, .xenq 10 3 2 256, .lkst 64 9 true,
    .lkst 5 64 true, .lkdrn 64 9, .lkdrn 5 64, .lktop 64 9 2, .lktop 5 64 2, .lktop 5 9 16, .lkrsm 64 9, .lkrsm 5 64,
    .lsacq 64 4 0 true, .lsacq 6 64 0 true, .lsacq 6 4 64 true, .lsrnw 64 4, .lsrnw 6 64, .lsrel 64, .lstok 64 .tok,
    .feat 64 .acc, .errlog 64 3 2 true, .errlog 4 64 2 true, .errlog 4 3 16 true]

theorem test_wf_refuses_ctl : (bad_ctl_1 ++ bad_ctl_2 ++ bad_ctl_3 ++ bad_ctl_4 ++ bad_ctl_5).all (fun i => !i.wf) = true := by decide
theorem test_wf_refuses_mem : (bad_mem_1 ++ bad_mem_2 ++ bad_mem_3).all (fun i => !i.wf) = true := by decide
theorem test_wf_refuses_ord : bad_ord.all (fun i => !i.wf) = true := by decide
theorem test_wf_refuses_vec : (bad_vec_1 ++ bad_vec_2 ++ bad_vec_3 ++ bad_vec_4 ++ bad_vec_5 ++ bad_vec_6 ++ bad_vec_7 ++ bad_vec_8 ++ bad_vec_9).all (fun i => !i.wf) = true := by decide
theorem test_wf_refuses_cnv : (bad_cnv_1 ++ bad_cnv_2).all (fun i => !i.wf) = true := by decide
theorem test_wf_refuses_mtx : (bad_mtx_1 ++ bad_mtx_2).all (fun i => !i.wf) = true := by decide
theorem test_wf_refuses_xfr : (bad_xfr_1 ++ bad_xfr_2 ++ bad_xfr_3).all (fun i => !i.wf) = true := by decide
theorem test_wf_refuses_tsk : (bad_tsk_1 ++ bad_tsk_2).all (fun i => !i.wf) = true := by decide
theorem test_wf_refuses_sys : (bad_sys_1 ++ bad_sys_2).all (fun i => !i.wf) = true := by decide
theorem test_wf_refuses_events :
    ([.loadDataReturn 65 3 0, .loadDataReturn 64 4 0, .postedAccessAck 65 3 0, .postedAccessAck 64 4 0,
      .markerRetire 65 3 .va, .markerRetire 64 4 .va, .waitaRepoll 65 3, .waitaRepoll 64 4, .tokenEntry 65 3,
      .tokenEntry 64 4, .sluiceReservationGrant 65 15, .sluiceReservationGrant 64 16, .vlStep 65 3, .vlStep 64 4,
      .vsStep 65 3, .vsStep 64 4, .vaStep 65 3, .vaStep 64 4, .mxStep 65 2, .mxStep 64 3, .mxCommandStart 65,
      .xfPayloadStep 65 0, .xfSingleStep 65 0, .flagStep 65 0, .rillFetch 65, .tlwaitRetest 65 1, .dispatchDecision 65,
      .preemptionRequest 65 3, .preemptionRequest 64 4, .drainLimitExpiry 65 3, .drainLimitExpiry 64 4, .sliceExpiry 65 3,
      .sliceExpiry 64 4, .frameSlotFreed 65 3, .frameSlotFreed 64 4, .translationLeaseExpiry 66, .regionResetRelease 64,
      .quiesceComplete 64, .scrubPhaseComplete 64, .drainComplete 48, .trainingAttemptSuccess 48, .trainingAttemptFail 48,
      .retuneComplete 48, .retuneFail 48, .lossOfSignal 48, .linkRetryExhausted 48, .heldRequestTimeout 65 3 1,
      .heldRequestTimeout 64 4 1, .requestOutcomeTimeout 65 3 1, .requestOutcomeTimeout 64 4 1, .retryStatus 65 3 1,
      .retryStatus 64 4 1, .staleAnswer 65 3 .vs, .staleAnswer 64 4 .vs, .readLeaseExpiry 64 1, .joinAccepted 256,
      .leaseGrant 64 1 1, .lsacqWaitTimeout 64, .stepLeaseExpiry 64, .inboundPeerRequest 0 9 .read,
      .tokchkCommand .pf 256 1, .tokget .pf 256 1, .launch (.vf 64) 1 1 1 1, .repair (.vf 64) [], .accept (.vf 64) 1,
      .keyset (.vf 64) 1 1 1, .pubkey (.vf 64), .readlog (.vf 64), .unlistedCommandCode (.vf 64) 1, .junctionThrottle 4,
      .junctionShutdown 4, .junctionCooled 4, .inboundPeerRequest 0 0 .read] : List Instr).all (fun i => !i.wf) = true := by decide
theorem test_wf_refuses_bindingExpiry (k : EngKind) : (Instr.bindingExpiry k k.units).wf = false := by simp [Instr.wf]

/-! ### Witnesses: a concrete state and operands that meet the hypotheses of each statement, clause by clause -/

theorem wit_EncodeThenDecode :
    ((Instr.feat 63 .lock).wf = true ∧ (Instr.feat 63 .lock).isWbas = true ∧ (Instr.feat 63 .lock).staticFault = none) ∧
    ((Instr.cmp 0 63 63 .ntst).wf = true ∧ (Instr.cmp 0 63 63 .ntst).isWbas = true ∧ (Instr.cmp 0 63 63 .ntst).staticFault = some 0x02) := by
  decide

theorem wit_DecodeThenEncode :
    decodeWord 0x8901400000010000 = some (.feat 5 .acc) ∧ 9 ≤ fld 0x9000000000000000 60 4 ∧ 9 ≤ fld 0xFFFFFFFFFFFFFFFF 60 4 := by
  decide

/-- A value that comes with no fault. -/
def okE {α : Type} (e : Except FaultRec α) : Bool :=
  match e with
  | .ok _ => true
  | .error _ => false

/-- The target of the fetch in the test states. -/
def fetched (s : State) : Target := ((objAccess s 64 64 loadCap 0 8 8 kFetch).toOption).getD { aper := .system, addr := 0 }

/-- The word that slot 0 of the fontanier fetches. -/
def fetchWord (s : State) (sl : Slot) : Option Nat :=
  match s.fetch 64 sl with
  | .ok (w, _) => some w
  | .error _ => none

/-- A loaded word, and the state after its turn was taken from the agenda. -/
def tTurn (w : Nat) : State := { State.reset.load w with agenda := [] }

/-- The same with the line of the word in the instruction cache, and with it uncorrectable in memory. -/
def tCached : State :=
  (tTurn 0).setCore 64 { (tTurn 0).core 64 with icache := [{ aper := (fetched tH).aper, line := (fetched tH).addr / 128, data := 7 }] }

theorem wit_StepRunsTheDecodedInstruction :
    -- by the agenda, and with an empty one; a word that decodes, and one that does not
    ((State.reset.load 0x8901400000010000).off = false ∧ (State.reset.load 0x8901400000010000).agenda = [⟨0, .issue 64 0⟩] ∧
      ((State.reset.load 0x8901400000010000).core 64).mayIssue 0 = true ∧ (tTurn 0x8901400000010000).slot? 64 0 = some loadSlot ∧
      loadSlot.issues = true ∧ fetchWord (tTurn 0x8901400000010000) loadSlot = some 0x8901400000010000 ∧
      decodeWord 0x8901400000010000 = some (.feat 5 .acc)) ∧
    ((tTurn 0).nextIssue = some (64, 0) ∧ (tTurn 0).slot? 64 0 = some loadSlot ∧ fetchWord (tTurn 0) loadSlot = some 0 ∧ decodeWord 0 = none) ∧
    -- a fetch whose checks fail: a fault that dispatch left, and an offset beyond the code object
    ({ loadSlot with first := some { code := 0x07, addr := 0 } } : Slot).issues = true ∧
    (loadSlot.first = none ∧ okE (objAccess tH 64 64 loadCap 65536 8 8 kFetch) = false) ∧
    -- a line that the instruction cache holds, one that memory fills, and one that is uncorrectable
    okE (objAccess tCached 64 64 loadCap 0 8 8 kFetch) = true ∧
    (tCached.core 64).icache.any (fun l => l.aper == (fetched tH).aper && l.line == (fetched tH).addr / 128) = true ∧
    (((tTurn 0).core 64).icache = [] ∧ (tTurn 0).lineStop 64 loadSlot (fetchPiece loadSlot (fetched tH)) = none) ∧
    ({ tTurn 0 with memErr := [(fetched tH).addr / 8 + 3] }.lineStop 64 loadSlot (fetchPiece loadSlot (fetched tH))).isSome = true ∧
    ((List.replicate 128 (0 : Byte)).length = 128 ∧ 120 % 8 = 0 ∧ 120 < 128) := by
  decide +kernel

theorem wit_NoInstructionStops :
    tH.slot? tH.curCore tH.curSlot = some tSlot ∧ (Instr.vidx (.h 31 31) 63 7 0).wf = true ∧ Instr.packageReset.wf = true := by decide

theorem wit_StoresStayCanonical : tH.storesWf ∧ answers (step tH) = true := by
  refine ⟨⟨by decide, by decide +kernel, fun c => ?_, fun p => ?_⟩, by decide +kernel⟩
  by_cases h : c = 64
  · subst h; decide
  · have : (tH.core c).spad = ([] : Bytes) := by
      show (mget {} tH.cores c).spad = []
      have e : tH.cores.map (fun p => p.1) = [64] := by decide
      match hc : tH.cores, e with
      | [(64, v)], _ => simp [mget, h]
    rw [this]; rfl
  · have e : tH.parts.all (fun x => x.2.lines.isEmpty) = true := by decide
    have all : ∀ m : Map Part, m.all (fun x => x.2.lines.isEmpty) = true → (mget {} m p).lines = [] := by
      intro m h
      induction m with
      | nil => rfl
      | cons x m ih =>
        simp only [List.all_cons, Bool.and_eq_true, List.isEmpty_iff] at h
        simp only [mget]
        split
        · exact h.1
        · exact ih h.2
    have : (tH.part p).lines = [] := all _ e
    rw [this]; exact List.nodup_nil

theorem wit_OffUntilPackageReset :
    { State.reset with off := true }.off = true ∧ answers (step { State.reset with off := true }) = true ∧
    answers (step { State.reset with off := true, agenda := [{ act := .event .packageReset }] }) = true := by
  decide

/-- s1 holds the most negative number, s2 minus one, s3 zero. -/
def tDiv : State := onRegs [(1, 0x8000000000000000), (2, 0xFFFFFFFFFFFFFFFF)]

theorem wit_ArithmeticResults :
    AllIssue tDiv [.add 5 1 2 .wrap, .sub 5 1 2 .sat, .mul 5 1 2 .satu, .addi 5 1 .sat (-2147483648), .muli 5 1 .satu 2147483647,
      .mulh 63 1 2, .mulhu 0 1 2, .div 5 1 3, .divu 5 1 3, .rem 5 1 3, .remu 5 1 3] ∧
    Meets tDiv (.div 5 1 2) ((cur tDiv).ctx.reg 1 = BitVec.intMin 64 ∧ (cur tDiv).ctx.reg 2 = BitVec.allOnes 64) ∧
    Meets tDiv (.rem 5 1 2) ((cur tDiv).ctx.reg 1 = BitVec.intMin 64 ∧ (cur tDiv).ctx.reg 2 = BitVec.allOnes 64) := by
  decide

theorem wit_RegisterResults :
    AllIssue tDiv [.min 5 1 2, .max 5 1 2, .minu 5 1 2, .maxu 5 1 2, .and 5 1 2, .or 5 1 2, .xor 5 1 2, .andn 5 1 2, .shl 5 1 2, .shr 5 1 2,
      .sra 5 1 2, .rol 5 1 2, .andi 5 1 4294967295, .ori 5 1 0, .xori 0 1 1, .shli 5 1 0, .shli 5 1 63, .shri 5 1 63, .srai 5 1 63, .nop,
      .mov 5 1, .sel 5 1 2 0, .sel 5 1 2 7, .lea 5 1 2 7, .clz 5 3, .ctz 5 3, .popc 5 2, .brev 5 1, .sext 5 1 .b, .sext 5 1 .w, .zext 5 2 .h,
      .ldi 5 (-2147483648), .ldih 5 4294967295] ∧ (0 : Nat) < 64 ∧ (63 : Nat) < 64 ∧ (7 : Nat) < 8 ∧ (4294967295 : Nat) < 2 ^ 32 := by
  decide

/-- A VA command of the test slot that writes p7, in a LOOPP segment or not. -/
def toP7 (inPipe : Bool) : Cmd := { eng := .va, slot := 0, seq := 1, instr := .pnot 7 1, inPipe := inPipe }

/-- A LOOPP around the word at 0 in its kernel. -/
def tPipe : Pipe := { lc := 1, depth := 1, off := 0, p := 1, k := 4, e := 1, seg := .kernel, iter := 0, pushes := [0, 0, 0, 0, 0] }

/-- The test slot inside that LOOPP, at its second kernel word. -/
def tInPipe : Slot := { tSlot with ctx := { tCtx with pipe := some tPipe, pc := 24, lc := [(1, 3)] } }

theorem wit_ConditionResults :
    AllIssue tH [.cmp 7 9 40 .ntst, .cmpi 1 9 .tst (-2147483648), .kand 7 1 2, .kor 7 0 0, .kxor 7 1 2, .knot 7 7] ∧
    AllIssue tH [.vany 1 0, .vall 7 7] ∧ tH.cmdsHere.filter (fun c => c.eng == .va && !c.marker && c.instr.predOut.contains 7) = [] ∧
    Meets (onCmds [toP7 false]) (.vany 1 0) (cur tH = cur tH) ∧
    (∀ i ∈ [Instr.vany 1 7, .vall 1 7], Meets (onCmds [toP7 false]) i
      ((onCmds [toP7 false]).cmdsHere.filter (fun c => c.eng == .va && !c.marker && c.instr.predOut.contains 7) ≠ [])) ∧
    (∀ i ∈ [Instr.vany 1 7, .vall 1 7], Meets (onCmds [toP7 true] |>.setSlot 64 0 tInPipe) i
      ((onCmds [toP7 true]).cmdsHere.any (fun c => tInPipe.ctx.pipe.any (fun q => c.inPipe && c.seg == q.iter)) = true)) := by
  decide

/-- The 40 scalar instructions of R116 to R120, with destination `d`. -/
def scalars (d : Nat) : List Instr :=
  [.mov d 1, .sel d 1 2 3, .lea d 1 2 7, .add d 1 2 .wrap, .sub d 1 2 .sat, .mul d 1 2 .satu, .mulh d 1 2, .mulhu d 1 2, .div d 1 3,
    .divu d 1 2, .rem d 1 2, .remu d 1 3, .min d 1 2, .max d 1 2, .minu d 1 2, .maxu d 1 2, .and d 1 2, .or d 1 2, .xor d 1 2, .andn d 1 2] ++
  [.shl d 1 2, .shr d 1 2, .sra d 1 2, .rol d 1 2, .clz d 1, .ctz d 1, .popc d 1, .brev d 1, .sext d 1 .b, .zext d 1 .w, .addi d 1 .sat 1,
    .muli d 1 .satu (-1), .andi d 1 7, .ori d 1 7, .xori d 1 7, .shli d 1 63, .shri d 1 63, .srai d 1 63, .ldi d (-1), .ldih d 1]

theorem wit_FrameOfRegisterInstructions :
    AllIssue tDiv (scalars 0) ∧ AllIssue tDiv (scalars 63) ∧ (scalars 0).all (fun i => i.scalarTarget == some 0) = true ∧
    (scalars 63).all (fun i => i.scalarTarget == some 63 && answers (exec i tDiv)) = true ∧ (cur tDiv).ctx.loops = [] := by
  decide

/-! ### The states of guests and of a package with a pool -/

/-- A package with one conduit UP, a map, and the pool joined. -/
def tLinks : Links :=
  { conduits := [(0, { state := .up })], firstRsm := true, topo := some { seq := 1, nsm1 := 0, masks := [(0, 1)] }, joinSent := [0], joined := [0] }

/-- A leaf with the rights X, W and R for a page of an aperture: 0 POOL, 1 LOCAL, 2 PEER, 3 CISTERN (R309). -/
def leafOf (aper spn : Nat) : Nat := 2 ^ 63 + aper * 2 ^ 61 + 7 * 2 ^ 57 + spn

/-- Partition 5, with the task of `loadTask` as its own, a key in slot 0, translation on, and room for tasks and frames. -/
def tPart : Part :=
  { s2tb := 0x8000000000000000, keys := [(0, some { key := 1 })], captn := 2, cqsize := 4, frmcnt := 4, nextId := 2,
    tasks := [{ loadTask with part := 5, core := 3 }] }

/-- Region 3, OWNED by partition 5; its caches hold a translation of guest page 0 to a page of an aperture, and of the first
tile of `tCap`. -/
def tRegion (leaf : Nat) : Region :=
  { state := .owned, part := 5, nestTlb := [{ k0 := 5, k1 := 0, val := leaf, aux := 0x3000, till := 1000000000 }],
    tileTlb := [{ k0 := tileKey 5 loadTtp, k1 := 0, val := 0x10000, till := 1000000000 }] }

/-- A slot of partition 5 with a window of 4,096 bytes at 0x2000. -/
def gSlot (sup : Bool) : Slot := { tSlot with part := 5, sup := sup, winBase := 0x2000, winSize := 4096 }

/-- A guest slot `v` on core 3, with a leaf for its page. -/
def guest (leaf : Nat) (v : Slot) : State :=
  { (tH.setSlot 3 0 v).setRegion 3 (tRegion leaf) with curCore := 3, links := tLinks, parts := (5, tPart) :: tH.parts }

/-- A guest task at level S whose page is in the pool. -/
def tG : State := guest (leafOf 0 9) (gSlot true)

/-- A guest task at level U. -/
def tU : State := guest (leafOf 0 9) (gSlot false)

/-- The test slot with HSEL 5. -/
def tH5 : State := { tH.setSlot 64 0 { tSlot with hsel := 5 } with parts := (5, tPart) :: tH.parts, regions := (3, tRegion (leafOf 0 9)) :: tH.regions, links := tLinks }

theorem wit_SpecialRegisterReads :
    Meets tH (.mfs 5 0x7FF) (sreg? 0x7FF = none) ∧
    Meets tG (.mfs 5 0x108) ((sreg? 0x108).any (fun r => decide ((slotLevel 3 (cur tG)).rank < r.rd.rank)) = true) ∧
    Meets tU (.mfs 5 0x104) ((sreg? 0x104).any (fun r => decide ((slotLevel 3 (cur tU)).rank < r.rd.rank)) = true) ∧
    (∀ n ∈ [0x084, 0x0C1, 0x0C2, 0x104, 0x108, 0x203, 0x204, 0x207, 0x304],
      Meets (onSlot { tSlot with hsel := 0x40 }) (.mfs 5 n) ((tH.curCore : Nat) = fontanier)) ∧
    (∀ n ∈ [0x000, 0x001, 0x002, 0x003, 0x006, 0x007, 0x008, 0x00B, 0x00C, 0x00F, 0x010, 0x011, 0x040, 0x041, 0x042, 0x080, 0x081, 0x082, 0x083,
        0x084, 0x0C0, 0x0C1, 0x0C2, 0x0C3, 0x100, 0x101, 0x102, 0x103, 0x104, 0x105, 0x106, 0x107, 0x108, 0x109, 0x10A],
      Meets tH5 (.mfs 5 n) (sregGate 64 (cur tH5) n false = none)) ∧
    (∀ n ∈ [0x200, 0x201, 0x202, 0x203, 0x204, 0x205, 0x206, 0x207, 0x300, 0x301, 0x302, 0x303, 0x304, 0x380, 0x381, 0x382],
      Meets tH5 (.mfs 5 n) (sregGate 64 (cur tH5) n false = none)) ∧
    (∀ n ∈ [0x004, 0x005, 0x104, 0x208], Meets tG (.mfs 5 n) (sregGate 3 (cur tG) n false = none ∧ tG.curCore < 64)) := by
  decide

/-- What the clauses on LPST, SCRPROG, TOKSEQ, LMAP and the status of a task ask of the state. -/
theorem wit_SpecialRegisterReads_fields :
    Meets (onSlot tInPipe) (.mfs 5 0x011) ((cur (onSlot tInPipe)).ctx.pipe = some tPipe ∧ tPipe.lc < 4 ∧ 1 ≤ tPipe.depth ∧ tPipe.depth ≤ 8) ∧
    Meets tH (.mfs 5 0x011) ((cur tH).ctx.pipe = none) ∧ (tH.task? tSlot.part tSlot.task).isSome = true ∧
    ((tH.region tSlot.rsel).phase < 16 ∧ (tH.region tSlot.rsel).done < 2 ^ 32 ∧ (tH.region tSlot.rsel).token = none) ∧
    State.reset.links.topo = none ∧ tH.links.topo.isSome = true ∧ State.reset.host.repaired = false := by
  decide

theorem wit_SpecialRegisterWrites :
    -- a reserved bit; a reserved value; a register that is written
    Meets (onRegs [(9, 256)]) (.mts 9 0x010) (sregGate 64 (cur (onRegs [(9, 256)])) 0x010 true = none ∧
      Nat.land 256 (allBits - Nat.lor (fieldMask 7 1) 1) ≠ 0) ∧
    Meets (onRegs [(9, 0x30)]) (.mts 9 0x081) (sregGate 64 (cur (onRegs [(9, 0x30)])) 0x081 true = none ∧
      Nat.land 0x30 (allBits - Nat.lor (fieldMask 5 0) 0) = 0 ∧
      (tH.sregRefuse 64 (cur (onRegs [(9, 0x30)])) 0x081 (Nat.land 0x30 (fieldMask 5 0))).isSome = true) ∧
    Meets (onRegs [(9, 0xFE)]) (.mts 9 0x010) ((sreg? 0x010).any (fun r => r.rw == fieldMask 7 1 && r.ro == 1) = true ∧
      sregGate 64 (cur (onRegs [(9, 0xFE)])) 0x010 true = none ∧ Nat.land 0xFE (allBits - Nat.lor (fieldMask 7 1) 1) = 0 ∧
      tH.sregRefuse 64 (cur (onRegs [(9, 0xFE)])) 0x010 (Nat.land 0xFE (fieldMask 7 1)) = none ∧ (cur tH).ctx.loops = []) := by
  decide

/-- Branch targets inside and outside the LOOPP of `tPipe`, whose end word is at 56. -/
def tBranch (pipe : Bool) (kreg b : Nat) : State :=
  onCtx { tCtx with kreg := kreg, bt := [(1, b)], regs := [(63, BitVec.ofNat 64 b)], pipe := if pipe then some { tPipe with k := 6 } else none, pc := 24 }

theorem wit_BranchesAndTargets :
    AllIssue tH [.prep 3 (-134217728), .prep 0 134217727, .prepr 3 9] ∧
    (∀ i ∈ [Instr.br 1 0, .bra 1 2, .call 1 2, .ret 0, .br 1 2],
      Meets (tBranch false 4 8) i ((cur (tBranch false 4 8)).ctx.k 2 = true) ∧ Meets (tBranch false 0 8) i ((cur (tBranch false 0 8)).ctx.k 2 = false) ∧
      -- a target before, at the first word, at the end word of the LOOPP
      Meets (tBranch true 4 0) i ({ tPipe with k := 6 }.endWord = 72 ∧ ¬(0 < { tPipe with k := 6 }.off)) ∧
      Meets (tBranch true 4 72) i ({ tPipe with k := 6 }.endWord ≤ 72) ∧ Meets (tBranch true 4 64) i (64 < { tPipe with k := 6 }.endWord)) ∧
    ({ tSlot with ctx := { tCtx with delay := some ⟨0, 2⟩ } } : Slot).ctx.delay = some ⟨0, 2⟩ ∧
    ({ tSlot with ctx := { tCtx with delay := some ⟨0, 1⟩ } } : Slot).ctx.delay = some ⟨0, 1⟩ ∧ tCtx.pipe = none := by
  decide

theorem wit_LoopStarts :
    Meets tH (.loop 3 0 1 0) ((0 : Nat) = 0) ∧ Meets tH (.loop 3 9 1 0) ((cur tH).ctx.reg 9 ≠ 0) ∧ Meets tH (.loop 3 0 1023 4095) ((4095 : Nat) ≠ 0) ∧
    Meets (onSlot tInPipe) (.loopp 2 0 0 1 4 1 1) (tInPipe.ctx.pipe ≠ none) ∧
    -- the last word of the epilogue just beyond the code object, and just within it
    Meets (onCtx { tCtx with pc := 65512 }) (.loopp 1 0 0 1 1 1 1) (tCtx.pipe = none ∧ loadCap.hi < 65512 + 8 * 3 + 8) ∧
    Meets (onCtx { tCtx with pc := 65504 }) (.loopp 1 0 0 1 1 1 1) (65504 + 8 * 3 + 8 = loadCap.hi) ∧
    Meets tH (.loopp 1 0 0 1 1 0 0) (tCtx.pipe = none ∧ loadCap.lo ≤ 24 ∧ 24 + 8 ≤ loadCap.hi ∧ tCtx.remIter = 0) ∧
    Meets tH (.loopp 1 7 0 1 1 1 1) (tCtx.pipe = none ∧ tCtx.remIter = 0 ∧ tCtx.delay = none ∧ tCtx.loops = []) ∧
    Meets tH (.loopp 1 7 9 1 1 0 1) ((cur tH).ctx.reg 9 ≠ 0) ∧
    -- passes left over from a forced epilogue
    Meets (onCtx { tCtx with rem := 5, remIter := 3 }) (.loopp 1 7 9 1 1 0 1) (tCtx.pipe = none ∧ tCtx.loops = [] ∧ tCtx.delay = none) := by
  decide

/-- The context at the last kernel word of `p`, with counter 1 at `n`. -/
def atKernelEnd (p : Pipe) (n : Nat) : Ctx :=
  { tCtx with pipe := some p, pc := p.kernelEnd, lc := [(1, BitVec.ofNat 64 n)], loops := [⟨1, p.kernel, p.kernelEnd, true, p.ord⟩] }

/-- A command of the test slot on engine `e`, in the LOOPP with tag `t`. -/
def tTagged (e : Eng) (i : Instr) (t : Nat) : Cmd := { eng := e, slot := 0, seq := 1, instr := i, inPipe := true, seg := t }

/-- The test slot in the kernel pass of tag 1 of `tPipe`. -/
def tPass1 : Slot := { tInPipe with ctx := { tInPipe.ctx with pipe := some { tPipe with iter := 1 } } }

/-- The hypotheses of LoopStarts on the passes of a LOOPP, its forced epilogue, and the slip and release of its commands. -/
theorem wit_LoopStarts_passes :
    (∀ n ∈ [0, 1, 2], ∀ p ∈ [tPipe, { tPipe with e := 0 }],
      let x := atKernelEnd p n
      x.pipe = some p ∧ x.delay = none ∧ p.forced = false ∧ p.seg = .kernel ∧ 1 ≤ p.k ∧ x.pc = p.kernelEnd ∧
        x.loops = [] ++ ⟨1, p.kernel, p.kernelEnd, true, p.ord⟩ :: [] ∧ p.lc = 1) ∧
    (tPipe.depth < 2 ^ 64 ∧ tInPipe.ctx.pipe = some tPipe) ∧
    (let p := { tPipe with forced := true, seg := .epilogue }
     p.e ≠ 0 ∧ (p.endWord - 8) + 8 = p.endWord ∧ ({ tCtx with pipe := some p, pc := p.endWord - 8 } : Ctx).delay = none ∧ tCtx.loops = []) ∧
    (tPass1.issues = true ∧ tPass1.ctx.pipe = some { tPipe with iter := 1 } ∧ ((onCmds [tTagged .va (.pnot 7 1) 0]).setSlot 64 0 tPass1).curCore ≤ 64 ∧
      tTagged .va (.pnot 7 1) 0 ∈ ((onCmds [tTagged .va (.pnot 7 1) 0]).setSlot 64 0 tPass1).cmdsHere ∧ (tTagged .va (.pnot 7 1) 0).seg + tPipe.depth ≤ 1) ∧
    (∀ e ∈ [Eng.vl, .va, .vs], ((onCmds [tTagged e (.pnot 7 1) 1]).setSlot 64 0 tPass1).head? 64 0 e = some (tTagged e (.pnot 7 1) 1)) := by
  decide

/-- Two loops that end at 16 and one that ends elsewhere; counter 1 is spent, counter 2 is not. -/
def tLoops : Ctx :=
  { tCtx with pc := 16, lc := [(1, 1), (2, 2), (3, 9)], loops := [⟨3, 0, 40, false, 3⟩, ⟨1, 8, 16, false, 2⟩, ⟨2, 8, 16, false, 1⟩] }

theorem wit_LoopBack :
    tLoops.delay = none ∧ tLoops.pipe = none ∧ (∀ l ∈ tLoops.loops, l.stop ≠ 0) ∧
    (tLoops.loops = [⟨3, 0, 40, false, 3⟩] ++ ⟨1, 8, 16, false, 2⟩ :: [⟨2, 8, 16, false, 1⟩] ∧ (tLoops.lcv 1).toNat ≤ 1) ∧
    (1 < (tLoops.lcv 2).toNat ∧ ∀ b ∈ [(⟨3, 0, 40, false, 3⟩ : LoopRec)], b.stop ≠ 16) := by
  decide

/-- The test slot in a loop on counter 1 or in a LOOPP, with condition k2. -/
def tBrk (k : Bool) (pipe : Bool) : State :=
  onCtx { tCtx with kreg := if k then 4 else 0, loops := [⟨1, 8, 40, false, 1⟩], lc := [(1, 3)], pipe := if pipe then some { tPipe with lc := 2 } else none, pc := 16 }

/-- The same inside a LOOPP that started at `ord`. -/
def tBrkIn (ord : Nat) : State :=
  onCtx { tCtx with kreg := 4, loops := [⟨1, 8, 40, false, 1⟩], lc := [(1, 3)], pipe := some { tPipe with lc := 2, ord := ord }, pc := 16 }

theorem wit_LoopBreak :
    Meets (tBrk false false) (.brk 1 2) ((cur (tBrk false false)).ctx.k 2 = false) ∧
    Meets (tBrk true false) (.brk 3 2) ((cur (tBrk true false)).ctx.k 2 = true ∧ (cur (tBrk true false)).ctx.pipe = none ∧
      ∀ l ∈ (cur (tBrk true false)).ctx.loops, l.lc ≠ 3) ∧
    Meets (tBrk true false) (.brk 1 2) ((cur (tBrk true false)).ctx.pipe = none ∧
      (cur (tBrk true false)).ctx.loops.find? (fun l => l.lc == 1) = some ⟨1, 8, 40, false, 1⟩) ∧
    -- a LOOP started after the LOOPP, one started before it, and the LOOPP itself
    Meets (tBrk true true) (.brk 1 2) ((cur (tBrk true true)).ctx.pipe = some { tPipe with lc := 2 } ∧
      (cur (tBrk true true)).ctx.loops.find? (fun l => l.lc == 1) = some ⟨1, 8, 40, false, 1⟩ ∧ ({ tPipe with lc := 2 } : Pipe).ord < 1) ∧
    Meets (tBrkIn 2) (.brk 1 2) ((cur (tBrkIn 2)).ctx.pipe = some { tPipe with lc := 2, ord := 2 } ∧
      (cur (tBrkIn 2)).ctx.loops.find? (fun l => l.lc == 1) = some ⟨1, 8, 40, false, 1⟩) ∧
    Meets (tBrk true true) (.brk 2 2) ((cur (tBrk true true)).ctx.pipe = some { tPipe with lc := 2 }) := by
  decide

/-- The hypotheses of IssueChecksInOrder on the slot `sl` of `s` with instruction `i`, up to the point that `p` names. -/
def atCheck (s : State) (i : Instr) (p : Slot → Bool) : Bool :=
  let sl := cur s
  decide (s.slot? s.curCore s.curSlot = some sl) && sl.issues && i.isWbas && slipOk sl s.cmdsHere && p sl

/-- The test slot in a delay slot. -/
def tDelay : State := onCtx { tCtx with delay := some ⟨64, 2⟩ }

theorem wit_IssueChecksInOrder :
    -- an absent feature: no feature is accepted
    atCheck { tH with host := {} } (.mxsm 7 9 .bmap) (fun _ => (Instr.mxsm 7 9 .bmap).feature.any (fun b => !({ tH with host := {} } : State).feature b)) = true ∧
    -- a transfer in a delay slot, and a branch too near the loop end
    atCheck tDelay (.br 1 0) (fun sl => (Instr.br 1 0).transfer && sl.ctx.delay.isSome) = true ∧
    atCheck (tBrk true false |>.setSlot 64 0 { tSlot with ctx := { tLoops with pc := 24 } }) (.bra 1 0)
      (fun sl => (Instr.bra 1 0).branch && nearLoopEnd sl.ctx sl.ctx.pc) = true ∧
    -- a privileged instruction below its level
    atCheck tU (.tlbiv 5 9 9 .all) (fun sl => decide ((slotLevel 3 sl).rank < (Instr.tlbiv 5 9 9 .all).level.rank)) = true ∧
    -- a refused field; then a refused value, a refused SCOPE and a tile outside the banks, in this order
    atCheck tH (.cmp 0 1 2 .eq) (fun sl => !(Instr.cmp 0 1 2 .eq).fieldsOk && sl.ctx.delay.isNone) = true ∧
    atCheck (onRegs [(9, 4096)]) (.vcvts (.h 4 0) (.h 8 0) ⟨.fp8l, .rne, false⟩ 9 1 0) (fun sl =>
      (Instr.vcvts (.h 4 0) (.h 8 0) ⟨.fp8l, .rne, false⟩ 9 1 0).fieldsOk && (dueFault sl (.vcvts (.h 4 0) (.h 8 0) ⟨.fp8l, .rne, false⟩ 9 1 0)).isNone &&
        !(Instr.vcvts (.h 4 0) (.h 8 0) ⟨.fp8l, .rne, false⟩ 9 1 0).valuesOk sl.ctx tH.feature) = true ∧
    atCheck tH (.lds 5 2 3 ⟨0, .plain, 6, 0⟩ .d 0) (fun sl => (Instr.lds 5 2 3 ⟨0, .plain, 6, 0⟩ .d 0).fieldsOk &&
      !dependStall sl (.lds 5 2 3 ⟨0, .plain, 6, 0⟩ .d 0) && !(Instr.lds 5 2 3 ⟨0, .plain, 6, 0⟩ .d 0).scopeOk) = true ∧
    atCheck (onSlot { tSlot with banks := 1 }) (.ttget 5 31)
      (fun sl => (Instr.ttget 5 31).valuesOk sl.ctx tH.feature && (Instr.ttget 5 31).scopeOk && !footprintOk sl.banks ((Instr.ttget 5 31).tiles sl.ctx)) = true := by
  decide

/-- A guest whose partition has a handler or none, whose task is a handler or not, under a hypervisor's handler or none. -/
def tFault (guestH hyp handler : Bool) : State :=
  { tG with
    parts := (5, { tPart with hndl := if guestH then 0x8000000000000000 else 0, tasks := [{ loadTask with part := 5, core := 3, handler := handler }] }) :: tH.parts,
    grotto := { tG.grotto with hvhndl := if hyp then 0x8000000000000000 else 0 } }

/-- The hypotheses of FaultIsTaken. -/
def faultable (s : State) (part : Nat) : Bool :=
  match s.slot? s.curCore s.curSlot with
  | some sl => sl.part == part && (match s.task? sl.part sl.task with
    | some t => t.part == part
    | none => false)
  | none => false

theorem wit_FaultIsTaken :
    faultable tH 64 = true ∧
    -- up to the hypervisor's handler by its code; by a TRAP that names it; down to the partition's for want of another; no handler at all; the partition's
    (faultable (tFault true true false) 5 = true ∧ hndlV (tFault true true false).grotto.hvhndl = true ∧ (ctlFault 0x09 (gSlot true)).code = 0x09) ∧
    (faultable (tFault true false false) 5 = true ∧ ((tFault true false false).part 5).hndl.getLsbD 63 = true ∧
      (tFault true false false).grotto.hvhndl.getLsbD 63 = false ∧ ((tFault true false false).task? 5 1).any (fun t => !t.handler) = true) ∧
    (faultable (tFault false false false) 5 = true ∧ ((tFault false false false).part 5).hndl.getLsbD 63 = false) ∧
    (faultable (tFault true false true) 5 = true ∧ ((tFault true false true).task? 5 1).any (fun t => t.handler) = true) ∧
    ((ctlFault 0x07 (gSlot true)).code ∉ [0x09, 0x0A, 0x14]) ∧ (tFault false false false).host.log.length < 1024 ∧ tH.host.log.length < 1024 := by
  decide

/-- A capability of bytes 64 to 128 of that object without the write right. -/
def tCapRo : Cap := { w0 := toW (2 ^ 63 + 2 ^ 58), w1 := 64, w2 := 128, w3 := toW loadTtp }

theorem wit_ObjectChecksInOrder :
    tCapRo.grants kStore.cap = false ∧ ({} : Cap).grants kLoad.cap = false ∧ tCapRo.grants kLoad.cap = true ∧
    (63 < tCapRo.lo ∧ tCapRo.hi < 121 + 8) ∧ (tCapRo.lo ≤ 64 ∧ 64 + 8 ≤ tCapRo.hi ∧ 65 % 8 ≠ 0 ∧ 65 + 8 ≤ tCapRo.hi) ∧
    (objAccess tH 64 64 tCapRo 64 8 8 kLoad).isOk = true ∧ (objAccess tH 64 64 tCapRo 120 8 8 kLoad).isOk = true ∧
    (objAccess tH 64 64 tCapRo 63 8 8 kLoad).isOk = false := by
  decide

/-- A guest at level S with c2 and c3 to its page, whose s9 is 64 and s10 4,096. -/
def tGReg : State := guest (leafOf 0 9) { gSlot true with ctx := { tCtx with regs := [(9, 64), (10, 4096)] } }

/-- The hypotheses of ScalarAccessesAreMade on an object access that passes its checks. -/
def reaches (s : State) (k : AccKind) (off z scope : Nat) (w : Bool) : Bool :=
  match objAccess s s.curCore (cur s).part tCap off z z k with
  | .ok t => !s.homeReset s.curCore (cur s).part t scope && (match s.accRoute (cur s).part t z scope w with
    | some .down => false
    | some .fenced => false
    | _ => true) && decide ((cur s).posted.length < 16)
  | .error _ => false

/-- The test states while no conduit is UP and MAPST is not ACTIVE: a request waits. -/
def noRoute (s : State) : State := { s with links := { s.links with conduits := [(0, { state := .drained })] } }

/-- A guest whose tile walk the caches do not hold. -/
def tGWalk : State := noRoute (tG.setRegion 3 { tRegion (leafOf 0 9) with tileTlb := [] })

/-- The record of an access that its checks refuse or that waits. -/
def objErr (s : State) (off z : Nat) (k : AccKind) : Option FaultRec :=
  match objAccess s s.curCore (cur s).part tCap off z z k with
  | .ok _ => none
  | .error f => some f

theorem wit_ScalarAccessesAreMade :
    -- a walk that waits for a route
    (∀ i ∈ [Instr.lds 5 2 9 o0 .d 0, .sts 5 2 9 o0 .d 0], Meets tGWalk i ((objErr tGWalk 64 8 kLoad).any (fun f => f.hold == some .conduit) = true)) ∧
    (∀ z ∈ [Size.b, .h, .w, .d],
      Meets tH (.lds 5 2 9 o0 z 0) (reaches tH kLoad 64 z.bytes 0 false = true) ∧ Meets tG (.sts 5 2 9 ⟨7, .rel, 5, 3⟩ z (-64)) (reaches tG kStore 0 z.bytes 5 true = true)) ∧
    (∀ z ∈ [Size.w, .d],
      Meets tG (.atom 2 9 o0 .xchg z .object 9) (reaches tG kAtom 64 z.bytes 0 true = true) ∧
      Meets tG (.atomf 5 2 9 o0 .add z .object 9) (reaches tG kAtomf 64 z.bytes 0 true = true) ∧
      Meets tG (.acas 5 2 9 o0 z .object 9 10) (reaches tG kAtomf 64 z.bytes 0 true = true)) ∧
    -- a check that refuses: the null capability, and beyond the object
    Meets tH (.lds 5 1 9 o0 .d 0) ((objAccess tH 64 64 {} 64 8 8 kLoad).isOk = false) ∧
    Meets tH (.lds 5 2 9 o0 .d 65536) ((objAccess tH 64 64 tCap 65600 8 8 kLoad).isOk = false) ∧
    -- the window's last word, and the word beyond it
    (∀ i ∈ [Instr.ldp 5 9 o0 4024, .stp 5 9 o0 4031], Meets tG i (64 + 4024 + 8 = (cur tG).winSize)) ∧
    (∀ i ∈ [Instr.ldp 5 10 o0 0, .stp 5 10 o0 0, .atom 0 10 o0 .add .d .spad 9, .atomf 5 0 10 o0 .add .d .spad 9, .acas 5 0 10 o0 .d .spad 9 9],
      Meets tGReg i ((cur tGReg).winSize < 4096 + 8)) ∧
    (∀ i ∈ [Instr.atom 0 9 o0 .add .d .spad 9, .atomf 5 0 9 o0 .add .d .spad 9, .acas 5 0 9 o0 .d .spad 9 9], Meets tG i (64 + 8 ≤ (cur tG).winSize)) := by
  decide

/-- A row-major FP32 tensor of 8 by 32 elements in c2, and one with a reserved layout. -/
def tDesc (layout : Nat) : Desc :=
  { w0 := BitVec.ofNat 64 (2 ^ 63 + 2 * 2 ^ 32 + 2 ^ 27 + layout * 2 ^ 24), w1 := 0x0000002000000008, w2 := 0x0000000100000001,
    w4 := toW (tCap.ttp) }

/-- The test slot with that descriptor in d1 and an unbound one in d2. -/
def tElem (sa : Word) : State := onCtx { tCtx with regs := [(9, sa)], descs := [(1, tDesc 0), (2, {})] }

theorem wit_ElementAccessesAreMade :
    (tDesc 0).refused tCap = none ∧ (tDesc 0).elems = 256 ∧ (tDesc 0).bytesPer = 4 ∧
    (∀ i ∈ [Instr.lde 5 2 9 o0 .w 0, .ste 5 2 9 o0 .w 0], Meets (tElem 0) i ((({} : Desc).refused {}).isSome = true)) ∧
    (∀ i ∈ [Instr.lde 5 1 9 o0 .w 0, .ste 5 1 9 o0 .w 0], Meets (tElem 256) i ((tDesc 0).elems ≤ 256) ∧
      Meets (tElem 255) i (255 < (tDesc 0).elems ∧ Size.w.bytes = (tDesc 0).bytesPer ∧
        (objAccess (tElem 255) 64 64 tCap ((tDesc 0).base * 65536 + bytePos (tDesc 0) (elemCoord (tDesc 0) 255)) 4 4 kStore).isOk = true)) ∧
    (∀ i ∈ [Instr.lde 5 1 9 o0 .d 0, .ste 5 1 9 o0 .d 0], Meets (tElem 0) i (Size.d.bytes ≠ (tDesc 0).bytesPer)) ∧
    (∀ i ∈ [Instr.lde 5 1 9 o0 .w 0, .ste 5 1 9 o0 .w 0],
      Meets (tElem 0 |>.setSlot 64 0 { tSlot with ctx := { tCtx with descs := [(1, { tDesc 0 with w3 := 1 })] } }) i
        ((objAccess tH 64 64 tCap 65536 4 4 kLoad).isOk = false)) := by
  decide

/-- An outstanding access of the test slot: of 8 bytes at 0x20000. -/
def tAcc (op : P0Op) : P0Acc := { seq := 1, op := op, addr := 0x20000, aper := .system, size := 8, cls := 0, ord := .plain, scope := 0, off := 0x100, till := 1000 }

/-- The test slot with that access outstanding. -/
def tOut (op : P0Op) : State := { onSlot { tSlot with p0 := [tAcc op], seq := 2 } with links := {} }

theorem wit_OutstandingAccessesArePerformed :
    (∀ op ∈ [P0Op.load 5, .store 0x1122334455667788, .rmw .add 1 (some 5), .rmw .add 1 none, .cas 1 0 (some 5)],
      ((tOut op).slot? 64 0).any (fun sl => decide (sl.phase = .run) && sl.saving.isNone && sl.breaks.isEmpty && sl.trigAt.isNone &&
        decide (sl.p0[0]? = some (tAcc op)) && p0Free sl ((tOut op).slotCmds 64 0) 1 0 .plain) = true ∧
      ((tAcc op).req ≠ .held ∧ (tOut op).p0Needs 64 (tAcc op) = false ∧ (tAcc op).expired (tOut op).tick = false ∧ (tOut op).tick < (tAcc op).till ∧
        (tOut op).accGate 64 64 (tAcc op) = .pass ∧ (tOut op).accStale (tAcc op) = false) ∧ (tOut op).locPoison ((tAcc op).loc 64 64) 8 0 = false ∧
      ({ tOut op with memErr := [0x4000] } : State).locPoison ((tAcc op).loc 64 64) 8 0 = true) ∧
    (64 : Nat) ≤ 64 ∧ (3 : Nat) ≤ 3 := by
  decide

theorem wit_AtomicOperations : (0 : Nat) < 2 ^ 64 ∧ 0xFFFFFFFFFFFFFFFF < 2 ^ 64 ∧ (0xFFFFFFFF : Nat) < 2 ^ 32 := by decide

/-- The bytes of a capability. -/
def capBytes (c : Cap) : List Byte := leBytes 8 c.w0.toNat ++ leBytes 8 c.w1.toNat ++ leBytes 8 c.w2.toNat ++ leBytes 8 c.w3.toNat

/-- A guest at level U whose capability table at 0x30000 has this entry at index 1. -/
def tTable (v : Cap) : State :=
  { tU with mem := wrBytes tU.mem (9 * 2 ^ 21 + 0x30020) (capBytes v), parts := (5, { tPart with captb := 0x30000 }) :: tH.parts }

/-- The entry that CAPSEL of index 1 reads there. -/
def tableRead (s : State) : Option Cap := (s.gread 3 5 2 (0x30000 + 32) 32).toOption.map (fun r => Cap.ofBytes r.1)

theorem wit_CapabilityInstructions :
    Meets (tTable tCap) (.capsel 1 0 2) (p0Free (cur (tTable tCap)) (tTable tCap).cmdsHere 1 0 .acq = true ∧ bits ((tTable tCap).part 5).captn 16 0 ≤ 2) ∧
    Meets (tTable tCap) (.capsel 1 0 1) (1 < bits ((tTable tCap).part 5).captn 16 0 ∧ tableRead (tTable tCap) = some tCap ∧
      tCap.valid = true ∧ tCap.sbit = false ∧ tCap.formed = true) ∧
    Meets (tTable {}) (.capsel 1 0 1) ((tableRead (tTable {})).any (fun v => !v.valid) = true) ∧
    Meets (tTable { tCap with w0 := 0xFC00000000000000 }) (.capsel 1 0 1) ((tableRead (tTable { tCap with w0 := 0xFC00000000000000 })).any (fun v => v.valid && v.sbit) = true ∧
      slotLevel 3 (cur tU) = .u) ∧
    Meets (tTable { tCap with w3 := 1 }) (.capsel 1 0 1) ((tableRead (tTable { tCap with w3 := 1 })).any (fun v => v.valid && !v.sbit && !v.formed) = true) ∧
    (∀ f ∈ [NarForm.rights, .lo, .hi], Meets tH (.capnar 4 1 9 f) ((cur tH).ctx.cap 1 = {})) ∧
    Meets tH (.capnar 4 2 9 .rights) ((cur tH).ctx.cap 2 = tCap ∧ tCap.valid = true) ∧
    (∀ f ∈ [NarForm.lo, .hi], Meets (onRegs [(9, 65537)]) (.capnar 4 2 9 f) (tCap.hi < 65537) ∧ Meets (onRegs [(9, 65536)]) (.capnar 4 2 9 f) (65536 ≤ tCap.hi) ∧
      Meets tH (.capnar 4 2 0 f) (tCap.lo ≤ 0) ∧
      Meets (onCtx { tCtx with caps := [(2, tCapRo)], regs := [(9, 63)] }) (.capnar 4 2 9 f) (63 < tCapRo.lo ∧ tCapRo.valid = true)) ∧
    AllIssue tH [.capinf 5 2 .oid, .capinf 5 2 .lo, .capinf 5 2 .hi, .capinf 5 1 .attr, .capinf 5 2 .ttp, .capclr 2] := by
  decide

/-- Each field with a value that is just allowed and one that is just refused. -/
def tdCases : List (TdField × Nat × Nat) :=
  [(.handle, 65535, 65536), (.fmt, 0, 64), (.layout, 4, 5), (.rank, 1, 0), (.rank, 4, 5), (.e0, 1, 0), (.e3, 4294967295, 4294967296),
    (.base, 1099511627775, 1099511627776), (.w0, 0x0400FFFF, 0x400000), (.w1, 0x100000001, 0x100000000), (.w2, 0x100000001, 1)]

theorem wit_DescriptorInstructions :
    tdCases.all (fun f => issuesB (onRegs [(9, BitVec.ofNat 64 f.2.1)]) (cur (onRegs [(9, BitVec.ofNat 64 f.2.1)])) (.tdset 1 9 f.1) &&
      issuesB (onRegs [(9, BitVec.ofNat 64 f.2.2)]) (cur (onRegs [(9, BitVec.ofNat 64 f.2.2)])) (.tdset 1 9 f.1)) = true ∧
    AllIssue tH [.tdget 5 1 .handle, .tdget 5 1 .fmt, .tdget 5 1 .layout, .tdget 5 1 .rank, .tdget 5 1 .e0, .tdget 5 1 .e3, .tdget 5 1 .base,
      .tdget 5 1 .w0, .tdget 5 1 .w2, .tdget 5 1 .ttp] ∧
    Meets tH (.tdcap 1 4) ((cur tH).ctx.cap 4 = {}) ∧ Meets tH (.tdcap 15 2) (((cur tH).ctx.cap 2).valid = true ∧ (2 : Nat) < 16) := by
  decide

/-- A command of the test slot of an engine, and a marker. -/
def tCmd (e : Eng) (seq : Nat) : Cmd := { eng := e, slot := 0, seq := seq, instr := .nop }

/-- Eight FENCEs that wait for it. -/
def tFences (n : Nat) : State :=
  (onCmds [tCmd .vl 1]).setSlot 64 0 { tSlot with seq := 10, fences := (List.range n).map (fun i => { seq := 2 + i, paths := 2, scope := 3, classes := 0 }) }

/-- Commands that fill an engine's queue, of the test slot. -/
def tFull (e : Eng) (marker : Bool) : State :=
  (onCmds ((List.range 64).map (fun i => { tCmd e (1 + i) with marker := marker }))).setSlot 64 0 { tSlot with seq := 70 }

/-- A LOOPP segment whose reserve is spent for each engine. -/
def tSpent : Slot := { tInPipe with ctx := { tInPipe.ctx with pipe := some { tPipe with pushes := [61, 61, 29, 13, 13] } } }

theorem wit_FencesMarkersAndWaits :
    Meets (tFences 7) (.fence 31 5 255) (((cur (tFences 7)).fences.dropWhile (fun f => fenceMet (cur (tFences 7)) (tFences 7).cmdsHere f)).length < 8) ∧
    Meets (tFences 8) (.fence 31 5 255) (8 ≤ ((cur (tFences 8)).fences.dropWhile (fun f => fenceMet (cur (tFences 8)) (tFences 8).cmdsHere f)).length) ∧
    Meets tH (.fence 1 0 0) ((cur tH).fences = []) ∧
    Meets (onSlot tSpent) (.fencem 31) ([Eng.vl, .va, .vs, .mx, .xf].any (segmentFull tSpent.ctx) = true) ∧
    Meets (tFull .va false) (.fencem 2) (segmentFull (cur (tFull .va false)).ctx .va = false ∧ (tFull .va false).pushOk 64 0 .va = false) ∧
    Meets tH (.fencem 31) ([Eng.vl, .va, .vs, .mx, .xf].all (tH.pushOk 64 0) = true ∧ [Eng.vl, .va, .vs, .mx, .xf].any (segmentFull tCtx) = false) ∧
    Meets tH (.fencem 16) (tCtx.pipe = none) ∧
    Meets (onCmds [tCmd .va 1]) .joinm ((onCmds [tCmd .va 1]).cmdsHere.filter (fun m => m.marker && !m.preMark) = []) ∧
    Meets (onCmds [{ tCmd .va 1 with marker := true }]) .joinm ((onCmds [{ tCmd .va 1 with marker := true }]).cmdsHere.any (fun m => m.marker) = true) ∧
    Meets ((onCmds [{ tCmd .va 1 with marker := true, inPipe := true }]).setSlot 64 0 tInPipe) .joinm (tPipe.iter = 0) ∧
    Meets ((onCmds [{ tCmd .mx 1 with inPipe := true }]).setSlot 64 0 tInPipe) (.waitc 0 0 0 0) (tPipe.iter = 0) ∧
    Meets (onCmds [tCmd .mx 1]) (.waitc 15 15 15 1) (tCtx.pipe = none) ∧
    Meets (onCmds [tCmd .mx 1]) (.waitc 0 0 0 0) (tCtx.pipe = none) := by
  decide

/-- Acquire. -/
def oA : AccOrd := ⟨0, .acq, 0, 0⟩

/-- What WAITA needs to read its word at once. -/
def readsNow (s : State) (off z scope : Nat) : Option Nat :=
  match objAccess s s.curCore (cur s).part ((cur s).ctx.cap 2) off z z kLoad with
  | .ok t =>
    if decide (s.gateAt s.curCore (cur s).part t.aper t.addr scope = .pass) && (s.accRoute (cur s).part t z scope false).all (fun q => match q with
        | .sent n => !s.lineBusy (none, t.addr / 128) n
        | _ => false) && !s.locPoison (t.loc s.curCore (cur s).part) z scope
    then some (leNat (s.locBytes (t.loc s.curCore (cur s).part) z scope)) else none
  | .error _ => none

/-- A guest task at level S whose page is LOCAL, in the pinned reserve. -/
def tGLocal : State := { guest (leafOf 1 9) (gSlot true) with parts := (5, { tPart with pinned := [9] }) :: tH.parts }

/-- A slot that has stalled at the WAITA which is loaded for it. -/
def tPoll : State := (State.reset.load (encode (.waita 0 2 0 oA .d .object 0))).setSlot 64 0 { loadSlot with stalled := true }

theorem wit_WaitaAndOrderingEvents :
    -- the word is zero: s0 is reached, s9 = 64 is not
    Meets tGLocal (.waita 0 2 9 oA .d .object 0) (p0Free (cur tGLocal) tGLocal.cmdsHere 1 0 .acq = true ∧ readsNow tGLocal 64 8 0 = some 0) ∧
    Meets tGLocal (.waita 9 2 9 oA .d .object 0) (readsNow tGLocal 64 8 0 = some 0 ∧ 0 < ((cur tGLocal).ctx.reg 9).toNat) ∧
    -- a read of the pool that goes out on conduit 0
    Meets tG (.waita 0 2 9 ⟨0, .acq, 5, 0⟩ .d .object 0) (readsNow tG 64 8 5 = some 0) ∧
    -- a walk that waits for a route
    Meets tGWalk (.waita 0 2 9 oA .d .object 0) ((objErr tGWalk 64 8 kLoad).any (fun f => f.hold == some .conduit) = true) ∧
    Meets tG (.waita 0 0 9 ⟨0, .acq, 5, 0⟩ .d .spad 4024) (64 + 4024 + 8 = (cur tG).winSize ∧ tG.gateAt 3 5 .spad (0x2000 + 4088) 1 = .pass ∧
      tG.accRoute 5 { aper := .spad, addr := 0x2000 + 4088 } 8 1 false = none ∧ tG.locPoison ⟨.spad, 0x2000 + 4088, 3, 5, 0⟩ 8 1 = false) ∧
    Meets tG (.waita 0 0 9 oA .d .spad 4032) ((cur tG).winSize < 64 + 4032 + 8) ∧
    Meets tH (.waita 0 2 0 oA .d .object 65536) ((objAccess tH 64 64 tCap 65536 8 8 kLoad).isOk = false) ∧
    ((onCmds [{ tCmd .va 1 with marker := true }]).core 64).cmds.find? (fun x => x.slot == 0 && x.eng == .va) = some { tCmd .va 1 with marker := true } ∧
    (cur tH).saving = none ∧ (cur tH).phase = .run ∧ (cur tH).trigAt = none ∧
    (tPoll.slot? 64 0).any (fun sl => sl.stalled && tPoll.atWaita 64 sl) = true := by
  decide +kernel

/-- The core of the test slot with these tokens in sluice 15, and these requests. -/
def tSluice (l : List Nat) (rq : List SluiceReq) (v : Slot) : State :=
  (tH.setCore 64 { tH.core 64 with sluices := [(15, l)], sluiceRq := rq }).setSlot 64 0 v

theorem wit_SluiceTokens :
    -- 31 tokens leave one entry; 32 leave none
    Meets (tSluice (List.replicate 31 7) [] tSlot) (.tokp 15 9) (((tSluice (List.replicate 31 7) [] tSlot).core 64).roomIn 15 = true ∧
      ((tSluice (List.replicate 31 7) [] tSlot).core 64).firstReq 15 = none) ∧
    Meets (tSluice [] [⟨15, 0, 1⟩] tSlot) (.tokp 15 9) (((tSluice [] [⟨15, 0, 1⟩] tSlot).core 64).firstReq 15 = some ⟨15, 0, 1⟩) ∧
    Meets (tSluice (List.replicate 32 7) [] tSlot) (.tokp 15 9) (((tSluice (List.replicate 32 7) [] tSlot).core 64).roomIn 15 = false) ∧
    (∀ i ∈ [Instr.tokg 5 15, .tokn 5 15], Meets (tSluice [65535, 1] [] tSlot) i (((tSluice [65535, 1] [] tSlot).core 64).tokens 15 = [65535, 1]) ∧
      Meets (tSluice [] [] tSlot) i (((tSluice [] [] tSlot).core 64).tokens 15 = [])) ∧
    -- eight tokens whose conditions have not been met
    Meets (tSluice [] [] { tSlot with tokps := List.replicate 8 ⟨1, 15, 7, true, 0, none⟩, seq := 2 }) (.tokp 15 9) ((8 : Nat) ≤ 8) ∧
    -- a token whose condition was met, the only one of the core
    (let v := { tSlot with tokps := [⟨1, 15, 7, true, 0, some 3⟩], seq := 2 }
     (tSluice [] [] v).slot? 64 0 = some v ∧ ((tSluice [] [] v).core 64).slots = [(0, v)]) ∧
    (let v := { tSlot with tokps := [⟨1, 15, 7, false, 0, none⟩], seq := 2, stalled := true }
     ((tSluice [] [⟨15, 0, 1⟩] v).core 64).sluiceRq.find? (fun r => r.sluice == 15) = some ⟨15, 0, 1⟩ ∧
      ((tSluice [] [⟨15, 0, 1⟩] v).core 64).roomIn 15 = true) := by
  decide

/-- The instructions of the words above that are only pushed. -/
def pushedWords : List Instr := ((words_mem ++ words_vec ++ words_cnv ++ words_mtx ++ words_xfr).map (fun p => p.2)).filter (fun i => i.pushedTo.isSome)

theorem wit_EngineInstructionsArePushed :
    pushedWords.length = 76 ∧ AllIssue tH pushedWords ∧
    pushedWords.all (fun i => i.pushedTo.all (fun e => !segmentFull tCtx e && tH.pushOk 64 0 e) && !balanceBad tCtx i && !tagUnknown i tCtx) = true ∧
    Meets (onSlot tSpent) (.vneg (.h 4 0) (.h 5 0) 0 0 0) (segmentFull tSpent.ctx .va = true) ∧
    Meets (onCtx { tCtx with bal := [(4, 127)] }) (.vmov (.q 4) (.h 5 0) 0 0 0) (balanceBad { tCtx with bal := [(4, 127)] } (.vmov (.q 4) (.h 5 0) 0 0 0) = true) ∧
    Meets tH (.vsel (.h 4 0) (.q 3) (.h 5 0) 0 0 0) (tagUnknown (.vsel (.h 4 0) (.q 3) (.h 5 0) 0 0 0) tCtx = true) ∧
    Meets (tFull .va false) (.vneg (.h 4 0) (.h 5 0) 0 0 0) ((tFull .va false).pushOk 64 0 .va = false ∧ segmentFull tCtx .va = false) ∧
    tCtx.pipe = none ∧ tCtx.loops = [] ∧ tCtx.delay = none := by
  decide

theorem wit_TagAndModeInstructions :
    Meets tH (.ttag 31 .int8 true) (segmentFull tCtx .va = false ∧ tCtx.bal = [] ∧ tH.pushOk 64 0 .va = true) ∧
    -- a reserved bit; a rounding mode that does not exist; a legal value
    Meets (onRegs [(9, 2)]) (.fmtm 9 0xFF) (Nat.land (Nat.land 2 0xFF) 14 ≠ 0) ∧
    Meets (onRegs [(9, 0x60)]) (.fmtm 9 0xF0) (rndLegal tH.feature 6 = false) ∧
    Meets (onRegs [(9, 0x51)]) (.fmtm 9 0xFF) (Nat.land (Nat.land 0x51 0xFF) 14 = 0 ∧ rndLegal tH.feature 5 = true) ∧
    Meets tH (.ttget 5 31) (tCtx.tag 31 = ⟨0, false⟩) := by
  decide

/-- A VA command of the test slot on FP32 or INT32 tiles. -/
def tVa (i : Instr) (code mpc : Nat) : Cmd :=
  { eng := .va, slot := 0, seq := 1, instr := i, tagA := ⟨code, false⟩, tagB := ⟨code, false⟩, tagC := ⟨code, false⟩, mpc := mpc,
    srcTags := (List.range 32).map (fun n => (n, ⟨code, false⟩)) }

/-- The command may step, and what it gives: none where it is not ready, else the fault code or its result. -/
def tStep (m : Cmd) : Option (Except Nat (List Row × Option Pred)) :=
  let s := (onCmds [m]).setSlot 64 0 { tSlot with seq := 2 }
  let n := { m with started := true }
  if s.head? 64 0 .va = some m ∧ s.cmdReady 64 (cur s) m = true ∧ s.mayStart 64 m = true then
    match stepSources n (s.core 64) tCtx n.per n.mpc with
    | some src =>
      match vaResult n tCtx src with
      | .error c => some (.error c)
      | .ok o => some (.ok (o.rows, o.pred))
    | none => none
  else none

theorem wit_VaStepsWriteTheirResult :
    tH.head? 64 0 .va = none ∧
    -- a command that waits for its engine's other slot
    ((onCmds [{ tVa (.pnot 7 1) 0 0 with slot := 1 }, tVa (.pnot 7 1) 0 0]).setSlot 64 1 tSlot).mayStart 64 (tVa (.pnot 7 1) 0 0) = false ∧
    -- a row at the end of a queue
    (tStep (tVa (.vadd (.q 3) (.h 5 0) (.h 6 0) 0 0 0) 0 0)).any (fun r => r.toOption.any (fun o => o.1.length == 1)) = true ∧
    (tStep (tVa (.vred (.h 4 0) (.h 5 0) 0 0 .add) 7 0)).any (fun r => !r.isOk) = true ∧
    -- the first and the last of two steps of a row, and a predicate
    ([0, 1].all (fun n => (tStep (tVa (.vadd (.h 4 30) (.h 5 0) (.h 6 0) 0 0 1) 0 n)).any (fun r => r.toOption.any (fun o => o.1.length == 1))) = true) ∧
    (Instr.vadd (.h 4 30) (.h 5 0) (.h 6 0) 0 0 1).steps = 2 ∧
    (tStep (tVa (.pnot 7 1) 0 0)).any (fun r => (r.toOption.any (fun o => o.2.isSome))) = true ∧ (Instr.pnot 7 1).predOut = [7] := by
  decide

theorem wit_VectorIntegerAndMoveResults : (⟨0, false⟩ : Tag).scaled = false ∧ (tagFmt 0).isSome = true ∧ (tagFmt 11).isSome = true := by decide

/-- A VL or VS command of the guest slot on its window, in its first step. -/
def tRow (i : Instr) : Cmd :=
  { eng := if i.pushedTo == some .vl then .vl else .vs, slot := 0, seq := 1, instr := i, tagA := ⟨0, false⟩, desc := tDesc 0, cap := tCap,
    srcTags := (List.range 32).map (fun n => (n, ⟨0, false⟩)) }

/-- The guest with that command queued. -/
def tRowState (i : Instr) : State := (tG.setCore 3 { tG.core 3 with cmds := [tRow i] }).setSlot 3 0 { gSlot true with seq := 2 }

/-- A step may go on. -/
def stepOk {α : Type} (r : StepRes α) : Bool :=
  match r with
  | .ok _ => true
  | _ => false

/-- The command is the first of the guest slot in its engine, ready, and started or the next to start. -/
def startable (s : State) (e : Eng) (m : Cmd) : Bool :=
  decide (s.head? s.curCore s.curSlot e = some m) && s.cmdReady s.curCore (cur s) m && s.mayStart s.curCore m

/-- The hypotheses of VectorRowsMove on a load. -/
def rowLoads (i : Instr) : Bool :=
  let s := tRowState i
  match i.rowArgs? with
  | some a =>
    startable s .vl (tRow i) && (descRefused (tRow i) a).isNone &&
      (match s.rowPlan 3 (cur s) { tRow i with started := true } a false with
       | .ok ps => stepOk (s.moveGate 3 5 a.scope a.acq false ps) &&
         okE (readPieces (s.sendPieces 5 a.scope false none ps) 3 3 5 a.scope { evict := a.evict, noL2 := true } ps).2
       | .error _ => false)
  | none => false

/-- The hypotheses of VectorRowsMove on a store. -/
def rowStores (i : Instr) : Bool :=
  let s := tRowState i
  let m := { tRow i with started := true }
  match i.rowArgs? with
  | some a =>
    startable s .vs (tRow i) && (descRefused m a).isNone &&
      (match stepSources m (s.core 3) tCtx 1 m.mpc with
       | some src => (storeRow m a (srcAt src 0)).isOk && (match s.rowPlan 3 (cur s) m a true with
         | .ok ps => stepOk (s.moveGate 3 5 a.scope a.acq true ps) && (s.stalePiece 5 a.scope m.cap ps).isNone && ps.all (fun p => decide (p.from_ + p.len ≤ 128))
         | .error _ => false)
       | none => false)
  | none => false

theorem wit_VectorRowsMove :
    (∀ i ∈ [Instr.vld (.h 4 16) .spad 7 8 o0 0 0, .vld (.q 1) .spad 7 8 o0 0 0, .vld (.h 4 16) (.desc 1) 7 8 o0 0 0, .vldt (.h 4 16) .spad 7 8 o0 0 0],
      rowLoads i = true) ∧
    (∀ i ∈ [Instr.vst (.h 4 16) .spad 7 8 o0 0 0, .vst (.h 4 16) (.desc 1) 7 8 o0 0 0], rowStores i = true) ∧
    -- the last 128 bytes of the window
    ((Instr.vld (.h 4 16) .spad 7 8 o0 0 0).rowArgs?.any (fun a => !a.desc && a.form == .plain) = true ∧ 3968 - 3968 % 128 + 128 ≤ (cur tG).winSize) ∧
    startable (tRowState (.pref 1 7 8 0 0 0 0)) .vl (tRow (.pref 1 7 8 0 0 0 0)) = true ∧
    startable (tRowState (.hint 1 7 8 0 .hot)) .vl (tRow (.hint 1 7 8 0 .hot)) = true := by
  decide

/-- The test slot with these two values in s9 and s10. -/
def tTwo (a b : Nat) : State := onRegs [(9, BitVec.ofNat 64 a), (10, BitVec.ofNat 64 b)]

/-- Image operands that are just allowed, and just refused, for each source. -/
def imgGood : List (Nat × Nat × MxSrc) :=
  [(31, 0, .tile), (2 ^ 42 - 2 ^ 32, 0, .tile), (2 ^ 19 - 1, 32, .spad), (0, 524288, .spad), (15, 0xFFFFFFFFFFFFFFFF, .desc)]
def imgBad : List (Nat × Nat × MxSrc) :=
  [(32, 0, .tile), (0, 1, .tile), (2 ^ 42, 0, .tile), (2 ^ 19, 32, .spad), (0, 0, .spad), (0, 33, .spad), (0, 524320, .spad), (16, 0, .desc)]

/-- Sparsity operands likewise. -/
def msGood : List (Nat × MsMode) := [(1023, .bmap), (0x3FF0000, .sp24), (0x3FF03FF, .both)]
def msBad : List (Nat × MsMode) :=
  [(1024, .bmap), (0x10000, .bmap), (1, .sp24), (0x4000000, .sp24), (0x400, .both), (0x4000000, .both), (0x1000, .both), (0x10000000, .bmap)]

theorem wit_MatrixImages :
    (imgGood ++ imgBad).all (fun p => issuesB (tTwo p.1 p.2.1) (cur (tTwo p.1 p.2.1)) (.mxsa 7 9 10 p.2.2) &&
      issuesB (tTwo p.1 p.2.1) (cur (tTwo p.1 p.2.1)) (.mxsb 0 9 10 p.2.2)) = true ∧
    (msGood ++ msBad).all (fun p => issuesB (tTwo p.1 0) (cur (tTwo p.1 0)) (.mxsm 7 9 p.2)) = true ∧
    AllIssue tH [.mxrd 5 .rp 0, .mxrd 5 .stat 0, .mxrd 5 .wa 7, .mxrd 5 .wb 7, .mxrd 5 .mbwa 0, .mxrd 5 .mbwb 0, .mxrd 5 .ms 7] ∧ tH.cmdsHere = [] := by
  decide

/-- An MMA on BF16 tiles: t0 accumulates t1 by t2 over 32 elements. -/
def tMma (z started : Bool) (mpc : Nat) : Cmd :=
  { eng := .mx, slot := 0, seq := 1, instr := if z then .mmaz 0 0 0 9 0 .bf16 .bf16 o0 else .mma 0 0 0 9 0 .bf16 .bf16 o0, va := 32, mpc := mpc,
    ma := { wa := 1 }, mb := { wa := 2 }, started := started,
    srcTags := [(0, ⟨0, false⟩), (1, ⟨2, false⟩), (2, ⟨2, false⟩)] }

/-- The test slot with that command queued. -/
def tMx (z started : Bool) (mpc : Nat) : State := (onCmds [tMma z started mpc]).setSlot 64 0 { tSlot with seq := 2 }

/-- The hypotheses of MatrixSteps on the started command `m`, alone on jet 0 of the test slot `v`: the steps that it has. -/
def mxSteps (v : Slot) (m : Cmd) : Option Nat :=
  let s := (onCmds [m]).setSlot 64 0 v
  match s.onJet 64 0, s.slot? 64 0, m.instr.mma? with
  | some n, some sl, some a =>
    let k := mmaK a.sK m.va a.fa m.ms
    if n = m ∧ mayWork sl (s.slotCmds 64 0) m ∧ hazardFree (s.slotCmds 64 0) m ∧ mxOrdered (s.slotCmds 64 0) m ∧ sl.phase = .run ∧ sl.breaks = [] ∧
        sl.trigAt = none ∧ a.acc < 32 ∧ bitmapRows m k = [] then some (32 * chunkCount a m (liveList (s.core 64) m k).length)
    else none
  | _, _, _ => none

/-- On tiles: the tags are right and the rows are correctable. -/
def mxTiles (m : Cmd) : Bool :=
  let s := onCmds [m]
  m.instr.mma?.any (fun a =>
    let p := mxPlan (s.core 64) a m (liveList (s.core 64) m (mmaK a.sK m.va a.fa m.ms))
    !p.tagBad m && !p.tileErr m (s.core 64))

/-- On the scratchpad or a tensor: every check passes, every request goes out, and the data are correctable (`some true`), or a check
refuses (`some false`). -/
def mxReads (v : Slot) (m : Cmd) : Option Bool :=
  let s := (onCmds [m]).setSlot 64 0 v
  match m.instr.mma? with
  | some a =>
    let p := mxPlan (s.core 64) a m (liveList (s.core 64) m (mmaK a.sK m.va a.fa m.ms))
    match s.mxPieces 64 v m p (operandRows false a.fa m.ma p.readA) (operandRows true a.fb m.mb p.readB) with
    | .ok ps =>
      if stepOk (s.moveGate 64 64 a.ord.scope (a.ord.ord == .acq) false ps) && !p.tileErr m (s.core 64) &&
          okE (readPieces (s.sendPieces 64 a.ord.scope false none ps) 64 64 64 a.ord.scope { evict := a.ord.evict } ps).2 then some true else none
    | .error f => if f.hold.isNone then some false else none
  | none => none

/-- The test slot with a window of 4,096 bytes at 0x2000. -/
def tWin : Slot := { tSlot with seq := 2, winBase := 0x2000, winSize := 4096 }

/-- The same MMA with A in the scratchpad at a window address, with a stride of 64, or in the tensor of `tDesc`. -/
def mmaSpad (base mpc : Nat) : Cmd := { tMma false true mpc with ma := { src := .spad, wa := BitVec.ofNat 64 base, wb := 64 } }
def mmaDesc (mpc : Nat) : Cmd :=
  { tMma false true mpc with
    ma := { src := .desc, wa := 1, wb := 0, cap := tCap, desc := { tDesc 0 with w0 := BitVec.ofNat 64 (2 ^ 63 + 2 * 2 ^ 32 + 2 ^ 27 + 2 * 2 ^ 16) , w1 := 0x0000002000000020 } } }

/-- Three MMAs of other slots on the three jets, and one that waits. -/
def tMxBusy : State :=
  let l := [{ tMma false true 0 with slot := 1, jet := 0 }, { tMma false true 0 with slot := 2, jet := 1 }, { tMma false true 0 with slot := 3, jet := 2 }]
  (onCmds (l ++ [tMma false false 0])).setSlot 64 0 { tSlot with seq := 2 }

theorem wit_MatrixSteps :
    -- no ready command; one that starts on the lowest free jet; one whose jets are busy
    (tH.core 64).cmds = [] ∧
    (((tMx false false 0).core 64).cmds = [] ++ tMma false false 0 :: [] ∧ (tMma false false 0).started = false ∧
      isHead ((tMx false false 0).core 64).cmds (tMma false false 0) = true ∧ (tMx false false 0).cmdReady 64 { tSlot with seq := 2 } (tMma false false 0) = true ∧
      (tMma false false 0).instr.mma?.any (fun a => a.jet == 0) = true ∧ (tMx false false 0).onJet 64 0 = none ∧ (tMma false false 0).preMark = false) ∧
    (isHead (tMxBusy.core 64).cmds (tMma false false 0) = true ∧ tMxBusy.cmdReady 64 { tSlot with seq := 2 } (tMma false false 0) = true ∧
      [0, 1, 2].all (fun j => (tMxBusy.onJet 64 j).isSome) = true) ∧
    -- steps on tiles, the first and the last, and none left
    (∀ z ∈ [false, true], ∀ n ∈ [0, 63], mxSteps { tSlot with seq := 2 } (tMma z true n) = some 64 ∧ mxTiles (tMma z true n) = true) ∧
    mxSteps { tSlot with seq := 2 } (tMma false true 64) = some 64 ∧ (tMma false true 0).ma.src = .tile ∧ (tMma false true 0).mb.src = .tile := by
  decide +kernel

theorem wit_MatrixSteps_memory :
    -- a row of A in the scratchpad, one that ends beyond the window, and a row of a tensor
    (mxSteps tWin (mmaSpad 0 0) = some 64 ∧ mxReads tWin (mmaSpad 0 0) = some true) ∧
    (mxSteps tWin (mmaSpad 4064 31) = some 64 ∧ mxReads tWin (mmaSpad 4064 31) = some false) ∧
    (mxSteps tWin (mmaDesc 0) = some 64 ∧ mxReads tWin (mmaDesc 0) = some true) ∧ (mmaSpad 0 0).ma.src = .spad ∧ (mmaDesc 0).ma.src = .desc := by
  decide +kernel

/-- An XF command of the guest slot. -/
def tXf (i : Instr) (va vb vc mpc : Nat) : Cmd :=
  { eng := .xf, slot := 0, seq := 1, instr := i, va := BitVec.ofNat 64 va, vb := BitVec.ofNat 64 vb, vc := BitVec.ofNat 64 vc, mpc := mpc, cap := tCap,
    desc := tDesc 0, cap2 := tCap, desc2 := tDesc 0 }

/-- The guest of `s` with that command queued, and the unit of its next step in service where it needs one; the commons' caches hold
what those of the guest's region do. -/
def xfOn (s : State) (m : Cmd) : State :=
  let u : List WorkUnit := [⟨5, 1, 3, 0, 1, m.unitNow⟩]
  let s := s.setRegion 64 { s.region 64 with nestTlb := (s.region 3).nestTlb, tileTlb := (s.region 3).tileTlb }
  { (s.setCore 3 { s.core 3 with cmds := [m] }).setSlot 3 0 { cur s with seq := 2 } with
    grotto := { s.grotto with bulk := { granted := u }, compress := { granted := u }, collect := { granted := u } } }

/-- The same for the guest of the tests. -/
def tXfState (m : Cmd) : State := xfOn tG m

/-- A step of `xfRead`, and of `xfWrite`, that succeeds. -/
def readOk (r : XRead) : Option (State × List Byte) :=
  match r with
  | .ok t bs => some (t, bs)
  | .res _ => none
def writeOk (r : XRes) : Option State :=
  match r with
  | .ok w => some w
  | _ => none

/-- The hypotheses that the payload steps share: the step is due and its unit is in service. -/
def payDue (s : State) (m0 : Cmd) : Bool :=
  let sl := cur s
  let m := { m0 with started := true }
  decide ((s.xfCmds 3)[0]? = some m0) && decide (s.slot? 3 0 = some sl) && decide (sl.phase = .run) && sl.breaks.isEmpty && sl.trigAt.isNone &&
    s.xfStarts 3 m0 && !m.preMark && !m.paid && !m.payloadOver && s.xfMay 3 sl m (xfPath m.instr) (cmdOrd m.instr).2 &&
    (match s.endExpired.unitState 3 sl m with | .serve => true | _ => false)

/-- The hypotheses of TransferPayloadSteps on a bulk transfer. -/
def payHyps (m0 : Cmd) : Bool :=
  let s := tXfState m0
  let z := s.endExpired
  let sl := cur s
  let m := { m0 with started := true }
  payDue s m0 && (m.mpc != 0 || (bulkRefused sl m).isNone) && m.move?.any (fun v =>
    let k := (m.len + 127) / 128
    let lo := 128 * (if v.rev = true then k - 1 - m.mpc else m.mpc)
    let n := min m.len (lo + 128) - lo
    let reads : List XAcc := (v.src.map (fun x => (⟨x.at lo, n, false⟩ : XAcc))).toList
    match v.dst with
    | some d => (readOk (z.xfRead 3 sl m m.readScope reads [⟨d.at lo, n, true⟩])).any (fun r =>
        (writeOk (r.1.xfWrite 3 sl m (d.at lo) (if v.src = none then List.replicate n v.fill else r.2))).isSome)
    | none => (readOk (z.xfRead 3 sl m m.readScope reads [])).isSome)

theorem wit_TransferPayloadSteps :
    -- the first block and the last, partial one, of each kind; the overlapping copy runs from its end
    payHyps (tXf (.bget (.cap 2) 9 9 9 0 o0 .spad) 0 64 200 0) = true ∧ payHyps (tXf (.bget (.cap 2) 9 9 9 0 o0 .spad) 0 64 200 1) = true ∧
    payHyps (tXf (.bget (.desc 1) 9 9 9 0 o0 .rsv) 0 0 128 0) = true ∧
    payHyps (tXf (.bput (.cap 2) 9 9 9 0 o0) 0 0 4096 31) = true ∧ payHyps (tXf (.bcpy .spad 9 9 9 0 o0) 0 64 200 0) = true ∧
    payHyps (tXf (.bcpy (.object 2) 9 9 9 0 o0) 0 4096 1 0) = true ∧ payHyps (tXf (.bfill .spad 9 9 0 o0 0xA5) 3968 0 128 0) = true ∧
    payHyps (tXf (.bfill (.object 2) 9 9 0 o0 0xA5) 0 0 300 2) = true := by
  decide +kernel

/-- The guest whose window holds a list: the sum of one INT32 input, at offset 0x100 of the object of table entry 1. -/
def tColl (op tag : Nat) : State :=
  let s := tTable tCap
  s.setCore 3 { s.core 3 with spad := wrBytes [] 0x2000 (leBytes 8 (tag * 256 + op) ++ leBytes 8 (2 ^ 48 + 0x100)) }

/-- The hypotheses of TransferPayloadSteps on CCOLL. -/
def collHyps (op tag : Nat) (m0 : Cmd) : Bool :=
  let s := xfOn (tColl op tag) m0
  let sl := cur s
  let m := { m0 with started := true }
  payDue s m0 && (match s.endExpired.readList 3 sl m with
    | .ok (ws, caps, ns) =>
      let y : Cmd := { m with list := ws, listCaps := caps }
      let op := bits (ws.headD 0) 3 0
      let lo := 128 * m.mpc
      let n := min y.payload (lo + 128) - lo
      let out := (XSide.object m.cap m.va.toNat).at lo
      (readOk ((s.endExpired.keepNotes 64 5 ns).xfRead 3 sl y (xfOrd m.instr).scope (collectReads y op lo n) [⟨out, n, true⟩])).any (fun r =>
        (writeOk (r.1.xfWrite 3 sl y out (if op = 3 then r.2 else
          collectBytes (bits (ws.headD 0) 12 8) op (splitBytes n (collectReads y op lo n).length r.2)))).isSome)
    | .error _ => false)

/-- The hypotheses of TransferPayloadSteps on CCMP: a block, or the header. -/
def packHyps (m0 : Cmd) (put : Bool) : Bool :=
  let s := tXfState m0
  let z := s.endExpired
  let sl := cur s
  let m := { m0 with started := true }
  let k := m.mpc % 4294967296
  let out := m.mpc / 4294967296
  let sides := streamSides m put
  payDue s m0 && (packRefused sl m put sides.1).isNone && (if k < (m.len + 127) / 128 then
      (readOk (z.xfRead 3 sl m (xfOrd m.instr).scope [⟨sides.1.at (128 * k), min m.len (128 * k + 128) - 128 * k, false⟩] [])).any (fun r =>
        (writeOk (r.1.xfWrite 3 sl m (sides.2.at (16 + out)) (leBytes 16 (blockMask r.2) ++ r.2.filter (fun b => b != 0)))).isSome)
    else (writeOk (z.xfWrite 3 sl m sides.2 (leBytes 8 m.len ++ leBytes 8 (16 + out)))).isSome)

/-- The guest whose window holds the stream of five bytes, two of them zero. -/
def tStream : State :=
  tG.setCore 3 { tG.core 3 with spad := wrBytes [] 0x2000 (leBytes 8 5 ++ leBytes 8 35 ++ leBytes 16 0b10110 ++ [1, 2, 3]) }

/-- A value of a side read. -/
def sideOk {α : Type} (r : State × Except XRes α) : Option (State × α) :=
  match r.2 with
  | .ok v => some (r.1, v)
  | .error _ => none

/-- The hypotheses of TransferPayloadSteps on CDCP. -/
def unpackHyps (m0 : Cmd) (put : Bool) : Bool :=
  let s := xfOn tStream m0
  let z := s.endExpired
  let sl := cur s
  let m := { m0 with started := true }
  let j := m.mpc % 4294967296 - 1
  let sides := streamSides m put
  payDue s m0 && decide (m.mpc % 4294967296 ≠ 0) && (sideOk (z.readOne 3 sl m sides.1 16)).any (fun h =>
    let n := min (leNat (h.2.take 8)) (128 * j + 128) - 128 * j
    decide (n ≠ 0) && (sideOk (h.1.walkStream 3 sl m sides.1 false 0 j 16)).any (fun o =>
      (sideOk (o.1.readOne 3 sl m (sides.1.at o.2) 16)).any (fun mb =>
        (sideOk (mb.1.readOne 3 sl m (sides.1.at (o.2 + 16)) (maskCount (leNat mb.2)))).any (fun bs =>
          (writeOk (bs.1.xfWrite 3 sl m (sides.2.at (128 * j)) (unpackBlock (leNat mb.2) n 0 bs.2))).isSome))))

theorem wit_TransferPayloadSteps_streams :
    collHyps 0 tagI32.code (tXf (.ccoll 2 9 9 9 0 o0) 0 0 100 0) = true ∧ collHyps 3 0 (tXf (.ccoll 2 9 9 9 0 o0) 0 0 200 1) = true ∧
    packHyps (tXf (.ccmp 2 9 9 9 0 o0 true) 0 0 200 0) true = true ∧ packHyps (tXf (.ccmp 2 9 9 9 0 o0 false) 0 0 200 (32 * 4294967296 + 2)) false = true ∧
    unpackHyps (tXf (.cdcp 2 9 9 9 0 o0 true) 0 0 0 1) true = true := by
  decide +kernel

/-- The hypotheses of TransferSingleStepsAndFlags on a flag. -/
def flagHyps (m0 : Cmd) : Bool :=
  let s := tXfState m0
  let sl := cur s
  let m := { m0 with started := true }
  decide ((s.xfCmds 3)[0]? = some m0) && s.xfMay 3 sl m 16 (flagOrd m.instr) && (earlierXf (s.slotCmds 3 0) m).isEmpty &&
    s.xfStarts 3 m0 && (match s.flagTarget 3 sl m with
     | .ok t => stepOk (s.moveGate 3 5 (xfOrd m.instr).scope false true [m.flagPiece t]) && (s.stalePiece 5 (xfOrd m.instr).scope m.capF [m.flagPiece t]).isNone &&
         !s.locPoison (t.loc 3 5) 8 (xfOrd m.instr).scope
     | .error _ => false)

/-- The hypotheses of TransferSingleStepsAndFlags on a single step. -/
def singleHyps (m0 : Cmd) : Bool :=
  let s := tXfState m0
  let m := { m0 with started := true }
  decide ((s.xfCmds 3)[0]? = some m0) && s.xfStarts 3 m0 && !m.paid && m.mpc == 0 && s.xfMay 3 (cur s) m (xfPath m.instr) (cmdOrd m.instr).2

theorem wit_TransferSingleStepsAndFlags :
    -- a store in the window's last word, an add in an object; as XFLAG and as the flag of a paid command
    flagHyps { tXf (.xflag 9 o0) 0 0 0 0 with vf := 0x0005000000000FF8 } = true ∧
    flagHyps { tXf (.xflag 9 o0) 0 0 0 0 with vf := 0x9005000000000040, capF := tCap } = true ∧
    flagHyps { tXf (.bput (.cap 2) 9 9 9 9 o0) 0 0 128 1 with vf := 0x9005000000000040, capF := tCap, paid := true } = true ∧
    (∀ i ∈ [Instr.rlstp 9 0 o0, .rlpub 2 9 9 9 0 o0 1, .crel 0 o0 .cp 0xFF, .rlqry 9 0 o0, .cstat 9 0 o0, .cbind 9 0 o0 .bc 0], singleHyps (tXf i 5 64 0 0) = true) ∧
    -- RLPUB of some entries, of too many, and through a capability without R
    (singleHyps (tXf (.rlpub 2 9 9 9 0 o0 1) 5 64 65536 0) = true ∧ tCap.grants { r := true } = true) ∧
    singleHyps (tXf (.rlpub 2 9 9 9 0 o0 1) 5 64 65537 0) = true ∧
    (singleHyps { tXf (.rlpub 2 9 9 9 0 o0 1) 5 64 1 0 with cap := {} } = true ∧ ({} : Cap).grants { r := true } = false) ∧
    -- a record that ends with the window, and one that passes its end
    (4064 + 32 = (gSlot true).winSize ∧ (gSlot true).winSize < 4065 + 32 ∧ singleHyps (tXf (.rlqry 9 0 o0) 5 4064 0 0) = true) ∧
    Meets (onCmds [tCmd .xf 0]) (.bcan 0 o0) (segmentFull tCtx .xf = false ∧ tCtx.bal = [] ∧ (onCmds [tCmd .xf 0]).pushOk 64 0 .xf = true ∧
      (cur tH).trigAt = none ∧ (cur tH).breaks = []) := by
  decide

/-- Partition 5 with a published schedule of one entry, of object tile `first` through entry 1 of its capability table, and a
grant. -/
def tRill (first : Nat) : State :=
  let s := tTable tCap
  { s.setRegion 64 { tRegion (leafOf 0 9) with state := .dirty, part := 0xFF } with
    grotto := { s.grotto with rillA := { granted := [⟨5, 65536, 0, 0, 0, 0⟩] } }
    mem := wrBytes s.mem (9 * 2 ^ 21 + 0x10000) (leBytes 4 0 ++ leBytes 2 1 ++ leBytes 2 0 ++ leBytes 8 (2 ^ 40 + first)),
    parts := (5, { tPart with captb := 0x30000, rill := { pub := true, cap := tCap, count := 1, k := 4 } }) :: tH.parts }

/-- The target of the tile that the Rill wants there. -/
def tRillTarget (first : Nat) : Option Target :=
  ((tRill first).rillWanted 5 1).head?.bind (fun w => ((tRill first).rillTarget 5 w.2.1 w.2.2).toOption)

theorem wit_CommonsAndRill :
    (payUnits 5 100 [⟨5, 60, 3, 0, 1, 0⟩, ⟨5, 60, 3, 0, 1, 1⟩]).2.1.find? (fun x => x.part == 5) = some ⟨5, 60, 3, 0, 1, 1⟩ ∧
    ((({ pending := [⟨5, 60, 3, 0, 1, 0⟩] } : Arbiter).pending.filter (fun u => u.part == 5)) ≠ [] ∧
      (({ pending := [⟨5, 60, 3, 0, 1, 0⟩] } : Arbiter).pending.filter (fun u => u.part == 64)) = []) ∧
    (let b : Binding := { kind := .bc, index := 1, part := 5, till := 0, queue := [⟨5, 60, 3, 0, 1, 0⟩, ⟨5, 60, 3, 0, 1, 1⟩] }
     (1 < EngKind.bc.count) ∧ [b].filter (fun e => e.kind == .bc && e.index == 1 && decide (e.till ≤ tH.tick)) = [b]) ∧
    -- no grant, a grant without a tile to fetch, one whose tile lies beyond the object, and one whose tile is fetched
    tG.grotto.rillA.granted = [] ∧ ((tRill 0).grotto.rillA.granted = [⟨5, 65536, 0, 0, 0, 0⟩] ∧ tG.rillWanted 5 1 = []) ∧
    (((tRill 1).rillWanted 5 1).length = 1 ∧ tRillTarget 1 = none) ∧
    ((tRill 0).rillWanted 5 1).length = 1 ∧
    (tRillTarget 0).any (fun t => decide (t.aper = .pool) && stepOk ((tRill 0).moveGate 64 5 3 false false (tilePieces t)) && !(tRill 0).locPoison (t.loc 64 5) 65536 3 &&
      decide ((((tRill 0).keepNotes 64 5 t.notes).part 5).lines.length + (linesOf t.addr 65536).length ≤ ((tRill 0).keepNotes 64 5 t.notes).resRoom 5)) = true := by
  decide +kernel

/-- A task record of 64 bytes: CODE with the bits above it, JOIN, PRIO, BANKS, SPKIB, PIN and EXT. -/
def tRec (code join prio banks spkib pin ext : Nat) : List Byte :=
  leBytes 8 code ++ leBytes 8 0x1234 ++ leBytes 2 join ++ leBytes 1 prio ++ leBytes 1 banks ++ leBytes 4 spkib ++ leBytes 1 0xFF ++ leBytes 1 pin ++ leBytes 2 0 ++
    leBytes 32 0 ++ leBytes 4 ext

/-- A record that passes every check. -/
def goodRec : List Byte := tRec 0x100 0 3 15 4 0x7F 0

/-- The task of the guest slot. -/
def gTask : Task := { loadTask with part := 5, core := 3 }

/-- A guest at a level with a record at offset 64 of c2's object, whose own task is `me`, in a partition with `n` task entries;
region 4 is HELD by it. -/
def tSpawn (sup : Bool) (r : List Byte) (me : Task) (n : Nat) : State :=
  { (guest (leafOf 0 9) (gSlot sup)).setRegion 4 { state := .held, part := 5 } with
    mem := wrBytes tH.mem (9 * 2 ^ 21 + 0x10040) r, parts := (5, { tPart with cqsize := BitVec.ofNat 64 n, tasks := [me] }) :: tH.parts }

/-- TSPAWN of that record issues normally, and its record is read. -/
def spawns (s : State) (r : List Byte) (dep : Bool) : Bool :=
  issuesB s (cur s) (.tspawn 5 2 9 0 dep) && s.quiet (cur s) && (s.task? 5 1).isSome &&
    (match s.readObj (cur s) ((cur s).ctx.cap 2) 64 64 64 with
     | .ok _ v => v == leNat r
     | _ => false)

theorem wit_SpawnsAndDependencies :
    -- records that break a rule, each in one field at its boundary
    [tRec (2 ^ 49) 0 0 0 0 0x7F 0, tRec 0 0 8 0 0 0x7F 0, tRec 0 0 0 32 0 0x7F 0, tRec 0 0 0 0 513 0x7F 0, tRec 0 0 0 0 0 64 0, tRec 0 0 0 0 0 0x7F 56,
      tRec 0 0 0 0 0 0x7F 68].all (fun r => spawns (tSpawn true r gTask 4) r false) = true ∧
    -- SUP and PIN of a user; a region not held; a HELD one; no entry; an entry, with and without .dep; a full JOIN; 64 edges
    [tRec (2 ^ 48) 0 0 0 0 0x7F 0, tRec 0 0 0 0 0 3 0].all (fun r => spawns (tSpawn false r gTask 4) r false) = true ∧
    [tRec 0 0 7 31 512 63 0, tRec 0 0 0 0 0 4 0].all (fun r => spawns (tSpawn true r gTask 4) r false) = true ∧
    ((tSpawn true [] gTask 4).holds 5 63 = false ∧ (tSpawn true [] gTask 4).holds 5 4 = true ∧ (tSpawn true [] gTask 4).holds 5 3 = true) ∧
    (spawns (tSpawn true goodRec gTask 1) goodRec true = true ∧ (tSpawn true goodRec gTask 1).hasEntry 5 = false) ∧
    (spawns (tSpawn true goodRec gTask 2) goodRec true = true ∧ spawns (tSpawn false goodRec gTask 2) goodRec false = true ∧ (tSpawn true goodRec gTask 2).hasEntry 5 = true) ∧
    spawns (tSpawn true (tRec 0 65535 0 0 0 0x7F 0) gTask 2) (tRec 0 65535 0 0 0 0x7F 0) true = true ∧
    spawns (tSpawn true goodRec { gTask with edges := List.replicate 64 9 } 2) goodRec true = true ∧
    -- TDEP: no Pending dependant; no such source; a full JOIN; 64 edges; an edge
    (∀ g ∈ [true, false], Meets tG (.tdep 5 9 0 g) ((tG.task? 5 0).isNone = true)) ∧
    Meets (onRegs [(9, 256)]) (.tdep 5 9 0 true) (255 < ((cur (onRegs [(9, 256)])).ctx.reg 9).toNat) := by
  decide

/-- A Pending task of id 2. -/
def pTask (j : Nat) : Task :=
  { gTask with
    id := 2
    state := TState.pending
    join := j }

/-- The guest with a second, Pending task of id 2 and the first's edges. -/
def tDep (j e : Nat) (a : Word) : State :=
  { guest (leafOf 0 9) { gSlot true with ctx := { tCtx with regs := [(9, a), (10, 2)] } } with
    parts := (5, { tPart with nextId := 3, tasks := [{ gTask with edges := List.replicate e 9 }, pTask j], groups := [(7, { members := [1] })] }) :: tH.parts }

theorem wit_SpawnsAndDependencies_tdep :
    Meets (tDep 1 0 3) (.tdep 5 9 10 false) (((tDep 1 0 3).part 5).nextId = 3) ∧ Meets (tDep 1 0 0) (.tdep 5 9 10 false) ((cur (tDep 1 0 0)).ctx.reg 9 = 0) ∧
    [(0, false), (9, false), (9, true)].all (fun x => decide (Meets (tDep 65535 0 (if x.2 then 7 else 1)) (.tdep 5 x.1 10 x.2) (((tDep 65535 0 1).task? 5 2).any (fun d => d.state == .pending) = true) ∧
      Meets (tDep 1 64 (if x.2 then 7 else 1)) (.tdep 5 x.1 10 x.2) (((tDep 1 64 1).task? 5 1).any (fun t => decide (64 ≤ t.edges.length)) = true) ∧
      Meets (tDep 65534 63 (if x.2 then 7 else 1)) (.tdep 5 x.1 10 x.2) (((tDep 65534 63 1).task? 5 1).any (fun t => !t.trig && decide (t.edges.length < 64)) = true))) = true := by
  decide

/-- The guest slot `v`, its task `t`. -/
def tTask (v : Slot) (t : Task) : State := { guest (leafOf 0 9) v with parts := (5, { tPart with tasks := [t] }) :: tH.parts }

theorem wit_TaskLifeInstructions :
    Meets (onSlot tInPipe) .tend (tInPipe.ctx.pipe ≠ none) ∧
    Meets (onCtx { tCtx with bal := [(4, 1)] }) .tend ((cur (onCtx { tCtx with bal := [(4, 1)] })).ctx.bal.all (fun q => q.2 == 0) = false) ∧
    Meets tH .tend ((cur tH).ctx.bal = [] ∧ (cur tH).breaks = [] ∧ (cur tH).trigAt = none ∧ (tH.queued 64 0).all (fun m => m.marker) = true ∧ (cur tH).p0 = []) ∧
    Meets (onCmds [tCmd .va 1]) .tend (((onCmds [tCmd .va 1]).queued 64 0).all (fun m => m.marker) = false) ∧
    Meets (tTask (gSlot true) { gTask with trig := true }) .ttrig ((tTask (gSlot true) { gTask with trig := true }).task? 5 1 = some { gTask with trig := true }) ∧
    Meets (tTask { gSlot true with trigAt := some 0 } gTask) .ttrig ((tTask { gSlot true with trigAt := some 0 } gTask).task? 5 1 = some gTask) ∧
    Meets tG .ttrig (quietBefore (cur tG) tG.cmdsHere 1 = true ∧ tG.task? 5 1 = some gTask) ∧
    Meets (onSlot { tSlot with p0 := [tAcc (.store 1)], seq := 2 }) .ttrig (quietBefore { tSlot with p0 := [tAcc (.store 1)], seq := 2 } [] 2 = false) ∧
    Meets (onSlot tInPipe) .tyld (tInPipe.ctx.pipe ≠ none) ∧ Meets tH .tyld (tSlot.pastWord.ctx.delay = none) ∧
    Meets tDelay .tyld ((cur tDelay).pastWord.ctx.delay ≠ none) ∧
    (∀ i ∈ [Instr.tself 5 .id, .tself 5 .parent, .tself 5 .frame, .tself 0 .launch], Meets tG i (tG.task? 5 1 = some gTask)) ∧
    Meets (onRegs [(10, 8)]) (.tprio 5 0 10) ((cur (onRegs [(10, 8)])).ctx.reg 10 = 8) ∧
    Meets (tTask { gSlot false with ctx := { tCtx with regs := [(10, 1)] } } gTask) (.tprio 5 0 10) (slotLevel 3 (gSlot false) = .u ∧ gTask.prio < 1) ∧
    Meets (tTask { gSlot true with ctx := { tCtx with regs := [(9, 7), (10, 7)] } } gTask) (.tprio 5 9 10) (slotLevel 3 (gSlot true) = .s) ∧
    Meets (tTask { gSlot true with ctx := { tCtx with regs := [(10, 7)] } } gTask) (.tprio 5 0 10) (slotLevel 3 (gSlot true) ≠ .u) ∧
    Meets (tDep 1 0 2) (.tprio 5 9 0) (((tDep 1 0 2).task? 5 2).any (fun t => t.state == .pending) = true) := by
  decide

/-- The guest in group 255 with these members and arrivals. -/
def tGroup (m a : List Nat) (t : Task) (v : Slot) : State :=
  { guest (leafOf 0 9) v with parts := (5, { tPart with tasks := [t], groups := [(255, { members := m, arrived := a, phase := 18446744073709551615 })] }) :: tH.parts }

theorem wit_GroupInstructions :
    (∀ i ∈ [Instr.gjoin 5 0 256, .gleave 5 0 256, .gbar 5 0 256, .gmem 5 0 256], Meets tG i (255 < 256)) ∧
    -- already a member; in eight groups; a new member
    [{ gTask with groups := [255] }, { gTask with groups := List.range 8 }, { gTask with groups := List.range 7 }].all (fun t =>
      decide (Meets (tGroup [] [] t (gSlot true)) (.gjoin 5 0 255) ((tGroup [] [] t (gSlot true)).task? 5 1 = some t))) = true ∧
    -- leaving: no member, alone, with one more, and as the last that had not arrived
    [([], []), ([1], []), ([1, 2], []), ([1, 2], [2])].all (fun m => decide (Meets (tGroup m.1 m.2 gTask (gSlot true)) (.gleave 5 0 255) (((tGroup m.1 m.2 gTask (gSlot true)).group 5 255).members = m.1) ∧
      Meets (tGroup m.1 m.2 gTask (gSlot true)) (.gbar 5 0 255) (((tGroup m.1 m.2 gTask (gSlot true)).group 5 255).arrived = m.2 ∧ (gSlot true).ctx.pipe = none ∧ (gSlot true).p0 = [] ∧
        (tGroup m.1 m.2 gTask (gSlot true)).cmdsHere = []))) = true ∧
    Meets (tGroup [1] [] gTask { gSlot true with p0 := [tAcc (.store 1)], seq := 2 }) (.gbar 5 0 255) ({ gSlot true with p0 := [tAcc (.store 1)] }.p0 ≠ []) ∧
    Meets (tGroup [1] [] gTask { tInPipe with part := 5 }) (.gbar 5 0 255) (tInPipe.ctx.pipe ≠ none) ∧ Meets tG (.gmem 5 0 255) (255 ≤ 255) := by
  decide

/-- The guest's target of c2 at s9, for an access. -/
def tAt (s : State) (k : AccKind) : Option Target := (objAccess s 3 5 tCap 64 8 8 k).toOption

/-- A lease-bound capability for that object. -/
def tBound : Cap := { tCap with w0 := toW (2 ^ 63 + 2 ^ 61 + 2 ^ 60 + 2 ^ 59 + 2 ^ 58 + 2 ^ 52) }

/-- The guest with that capability in c2, whose partition holds a step lease that the pool has given to another package since. -/
def tStale : State :=
  { guest (leafOf 0 9) { gSlot true with ctx := { tCtx with caps := [(2, tBound)] } } with
    parts := (5, { tPart with lease := { st := .live, name := 7, token := 3, till := 1000000 } }) :: tH.parts
    links := { tLinks with leases := [{ name := 7, holder := some (.other 9 0), token := 4, till := 9000000 }] } }

/-- The guest with its task parked on that word, until it reaches `b`. -/
def tParked (b : Word) : State := tTask (gSlot true) { gTask with state := .parkedWait, wait := some (.timeline 0 64 0 b tCap) }

theorem wit_TimelinesAndResidency :
    (∀ i ∈ [Instr.tlset 5 2 9 9 3, .tlinc 5 2 9 9 5], Meets tG i (tG.quiet (cur tG) = true ∧
      (tAt tG kAtom).any (fun t => (tG.nowGate 3 5 (nowPiece t 8 64 tCap.oid) 5 true).isNone && (tG.stalePiece 5 5 tCap [nowPiece t 8 64 tCap.oid]).isNone &&
        !tG.locPoison (t.loc 3 5) 8 5) = true)) ∧
    -- a request, and a walk, that wait for a route; a lease that the pool no longer counts
    (∀ i ∈ [Instr.tlset 5 2 9 9 3, .tlinc 5 2 9 9 5, .tlwait 5 2 9 9 5], Meets (noRoute tG) i ((tAt (noRoute tG) kAtom).any (fun t =>
      ((noRoute tG).nowGate 3 5 (nowPiece t 8 64 tCap.oid) 5 true).any (fun f => f.hold == some .conduit)) = true) ∧
      Meets tGWalk i ((objErr tGWalk 64 8 kAtom).any (fun f => f.hold == some .conduit) = true)) ∧
    (∀ i ∈ [Instr.tlset 5 2 9 9 5, .tlinc 5 2 9 9 5], Meets tStale i ((tAt tStale kAtom).any (fun t =>
      (tStale.nowGate 3 5 (nowPiece t 8 64 tBound.oid) 5 true).isNone && (tStale.stalePiece 5 5 tBound [nowPiece t 8 64 tBound.oid]).isSome) = true)) ∧
    tG.parts.all (fun q => q.2.tasks.all (fun x => x.wait.isNone)) = true ∧
    (∀ i ∈ [Instr.tlset 5 1 9 9 3, .tlinc 5 1 9 9 5, .tlwait 5 1 9 9 3, .tlget 5 1 9 5], Meets tG i ((objAccess tG 3 5 {} 64 8 8 kAtom).isOk = false)) ∧
    Meets (guest (leafOf 0 9) { tInPipe with part := 5 }) (.tlwait 5 2 9 9 3) (tInPipe.ctx.pipe ≠ none) ∧
    -- the word is zero: the target 0 is reached, 64 is not
    [0, 9].all (fun b => decide (Meets tGLocal (.tlwait 5 2 9 b 3) (p0Free (cur tGLocal) tGLocal.cmdsHere 1 0 .acq = true ∧ readsNow tGLocal 64 8 3 = some 0 ∧ (cur tGLocal).p0 = []))) = true ∧
    Meets tGLocal (.tlget 5 2 9 3) (readsNow tGLocal 64 8 3 = some 0) ∧ Meets tG (.tlget 5 2 9 3) ((tAt tG kLoad).any (fun t => decide (tG.accRoute 5 t 8 3 false = some (.sent 0))) = true) ∧
    -- a parked task: none parked; its word out of reach; below and at its target
    (tG.task? 5 1).all (fun t => t.state != .parkedWait) = true ∧
    ((tParked 1).timelineValue gTask 64 0 tCap).any (fun x => x.2 == 0) = true ∧ ((tParked 1).timelineValue gTask 65536 0 tCap).isNone = true ∧
    ((tParked 0).task? 5 1).any (fun t => decide (t.state = .parkedWait ∧ t.wait = some (.timeline 0 64 0 0 tCap))) = true := by
  decide

/-- The guest with these residency entries in its region. -/
def tResid (l : List ResEntry) (a b : Nat) : State :=
  let s := guest (leafOf 0 9) { gSlot true with ctx := { tCtx with regs := [(9, BitVec.ofNat 64 a), (10, BitVec.ofNat 64 b)] } }
  s.setRegion 3 { s.region 3 with resid := l }

theorem wit_TimelinesAndResidency_tiles :
    (∀ i ∈ [Instr.resq 5 9 10 0x7F, .reshint 9 10 3 true 7, .reshint 9 10 3 false 1],
      Meets (tResid [] 65536 0) i (65536 ≤ 65536) ∧ Meets (tResid [] 0 1099511627776) i (1099511627776 ≤ 1099511627776) ∧ Meets (tResid [] 65535 1099511627775) i (65535 < 65536)) ∧
    (∀ i ∈ [Instr.resq 5 9 10 63, .reshint 9 10 63 true 7], Meets (tResid [] 0 0) i ((tResid [] 0 0).holds 5 63 = false)) := by
  decide

/-- The guest's partition with a Ready task, fresh or aged, and core 3 with free slots. -/
def tReady (age : Nat) : State :=
  { tG with parts := (5, { tPart with tasks := [gTask, { gTask with id := 2, state := .ready, fresh := true, banks := 0, age := age }] }) :: tH.parts }

/-- The guest slot in a LOOPP segment, or draining, or waiting to be saved, or with a spent slice. -/
def tPre (seg : Seg) (forced : Bool) : Slot := { tInPipe with part := 5, ctx := { tInPipe.ctx with pipe := some { tPipe with seg := seg, forced := forced } } }

/-- The guest with a slice budget. -/
def tSlice (t : Task) : State := { tG with parts := (5, { tPart with sliceb := 100, tasks := [gTask, t] }) :: tH.parts }

/-- A pended handler record of the fontanier or of partition 5. -/
def tPend (hv : Bool) : State :=
  { tG with grotto := { tG.grotto with hvhndl := 0xF0FF000000000100, pend := [{ part := if hv then 64 else 5, hv := hv, fault := ctlFault 0x07 (gSlot true), fpart := 5, ftask := 1 }] } }

theorem wit_DispatchAndSlotEvents :
    tH.choose 64 = none ∧ tH.choose 0 = none ∧ ((tReady 0).choose 5).any (fun x => x.1.id == 2 && x.2 == (3, 1) && x.1.frameAt.isNone && x.1.group == 0xFF) = true ∧
    ((tReady 32768).choose 5).isSome = true ∧
    -- a dispatch that reads at once, and one whose reads wait for a route
    ((tReady 0).choose 5).any (fun x => ((tReady 0).dispatchWaits x.1 3).isNone) = true ∧
    (((noRoute (tReady 0)).setRegion 3 { state := .owned, part := 5 }).choose 5).any (fun x =>
      (((noRoute (tReady 0)).setRegion 3 { state := .owned, part := 5 }).dispatchWaits x.1 3).isSome) = true ∧
    (tPre .prologue false).phase = .run ∧ (tPre .prologue false).ctx.delay = none ∧ (tPre .kernel false).ctx.pipe.any (fun q => q.seg == .kernel && !q.forced) = true ∧
    (tPre .epilogue false).ctx.pipe.any (fun q => q.seg != .kernel) = true ∧
    -- before the limit of the drain, and at it
    ({ tG with tick := 19999 }.tick < 20000 ∧ (20000 : Nat) ≤ { tG with tick := 20000 }.tick ∧ ({ gSlot true with phase := .drain 20000 } : Slot).phase = .drain 20000 ∧ (gSlot true).p0 = []) ∧
    -- a slice that is not spent for want of a budget; spent, with a task that waits and without one
    (tG.budget 5 = 0 ∧ (tSlice gTask).budget 5 ≠ 0 ∧ (tSlice gTask).sliceLeft 3 (gSlot true) = 0) ∧
    (((tSlice { gTask with id := 2, state := .ready, fresh := true, banks := 0 }).part 5).tasks.any ((tSlice { gTask with id := 2, state := .ready, fresh := true, banks := 0 }).wanted 3 0) = true ∧
      ((tSlice { gTask with id := 2, state := .pending }).part 5).tasks.any ((tSlice { gTask with id := 2, state := .pending }).wanted 3 0) = false) ∧
    (tH.grotto.pend.find? (fun h => tH.hasEntry h.part) = none ∧ (∀ hv ∈ [true, false], ((tPend hv).grotto.pend.find? (fun h => (tPend hv).hasEntry h.part)).isSome = true)) ∧
    ({ gSlot true with saving := some .requeue } : Slot).saving = some .requeue := by
  decide

/-- The guest slot `v` of task 1 beside a task, with HNDL. -/
def tPair (v : Slot) (t : Task) (h : Word) : State :=
  { guest (leafOf 0 9) v with parts := (5, { tPart with hndl := h, tasks := [gTask, t], nextId := 3, cqsize := 2 }) :: tH.parts }

/-- The fontanier with s9 = `a`, beside that task of partition 5. -/
def tPairH (a : Word) (t : Task) (h : Word) : State :=
  let s := tPair (gSlot true) t h
  { s.setSlot 64 0 { tSlot with ctx := { tCtx with regs := [(9, a), (10, 64)] } } with curCore := 64 }

/-- Task 2 of partition 5 in a state, its frame in slot 0. -/
def sTask (st : TState) : Task := { gTask with id := 2, state := st, frameAt := some 0, frame := 7 }

/-- The guest slot with s9 and s10. -/
def gRegs (sup : Bool) (a b : Word) : Slot := { gSlot sup with ctx := { tCtx with regs := [(9, a), (10, b)] } }

/-- FLTTASK of task 2 of partition 5. -/
def fltOf (v : Slot) : Slot := { v with flt := { v.flt with task := 0x0005000000000002 } }

theorem wit_TrapsReturns :
    (∀ i ∈ [Instr.trap 9 65535 true, .trap 0 0 false], Meets tG i (3 = tG.curCore ∧ (cur tG).ctx.delay = none)) ∧
    -- in a delay slot, outside a LOOPP
    Meets tDelay (.trap 9 1 false) ((cur tDelay).ctx.delay = some ⟨64, 2⟩ ∧ (cur tDelay).ctx.pipe = none) ∧
    -- inside a LOOPP, and with a balance of one
    Meets (onSlot tInPipe) (.eret 9 .res) (tInPipe.ctx.pipe ≠ none) ∧
    Meets (onCtx { tCtx with bal := [(7, 1)] }) (.eret 0 .kill) (((7, 1) :: tCtx.bal).all (fun q => q.2 == 0) = false) ∧
    -- the selector's reserved bits, at H and at S, and what is just within them
    Meets (onRegs [(9, 0x0040000000000000)]) (.eret 9 .refl) (2 ^ 54 ≤ (0x0040000000000000 : Word).toNat) ∧
    (Meets (tPair (gRegs true 0x0001000000000000 0) (sTask .failed) 0) (.eret 9 .kill) (slotLevel 3 (gSlot true) ≠ .h ∧ 2 ^ 48 ≤ (0x0001000000000000 : Word).toNat)) ∧
    Meets (onRegs [(9, 0x003FFFFFFFFFFFFF)]) (.eret 9 .kill) ((tH.task? 63 0xFFFFFFFFFFFF).isNone = true) ∧
    -- a target that the form does not accept at S; FLTTASK zero
    Meets (tPair (gRegs true 2 0) (sTask .parkedFault) 0) (.eret 9 .res) (((tPair (gRegs true 2 0) (sTask .parkedFault) 0).task? 5 2).any (fun t => t.state == .parkedFault) = true) ∧
    (∀ f ∈ [EretForm.res, .kill], Meets tG (.eret 0 f) ((gSlot true).flt.task = 0)) ∧
    -- accepted, at S and at H, by register and by FLTTASK
    ([EretForm.res, .kill].all (fun f => decide (Meets (tPair (gRegs true 2 0) (sTask .failed) 0) (.eret 9 f)
        ((tPair (gRegs true 2 0) (sTask .failed) 0).task? 5 2 = some (sTask .failed) ∧ (tPair (gRegs true 2 0) (sTask .failed) 0).slotOf 5 2 = none) ∧
      Meets (tPair (fltOf (gSlot true)) (sTask .failed) 0) (.eret 0 f) ((tPair (fltOf (gSlot true)) (sTask .failed) 0).task? 5 2 = some (sTask .failed)))) = true) ∧
    (∀ f ∈ [EretForm.res, .kill, .refl], Meets (tPairH 0x0005000000000002 (sTask .parkedFault) 0) (.eret 9 f)
      ((tPairH 0x0005000000000002 (sTask .parkedFault) 0).task? 5 2 = some (sTask .parkedFault) ∧ (sTask .parkedFault).lost = false)) ∧
    [0x8000000000000000, (0 : Word)].all (fun h => decide (Meets (tPairH 0x0005000000000002 { sTask .parkedFault with fault := some { code := 5, addr := 8 } } h) (.eret 9 .refl)
      (((tPairH 0x0005000000000002 (sTask .parkedFault) h).part 5).hndl.getLsbD 63 = decide (h ≠ 0) ∧ (tPairH 0 (sTask .parkedFault) h).host.log.length < 1024))) = true ∧
    -- the issuer's own accesses: all performed, one outstanding; a target that still holds its slot
    ((tPair (gRegs true 2 0) (sTask .failed) 0).quiet (gRegs true 2 0) = true ∧ (tPair (gRegs true 2 0) (sTask .failed) 0).queued 3 0 = [] ∧ (gRegs true 2 0).p0 = [] ∧ (gRegs true 2 0).breaks = [] ∧ (gRegs true 2 0).trigAt = none) ∧
    Meets (tPair { gRegs true 2 0 with p0 := [tAcc (.store 1)], seq := 2 } (sTask .failed) 0) (.eret 9 .res)
      ((tPair { gRegs true 2 0 with p0 := [tAcc (.store 1)], seq := 2 } (sTask .failed) 0).quiet { gRegs true 2 0 with p0 := [tAcc (.store 1)], seq := 2 } = false) ∧
    Meets ((tPair (gRegs true 2 0) (sTask .failed) 0).setSlot 3 1 { gSlot true with task := 2 }) (.eret 9 .res)
      ((((tPair (gRegs true 2 0) (sTask .failed) 0).setSlot 3 1 { gSlot true with task := 2 }).slotOf 5 2).isSome = true) := by
  decide

/-- The test slot at an offset with a FENCE that still stands before its next word, or none. -/
def tFetch (pc : Nat) (first : Option FaultRec) : Slot := { tSlot with ctx := { tCtx with pc := pc }, first := first }

/-- The word of an instruction with bits added. -/
def plus (i : Instr) (n : Nat) : Nat := Nat.lor (encode i) n

/-- A fetch whose line is uncorrectable in the package. -/
def tLost : State := { onSlot (tFetch 0 none) with memErr := [8196] }

/-- The last word of the slip window, with a command of the iteration before the last that is not done. -/
def tSlip : Slot := { tInPipe with ctx := { tInPipe.ctx with pipe := some { tPipe with iter := 1 } } }

/-- The word of an MMA with SCOPE 6. -/
def wScope : Nat := 0x5008DD4322331F00

theorem wit_BadWords :
    -- fetches: a fault left by dispatch, an offset beyond the code object, one that passes
    ((onSlot (tFetch 0 (some { code := 0x13, addr := 0 }))).fetch 64 (tFetch 0 (some { code := 0x13, addr := 0 }))).isOk = false ∧
    (tH.fetch 64 (tFetch 65536 none)).isOk = false ∧ (tH.fetch 64 (tFetch 0 none)).isOk = true ∧
    (tFetch 65536 none).issues = true ∧ slipOk (tFetch 65536 none) [] = true ∧
    -- one that waits for a route, one that meets uncorrectable data, one whose segment may not begin yet
    ((match (noRoute tG).fetch 3 (gSlot true) with
      | .ok _ => false
      | .error f => f.hold == some .conduit) && (match tLost.fetch 64 (tFetch 0 none) with
      | .ok _ => false
      | .error f => f.code == 0x0E && f.hold.isNone)) = true ∧
    (slipOk tSlip [toP7 true] = false ∧ tSlip.issues = true ∧ tSlip.ownFault = none) ∧
    -- words: an instruction; none; one with a field refused, of an absent feature, in a delay slot, near a loop's end, above its level
    (decodeWord (encode (.feat 5 .acc))).isSome = true ∧ decode 0 = .illegal ∧ decode (2 ^ 64 - 1) = .illegal ∧
    decode (encode (.cmp 0 63 63 .ntst)) = .refused 0x02 ∧ wordFeature (encode (.cmp 0 63 63 .ntst)) = none ∧
    wordTransfer (encode (.cmp 0 63 63 .ntst)) = false ∧ wordLevel (encode (.cmp 0 63 63 .ntst)) = .u ∧
    [plus (.vqln (.h 4 0) (.h 5 0) ⟨.ln6, .rup, false⟩ 1 3) (2 ^ 19), plus (.loop 1 0 0 0) (2 ^ 45), plus (.tlbiv 5 9 9 .all) (2 ^ 34)].all
      (fun w => (decodeWord w).isNone && decide (decode w = .refused 2)) = true ∧
    -- words whose SCOPE is 6, with values that the instruction takes and with a K that it does not
    [wScope, plus (.lds 5 2 9 ⟨3, .acq, 5, 1⟩ .w (-8)) (2 ^ 28)].all (fun w => decide (decode w = .refused 0x11) &&
      (build w).any (fun i => i.valuesOk tCtx tH.feature && !dependStall tSlot i && (dueFault tSlot i).isNone)) = true ∧
    (build wScope).any (fun i => !i.valuesOk { tCtx with regs := [(40, 3)] } tH.feature) = true ∧
    wordFeature (plus (.vqln (.h 4 0) (.h 5 0) ⟨.ln6, .rup, false⟩ 1 3) (2 ^ 19)) = some 0 ∧ ({ tH with host := {} } : State).feature 0 = false ∧
    (wordTransfer (plus (.loop 1 0 0 0) (2 ^ 45)) = true ∧ (cur tDelay).ctx.delay ≠ none) ∧
    (slotLevel 3 (cur tU)).rank < (wordLevel (plus (.tlbiv 5 9 9 .all) (2 ^ 34))).rank := by
  decide

/-- The guest slot `v` beside task `t` of its partition, whose page is LOCAL, in the pinned reserve, and whose frame slots lie
from 0x100000 on; `m` stands in system memory. -/
def tSaved (v : Slot) (t : Task) (m : Bytes) : State :=
  { guest (leafOf 1 9) v with
    mem := m, parts := (5, { tPart with tasks := [gTask, t], nextId := 3, pinned := [9], frmbase := 0x100000 }) :: tH.parts }

/-- The Failed task of those states, with no bank and no window. -/
def fTask : Task := { sTask .failed with banks := 0 }

/-- A slot that names task 2 in s9, with s10 = `b`. -/
def fSlot (b : Word) : Slot := gRegs true 2 b

/-- The state of the witnesses of saved contexts. -/
def tF (b : Word) : State := tSaved (fSlot b) fTask tH.mem

/-- The bytes of the saved frame of that task. -/
def fBytes (s : State) (t : Task) : List Byte :=
  match s.savedFrame t 0 with
  | .ok (b, _) => b
  | .error _ => []

/-- That task's frame slot lies in a page that is not mapped. -/
def tFar : State := tSaved (fSlot 0) { fTask with frameAt := some 20 } []

/-- What a target gives. -/
def targetIs (s : State) (sl : Slot) (sa : Nat) (p : Task → Bool) (t : Task) : Bool :=
  match s.target sl sa p with
  | .ok u => decide (u = t)
  | .error _ => false

theorem wit_SavedContextInstructions_items :
    [0, 1, 63, 0x40, 0x43, 0x44, 0x48, 0x4B, 0x50, 0x51, 0x52, 0x53, 0x54, 0x55, 0x56, 0x57].all (fun n => decide (Meets (tF 0) (.mfsp 5 9 n) (targetIs (tF 0) (fSlot 0) 9 (mfspTakes .s) fTask = true))) = true ∧
    (tF 0).unsaved fTask = false ∧ ((tF 0).savedFrame fTask 0).isOk = true ∧ fTask.frameAt = some 0 ∧
    -- a target that still holds its slot; one that is not taken
    Meets ((tF 0).setSlot 3 1 { gSlot true with task := 2 }) (.mfsp 5 9 1) (((tF 0).setSlot 3 1 { gSlot true with task := 2 }).unsaved fTask = true ∧
      targetIs ((tF 0).setSlot 3 1 { gSlot true with task := 2 }) (fSlot 0) 9 (mfspTakes .s) fTask = true) ∧
    Meets (tSaved (fSlot 0) (sTask .parkedFault) []) (.mfsp 5 9 1) (((tSaved (fSlot 0) (sTask .parkedFault) []).target (fSlot 0) 9 (mfspTakes .s)).isOk = false) ∧
    Meets (tSaved (gRegs true 0x0001000000000000 0) fTask []) (.mfsp 5 9 1) (((tSaved (gRegs true 0x0001000000000000 0) fTask []).target (gRegs true 0x0001000000000000 0) 9 (mfspTakes .s)).isOk = false) ∧
    -- MTSP: a delay that is not zero; a BT of 2^48; the greatest that it takes; a frame that cannot be reached
    Meets (tF 1) (.mtsp 9 10 0x51) (targetIs (tF 1) (fSlot 1) 9 (stopped .s) fTask = true ∧ (1 : Word).toNat ≠ 0) ∧
    [0x40, 0x43].all (fun n => decide (Meets (tF 0x0001000000000000) (.mtsp 9 10 n) (targetIs (tF 0x0001000000000000) (fSlot 0x0001000000000000) 9 (stopped .s) fTask = true) ∧
      Meets (tF 0x0000FFFFFFFFFFFF) (.mtsp 9 10 n) (itemRefuses (tF 0).feature n 0xFFFFFFFFFFFF = false))) = true ∧
    [0, 1, 63, 0x44, 0x48, 0x4B, 0x50, 0x51, 0x52, 0x53, 0x54, 0x57].all (fun n => decide (Meets (tF 0) (.mtsp 9 10 n) (targetIs (tF 0) (fSlot 0) 9 (stopped .s) fTask = true)) && (n == 0x44 || !itemRefuses (tF 0).feature n 0)) = true ∧
    Meets tFar (.mtsp 9 10 1) (targetIs tFar (fSlot 0) 9 (stopped .s) { fTask with frameAt := some 20 } = true ∧ (match tFar.patchFrame { fTask with frameAt := some 20 } 20 (putItem 1 0) with
      | .ok _ => false
      | .error f => f.hold.isNone) = true) ∧
    -- FLTINFO: no fault, and one
    (∀ it ∈ [FltItem.word, .pc, .mpc, .oid, .x0, .xhi, .tick], Meets (tF 0) (.fltinfo 5 9 it) (targetIs (tF 0) (fSlot 0) 9 (fun x => x.state == .parkedFault || x.state == .failed) fTask = true)) ∧
    Meets (tPairH 0x0005000000000002 { sTask .parkedFault with fault := some { code := 5, addr := 8, leaf := 3 } } 0) (.fltinfo 5 9 .leaf)
      (((tPairH 0x0005000000000002 { sTask .parkedFault with fault := some { code := 5, addr := 8, leaf := 3 } } 0).task? 5 2).any (fun t => t.state == .parkedFault) = true) := by
  decide

theorem ok_of_isOk {ε α : Type} {x : Except ε α} (d : α) (h : x.isOk = true) : x = .ok (x.toOption.getD d) := by
  cases x with
  | ok v => rfl
  | error e => cases h

/-- What stage 2 gives for the first frame slot. -/
def fTarget (need : Need) : Target := ((s2Alone (tF 128) 3 5 [] 0x100000 need false).toOption).getD { aper := .system, addr := 0 }

theorem fTarget_ok (need : Need) (h : (s2Alone (tF 128) 3 5 [] 0x100000 need false).isOk = true) :
    s2Alone (tF 128) 3 5 [] 0x100000 need false = .ok (fTarget need) := ok_of_isOk _ h

/-- The bytes of the saved frame of that task. -/
def fRead : List Byte := rdBytes (tF 128).mem (fTarget needR).addr 32768

theorem fRead_length : fRead.length = 32768 := rdBytes_length _ _ _

theorem savedFrame_ok : (tF 128).savedFrame fTask 0 = .ok (fRead, tF 128) := by
  have h := gread_one (k := 1) (n := 32768) (fTarget_ok needR (by decide))
    (tableRead_local (by decide) (by decide) (by decide) (by decide) (by decide)) (by decide) (by decide)
  have e : (tF 128).gread (tF 128).curCore fTask.part 3 ((tF 128).frameAddr fTask.part 0) (frameSize fTask.banks) = (tF 128).gread 3 5 (1 + 2) 0x100000 32768 := rfl
  unfold State.savedFrame
  rw [e, h]
  rfl

/-- MTSP's write of s1 to that frame is made. -/
theorem wit_SavedContextInstructions_patch : ∃ b u w, (tF 128).savedFrame fTask 0 = .ok (b, u) ∧ b.length = frameSize fTask.banks ∧
    (tF 128).patchFrame fTask 0 (putItem 1 128) = .ok w := by
  have hp : (putItem 1 128 fRead).length = 32768 := by
    rw [show putItem 1 128 fRead = fput fRead 0x88 8 128 from rfl, fput_length 128 (by rw [fRead_length]; omega), fRead_length]
  have hr : (refreshCrc (putItem 1 128 fRead) []).length = 32768 := by rw [refreshCrc_length [] (by rw [hp]; omega), hp]
  have ht : ∀ bs : List Byte, bs.length = 32768 → (tF 128).gwriteStop (tF 128).curCore fTask.part (fTarget needW) bs = none := by
    intro bs hb
    unfold State.gwriteStop
    rw [hb]
    decide
  exact ⟨_, _, _, savedFrame_ok, fRead_length,
    patchFrame_one savedFrame_ok (fTarget_ok needW (by decide)) (ht _ hr) (by rw [hp]; omega) (by rw [hp]; decide)⟩

/-- The Failed task with a group, with an edge, and the Parked one of the hypervisor. -/
theorem wit_SavedContextInstructions_ctxsv_ends :
    [{ fTask with groups := [7] }, { fTask with edges := [1] }].all (fun t => decide (Meets (tSaved (fSlot 128) t []) (.ctxsv 5 9 10 2 true 3)
      (targetIs (tSaved (fSlot 128) t []) (fSlot 128) 9 (fun x => stopped .s x && !x.lost) t = true))) = true ∧
    (∀ m ∈ [true, false], Meets (tF 128) (.ctxsv 5 9 10 2 m 3) (targetIs (tF 128) (fSlot 128) 9 (fun x => stopped .s x && !x.lost) fTask = true ∧ (tF 128).unsaved fTask = false ∧
      (tF 128).mayAccess (fSlot 128) .rel = true ∧ fTask.frameAt = some 0 ∧ fTask.groups = [] ∧ fTask.edges = [])) := by
  decide

/-- The target of c2's object at offset 128 for an access. -/
def oTarget (s : State) (k : AccKind) : Target := ((objAccess s 3 5 tCap 128 32768 128 k).toOption).getD { aper := .system, addr := 0 }

/-- The export of that context is stored whole, in one tile. -/
theorem wit_SavedContextInstructions_ctxsv : ∃ b s0 s1, (tF 128).savedFrame fTask 0 = .ok (b, s0) ∧
    s0.storeObj (fSlot 128) tCap 128 128 3 (s0.exportBytes fTask b) = .ok s1 [] ∧
    nowPieces s0 3 5 tCap kStore 128 (cuts 16 128 (s0.exportBytes fTask b).length) = .ok [nowPiece (oTarget (tF 128) kStore) 32768 128 tCap.oid] := by
  have he : (tF 128).exportBytes fTask fRead = refreshCrc fRead [] ++ [] := rfl
  have hlen : ((tF 128).exportBytes fTask fRead).length = 32768 := by
    rw [he, List.append_nil, refreshCrc_length _ (by rw [fRead_length]; omega), fRead_length]
  have ht : nowPieces (tF 128) 3 5 tCap kStore 128 (cuts 16 128 ((tF 128).exportBytes fTask fRead).length) =
      .ok [nowPiece (oTarget (tF 128) kStore) 32768 128 tCap.oid] := by
    rw [hlen]
    have ho : objAccess (tF 128) 3 5 tCap 128 32768 128 kStore = .ok (oTarget (tF 128) kStore) := ok_of_isOk _ (by decide)
    show nowPieces (tF 128) 3 5 tCap kStore 128 [(128, 32768)] = _
    simp only [nowPieces, ho]
  exact ⟨_, _, _, savedFrame_ok, storeObj_ok (s := tF 128) (sl := fSlot 128) ht (by decide) (by decide), ht⟩

/-- The header of a frame with no bank, its CRC zero. -/
def hdr (version : Nat) : List Byte := leBytes 4 0x4D524657 ++ leBytes 2 version ++ leBytes 2 0 ++ leBytes 4 32768 ++ zeros 21 ++ [0x7F]

/-- System memory with that frame at offset 128 of c2's object, and a CRC. -/
def fMem (version crc : Nat) : Bytes := wrBytes (wrBytes [] (9 * 2 ^ 21 + 0x10080) (hdr version)) (9 * 2 ^ 21 + 0x100FC) (leBytes 4 crc)

theorem wit_SavedContextInstructions_ctxld_refused :
    -- no header; a header of a version that is none
    Meets (tF 128) (.ctxld 5 10 2 3) ((match (tF 128).loadObj (fSlot 128) tCap 128 128 128 3 with
      | .ok _ h => (exportSize h).isNone
      | _ => false) = true ∧ (tF 128).task? 5 1 = some gTask ∧ (tF 128).mayAccess (fSlot 128) .acq = true) ∧
    Meets (tSaved (fSlot 128) fTask (fMem 2 0)) (.ctxld 5 10 2 3) ((match (tSaved (fSlot 128) fTask (fMem 2 0)).loadObj (fSlot 128) tCap 128 128 128 3 with
      | .ok s h => decide (exportSize h = some (32768, 0)) && (match s.loadObj (fSlot 128) tCap 128 32768 128 3 with
        | .ok s b => !frameOk s.host.accepted false (s.pinOk 5) (b.take 32768) (b.drop 32768)
        | _ => false)
      | _ => false) = true) := by
  decide +kernel

/-- Where that frame lies in system memory. -/
def fAt : Nat := 9 * 2 ^ 21 + 0x10080

/-- The bytes of the frame with a CRC. -/
def fImage (crc : Nat) : List Byte := rdBytes (fMem 1 crc) fAt 32768

/-- Its bytes outside the CRC do not depend on it. -/
theorem fImage_eq (crc : Nat) : fImage crc = fput (fImage 0) 0x7C 4 crc := by
  have key : ∀ c, fImage c = rdBytes (wrBytes [] fAt (hdr 1)) fAt 0x7C ++ (leBytes 4 c ++ rdBytes (wrBytes [] fAt (hdr 1)) (fAt + 0x80) 32640) := by
    intro c
    rw [fImage, show (32768 : Nat) = 0x7C + (4 + 32640) from rfl, rdBytes_append, rdBytes_append]
    have h1 : fMem 1 c = wrBytes (wrBytes [] fAt (hdr 1)) (fAt + 0x7C) (leBytes 4 c) := rfl
    have h2 := rdBytes_wrBytes (m := wrBytes [] fAt (hdr 1)) (fAt + 0x7C) (leBytes 4 c)
    rw [leBytes_length] at h2
    rw [h1]
    generalize wrBytes [] fAt (hdr 1) = m at h2 ⊢
    rw [h2, rdBytes_wrBytes_outside _ _ _ _ (by omega), rdBytes_wrBytes_outside _ _ _ _ (by rw [leBytes_length] <;> omega)]
  rw [key crc, key 0, fput, List.take_append_of_le_length (by rw [rdBytes_length] <;> omega), List.take_of_length_le (by rw [rdBytes_length] <;> omega),
    List.drop_append, List.drop_of_length_le (by rw [rdBytes_length] <;> omega), rdBytes_length, List.nil_append,
    List.drop_append, List.drop_of_length_le (by rw [leBytes_length] <;> omega), leBytes_length, List.nil_append, List.append_assoc]
  rfl

/-- The CRC that this frame should have. -/
def fCrc : Nat := crc32c (fput (fImage 0) 0x7C 4 0 ++ [])

theorem fImage_length (crc : Nat) : (fImage crc).length = 32768 := rdBytes_length _ _ _

theorem fImage_crc : fget (fImage fCrc) 0x7C 4 = crc32c (fput (fImage fCrc) 0x7C 4 0 ++ []) := by
  have e : fImage fCrc = refreshCrc (fImage 0) [] := fImage_eq fCrc
  rw [e]; exact refreshCrc_ok [] (by rw [fImage_length] <;> omega)

/-- The state of that frame, with `k` frame slots. -/
def tL (k : Word) : State :=
  let s := tSaved (fSlot 128) fTask (fMem 1 fCrc)
  s.setPart 5 { s.part 5 with frmcnt := k, cqsize := 4 }

/-- Bytes above every listed address read zero. -/
theorem rdBytes_above {m : Bytes} {a : Nat} (h : ∀ p ∈ m, p.1 < a) (n : Nat) : rdBytes m a n = List.replicate n 0 := by
  have key : ∀ (l : Bytes) x, (∀ p ∈ l, p.1 < x) → rd8 l x = 0 := by
    intro l x hl
    induction l with
    | nil => rfl
    | cons p l ih =>
      have h1 := hl p (by simp)
      have h2 := ih (fun q hq => hl q (by simp [hq]))
      simp only [rd8, mget] at h2 ⊢
      rw [if_neg (by omega)]
      exact h2
  induction n generalizing a with
  | zero => rfl
  | succ n ih => rw [rdBytes, key m a h, ih (fun p hp => Nat.lt_succ_of_lt (h p hp)), List.replicate_succ]

/-- Zero bytes above the header are zero in every range. -/
theorem zeroIn_above {b : List Byte} {n : Nat} (h : b.drop 0x80 = List.replicate n 0) {lo hi : Nat} (hlo : 0x80 ≤ lo) : zeroIn b lo hi = true := by
  have : b.drop lo = List.replicate (n - (lo - 0x80)) 0 := by
    rw [show lo = 0x80 + (lo - 0x80) by omega, ← List.drop_drop, h, List.drop_replicate]
    congr 1; omega
  simp [zeroIn, this, List.take_replicate]

theorem fImage_above (crc : Nat) : (fput (fImage 0) 0x7C 4 crc).drop 0x80 = List.replicate 32640 0 := by
  have e : (fImage 0).drop 0x80 = rdBytes (fMem 1 0) (fAt + 0x80) 32640 := by
    rw [fImage, show (32768 : Nat) = 0x80 + 32640 from rfl, rdBytes_append, List.drop_append, List.drop_of_length_le (by rw [rdBytes_length] <;> omega), rdBytes_length]
    rfl
  have ht : ((fImage 0).take 0x7C ++ leBytes 4 crc).length = 0x80 := by
    have := fImage_length 0
    simp [this]
  rw [fput, List.drop_append, List.drop_of_length_le (by omega), ht, show 0x7C + 4 = 0x80 from rfl, e, rdBytes_above (by decide)]
  rfl

theorem fImage_ok : frameOk 0xFF false ((tL 4).pinOk 5) (fImage fCrc) [] = true := by
  have hl : (fImage fCrc).length = 32768 := fImage_length _
  have hc := fImage_crc
  rw [fImage_eq] at hl hc ⊢
  have hz : ∀ {lo hi : Nat}, 0x80 ≤ lo → zeroIn (fput (fImage 0) 0x7C 4 fCrc) lo hi = true := zeroIn_above (fImage_above fCrc)
  have hs : fget (fput (fImage 0) 0x7C 4 fCrc) 6 1 = 0 := by decide +kernel
  have hi : imgTotal (fput (fImage 0) 0x7C 4 fCrc) = 0 := by decide +kernel
  have hn : fget (fput (fImage 0) 0x7C 4 fCrc) 0x2E 2 = 0 := by decide +kernel
  simp only [frameOk, Bool.and_eq_true, beq_iff_eq, hl, hs, hi, hn]
  repeat' apply And.intro
  all_goals first
    | with_reducible exact hc
    | with_reducible exact hz (by decide)
    | decide +kernel

/-- The read of `n` bytes of that frame, through c2. -/
theorem tL_load (k : Word) (n : Nat) {t : Target} (ho : objAccess (tL k) 3 5 tCap 128 n 128 kLoad = .ok t) (hc : cuts 16 128 n = [(128, n)])
    (hg : (tL k).nowGate 3 5 (nowPiece t n 128 tCap.oid) 3 false = none) (hr : (tL k).needsRoute 5 t n 3 false = false) (hk : t.notes = []) (ha : t.aper = .localPage) (hat : t.addr = fAt)
    (hp : (tL k).locPoison (t.loc 3 5) n 3 = false) : (tL k).loadObj (fSlot 128) tCap 128 n 128 3 = .ok (tL k) (rdBytes (fMem 1 fCrc) fAt n) := by
  have ht : nowPieces (tL k) (tL k).curCore (fSlot 128).part tCap kLoad 128 (cuts 16 128 n) = .ok [nowPiece t n 128 tCap.oid] := by
    rw [hc]; show nowPieces (tL k) 3 5 tCap kLoad 128 [(128, n)] = _; simp only [nowPieces, ho]
  rw [loadObj_one ht hg hr hk hp, afterRead_local _ _ (by decide) (by rw [Target.loc, ha]), locBytes_local _ (by decide) (by rw [Target.loc, ha])]
  have e : (tL k).mem = fMem 1 fCrc := by simp only [tL, tSaved, State.setPart_mem]
  rw [e, Target.loc, hat]

/-- What stage 2 gives for the frame slot that CTXLD takes. -/
def lTarget : Target := ((s2Alone (tL 4) 3 5 [] ((tL 4).frameAddr 5 1) needW false).toOption).getD { aper := .system, addr := 0 }

/-- A frame of 32,768 bytes is written to it. -/
theorem tL_put {bs : List Byte} (hb : bs.length = 32768) : (tL 4).putFrame 5 1 bs = .ok ((tL 4).gwrote 3 5 lTarget bs) := by
  have hq : (tL 4).gwriteStop 3 5 lTarget bs = none := by
    unfold State.gwriteStop
    rw [hb]
    decide
  have h := gwrite_one (k := 1) (bs := bs) (show s2Alone (tL 4) 3 5 [] ((tL 4).frameAddr 5 1) needW false = .ok lTarget from ok_of_isOk _ (by decide)) hq
    (by intro h; rw [h] at hb; simp at hb) (by rw [hb]; decide)
  unfold State.putFrame
  rw [show (tL 4).gwrite (tL 4).curCore 5 3 ((tL 4).frameAddr 5 1) bs = (tL 4).gwrite 3 5 (1 + 2) ((tL 4).frameAddr 5 1) bs from rfl, h]

/-- CTXLD of that frame: with a free frame slot and task entry, and with no frame slot. -/
theorem wit_SavedContextInstructions_ctxld (k : Word) (hk : k = 4 ∨ k = 0) :
    (issuesB (tL k) (cur (tL k)) (.ctxld 5 10 2 3) = true ∧ (tL k).mayAccess (fSlot 128) .acq = true ∧ (tL k).task? 5 1 = some gTask) ∧
    ∃ h all, (tL k).loadObj (fSlot 128) tCap 128 128 128 3 = .ok (tL k) h ∧ exportSize h = some (32768, 0) ∧
      (tL k).loadObj (fSlot 128) tCap 128 (32768 + 0) 128 3 = .ok (tL k) all ∧ frameOk (tL k).host.accepted false ((tL k).pinOk 5) (all.take 32768) (all.drop 32768) = true ∧
      ((tL k).freeFrame 5).isSome = (k == 4) ∧ (tL k).hasEntry 5 = true ∧ (k = 4 → (tL k).freeFrame 5 = some 1 ∧
        ∃ w, (tL k).putFrame 5 1 (refreshCrc (fput (all.take 32768) 7 1 (Nat.land (fget (all.take 32768) 7 1) 0xFD)) []) = .ok w) := by
  have hall : fImage fCrc = rdBytes (fMem 1 fCrc) fAt 32768 := rfl
  have hh : exportSize (rdBytes (fMem 1 fCrc) fAt 128) = some (32768, 0) := by
    have : rdBytes (fMem 1 fCrc) fAt 128 = (fput (fImage 0) 0x7C 4 fCrc).take 128 := by
      rw [← fImage_eq, fImage, show (32768 : Nat) = 128 + 32640 from rfl, rdBytes_append, List.take_append_of_le_length (Nat.le_of_eq (rdBytes_length _ _ _).symm), List.take_of_length_le (Nat.le_of_eq (rdBytes_length _ _ _))]
    rw [this]; decide +kernel
  have ht : (fImage fCrc).take 32768 = fImage fCrc := List.take_of_length_le (Nat.le_of_eq (fImage_length _))
  have hd : (fImage fCrc).drop 32768 = [] := List.drop_of_length_le (Nat.le_of_eq (fImage_length _))
  have hw : (fput (fImage fCrc) 7 1 (Nat.land (fget (fImage fCrc) 7 1) 0xFD)).length = 32768 := by rw [fput_length _ (by rw [fImage_length] <;> omega), fImage_length]
  obtain rfl | rfl := hk
  · refine ⟨by decide, _, _, tL_load 4 128 (ok_of_isOk { aper := .system, addr := 0 } (by decide)) rfl (by decide) (by decide) (by decide) (by decide) (by decide) (by decide), hh,
      tL_load 4 32768 (ok_of_isOk { aper := .system, addr := 0 } (by decide)) rfl (by decide) (by decide) (by decide) (by decide) (by decide) (by decide), ?_, by decide, by decide,
      fun _ => ⟨by decide, _, tL_put ?_⟩⟩
    · rw [← hall, ht, hd]; exact fImage_ok
    · rw [← hall, ht, refreshCrc_length [] (by rw [hw]; omega), hw]
  · refine ⟨by decide, _, _, tL_load 0 128 (ok_of_isOk { aper := .system, addr := 0 } (by decide)) rfl (by decide) (by decide) (by decide) (by decide) (by decide) (by decide), hh,
      tL_load 0 32768 (ok_of_isOk { aper := .system, addr := 0 } (by decide)) rfl (by decide) (by decide) (by decide) (by decide) (by decide) (by decide), ?_, by decide, by decide,
      fun h => absurd h (by decide)⟩
    rw [← hall, ht, hd]; exact fImage_ok

/-- A guest slot with s9 = `a` and s10 = `b`, with a store outstanding or none. -/
def gTlb (a b : Word) (busy : Bool) : State :=
  guest (leafOf 0 9) { gRegs true a b with p0 := if busy then [tAcc (.store 1)] else [], seq := 2 }

/-- The fontanier with HSEL 5, s9 = `a` and a store outstanding or none; system memory holds a stage-2 table for guest page 0 of
partition 5. -/
def tUnmap (a : Word) (busy : Bool) : State :=
  { tH5 with mem := wrN (wrN (wrN tH5.mem 0 8 (2 ^ 63 + 0x1000)) 0x1000 8 (2 ^ 63 + 0x2000)) 0x2000 8 (leafOf 0 9) }.setSlot 64 0
    { tSlot with hsel := 5, ctx := { tCtx with regs := [(9, a)] }, p0 := if busy then [tAcc (.store 1)] else [], seq := 2 }

/-- A Cistern write queued, in a slot of partition 5. -/
def tCist (open_ busy : Bool) (ts : List Task) : State :=
  let s := { guest (leafOf 0 9) (gSlot true) with parts := (5, { tPart with cstOpen := open_, tasks := ts }) :: tH.parts }
  if busy then s.setCore 3 { s.core 3 with cmds := [{ tCmd .vs 1 with instr := .vstc (.h 4 0) 1 9 0 0 0 0 }] } else s

/-- A LAUNCH of one record into partition 5 waits for its window to close. -/
def tLaunch : State := { tCist true false [gTask] with host := { (tCist true false [gTask]).host with queue := [⟨.pf, .launch 1 5 0 7, none⟩] } }

theorem wit_TranslationInstructions :
    (∀ f ∈ [TlbForm.tile, .table], Meets (gTlb 32 0 false) (.tlbiv 5 9 10 f) ((32 : Word).toNat % 64 ≠ 0)) ∧
    [(TlbForm.tile, 9), (.table, 9), (.all, 0)].all (fun f => decide (Meets (gTlb 0x0000FFFFFFFFFFC0 9 true) (.tlbiv 5 f.2 f.2 f.1) ((cur (gTlb 0 9 true)).storesDone = false) ∧
      Meets (gTlb 0x0000FFFFFFFFFFC0 9 false) (.tlbiv 5 f.2 f.2 f.1) ((cur (gTlb 0 9 false)).storesDone = true ∧ (0x0000FFFFFFFFFFC0 : Word).toNat < 281474976710656) ∧
      Meets (gTlb (toW loadTtp) 0 false) (.tlbiv 5 f.2 (if f.2 = 0 then 0 else 10) f.1) ((((gTlb 0 0 false).region 3).tileTlb.any (fun e => e.k0 == tileKey 5 loadTtp && e.k1 == 0)) = true))) = true ∧
    Meets (gTlb 33 0 false) (.tlbiv 5 0 0 .all) (selPart 3 (gSlot true) = 5) ∧
    -- UNMAP: misaligned; the fontanier; beyond 2^48; stores; .inv and .clr with no walk, and with a leaf
    (∀ sh ∈ [true, false], Meets (tUnmap 0x100000 false) (.unmap 5 9 sh) (selPart 64 (cur (tUnmap 0 false)) = 5 ∧ (0x100000 : Word).toNat % 2097152 ≠ 0)) ∧
    (∀ sh ∈ [true, false], Meets tH (.unmap 5 9 sh) (selPart 64 tSlot = 64)) ∧
    (∀ sh ∈ [true, false], Meets (tUnmap 0x0001000000000000 false) (.unmap 5 9 sh) (281474976710656 ≤ (0x0001000000000000 : Word).toNat)) ∧
    (∀ sh ∈ [true, false], Meets (tUnmap 0x0000FFFFFFE00000 true) (.unmap 5 9 sh) ((cur (tUnmap 0 true)).storesDone = false)) ∧
    Meets (tUnmap 0 false) (.unmap 5 9 true) ((((tUnmap 0 false).region 3).nestTlb.any (fun e => e.k0 == 5 && e.k1 == 0)) = true) ∧
    Meets (tUnmap 0x0000FFFFFFE00000 false) (.unmap 5 9 false) ((tUnmap 0 false).leafWalk 5 0x0000FFFFFFE00000 = .invalid) ∧
    Meets (tUnmap 0 false) (.unmap 5 9 false) ((tUnmap 0 false).leafWalk 5 0 = .leaf 0x2000 (leafOf 0 9) ∧
      (tUnmap 0 false).pieceStop 64 4 true (nowPiece { aper := .system, addr := 0x2000 } 8 (cur (tUnmap 0 false)).ctx.pc 0) = none) ∧
    -- MAPSYNC: past its effect point, before it, with a write still on its way
    Meets (onSlot { tSlot with effect := tH.tick, unmaps := [(0x2000, 0)] }) .mapsync (tH.tick ≤ tH.tick ∧ (onSlot { tSlot with unmaps := [(0x2000, 0)] }).writeThrough 0x2000 0 = false) ∧
    Meets (onSlot { tSlot with effect := tH.tick + 1 }) .mapsync (¬tH.tick + 1 ≤ tH.tick) ∧
    Meets (onSlot { tSlot with unmaps := [(0x2000, 0)], p0 := [{ tAcc (.store 1) with leaf := 0x2000, first := 0 }], seq := 2 }) .mapsync
      ((onSlot { tSlot with unmaps := [(0x2000, 0)], p0 := [{ tAcc (.store 1) with leaf := 0x2000, first := 0 }], seq := 2 }).writeThrough 0x2000 0 = true) ∧
    -- CSTWIN
    (∀ c ∈ [true, false], Meets tH (.cstwin 5 c) (selPart 64 tSlot = 64)) ∧
    Meets (tCist false false [gTask]) (.cstwin 5 false) (gTask.sup = true ∧ ((tCist false false [gTask]).part 5).cstOpen = false) ∧
    [TState.running, .parkedFault, .parkedWait, .failed].all (fun st => decide (Meets (tCist false false [gTask, { gTask with id := 2, sup := false, state := st }]) (.cstwin 5 false)
      (((tCist false false [gTask, { gTask with id := 2, sup := false, state := st }]).task? 5 2).any (fun t => t.state == st && !t.sup) = true))) = true ∧
    [TState.ready, .pending].all (fun st => decide (Meets (tCist false false [gTask, { gTask with id := 2, sup := false, state := st }]) (.cstwin 5 false) (st ≠ .running))) = true ∧
    (∀ c ∈ [true, false], Meets (tCist true false [gTask]) (.cstwin 5 c) ((tCist true false [gTask]).cisternBusy 5 = false)) ∧
    Meets (tCist false false [gTask]) (.cstwin 5 true) (((tCist false false [gTask]).part 5).cstOpen = false) ∧
    Meets (tCist true true [gTask]) (.cstwin 5 true) ((tCist true true [gTask]).cisternBusy 5 = true) ∧
    Meets tLaunch (.cstwin 5 true) (tLaunch.host.queue = [⟨.pf, .launch 1 5 0 7, none⟩] ∧ tLaunch.cisternBusy 5 = false ∧
      (match launchNow .pf 1 5 0 7 none ((tLaunch.setPart 5 { tLaunch.part 5 with cstOpen := false }).modHost (fun x => { x with queue := [] })) with
       | .done _ => true
       | _ => false) = true) := by
  decide

/-- The fontanier with HSEL 5, s9 = `a`, s10 = `b`, and these regions. -/
def tReg (l : List (Nat × Region)) (a b : Word) : State :=
  { onSlot { tSlot with hsel := 5, ctx := { tCtx with regs := [(9, a), (10, b)] } } with regions := l ++ tH.regions }

/-- A region of partition 5 in a state. -/
def reg5 (st : RState) : Region := { state := st, part := 5 }

/-- The states of a region. -/
def allStates : List RState := [.dirty, .clean, .owned, .held, .quiesce, .scrub, .sign, .reset]

/-- The grotto of the test state changed. -/
def tGrot (f : Grotto → Grotto) (a : Word) : State := (tReg [] a 0).modGrotto f

theorem wit_RegionInstructions :
    -- RGNASN: beyond the regions and the partitions; the units 64 and 65; each state, at both ends of the ranges
    Meets (tReg [] 66 0) (.rgnasn 5 9 10) ((65 : Nat) < 66) ∧ Meets (tReg [] 0 64) (.rgnasn 5 9 10) ((63 : Nat) < 64) ∧
    [(64 : Word), 65].all (fun a => decide (Meets (tReg [] a 63) (.rgnasn 5 9 10) (63 < a.toNat ∧ a.toNat ≤ 65))) = true ∧
    allStates.all (fun st => decide (Meets (tReg [(63, reg5 st)] 63 63) (.rgnasn 5 9 10) (((tReg [(63, reg5 st)] 63 63).region 63).state = st))) = true ∧
    Meets (tReg [(0, { state := .clean }), (1, reg5 .owned)] 0 5) (.rgnasn 5 9 10) ((tReg [(0, { state := .clean }), (1, reg5 .owned)] 0 5).placement 5 = [1]) ∧
    (let s := (tReg [(0, { state := .clean })] 0 5).setPart 5 { pcfg := 1 }
     issuesB s (cur s) (.rgnasn 5 9 10) = true ∧ s.placement 5 = [] ∧ (s.part 5).pcfg.getLsbD 0 = true) ∧
    -- RGNWIN: no partition selected; fewer than two; a region of no one; a HELD one; a QUIESCE one; two OWNED ones
    Meets (onRegs [(9, 3)]) (.rgnwin 5 9) (selPart 64 (cur (onRegs [(9, 3)])) = 64) ∧
    [(0 : Word), 1, 0x8000000000000000].all (fun a => decide (Meets (tReg [(0, reg5 .owned)] a 0) (.rgnwin 5 9) ((bitsOf 64 a).length < 2))) = true ∧
    Meets (tReg [(0, reg5 .owned), (63, reg5 .clean)] 0x8000000000000001 0) (.rgnwin 5 9) (bitsOf 64 0x8000000000000001 = [0, 63]) ∧
    (∀ g ∈ [reg5 .held, { reg5 .reset with ret := .held }, reg5 .quiesce, { reg5 .reset with ret := .owned }, reg5 .owned],
      Meets (tReg [(0, reg5 .owned), (63, g)] 0x8000000000000001 0) (.rgnwin 5 9) ((tReg [(0, reg5 .owned), (63, g)] 0x8000000000000001 0).region 63 = g ∧ selPart 64 (cur (tReg [] 0 0)) = 5)) ∧
    (selPart 64 (cur (tReg [] 0 0)) = 5) := by
  decide

theorem wit_RegionInstructions_rgnrst :
    [(66 : Word), 65, 64].all (fun a => decide (Meets (tReg [] a 0) (.rgnrst 5 9) (a.toNat ≤ 66))) = true ∧
    allStates.all (fun st => decide (Meets (tReg [(63, reg5 st)] 63 0) (.rgnrst 5 9) (((tReg [(63, reg5 st)] 63 0).region 63).state = st))) = true ∧
    -- SCRUB.frame: a number beyond 2^40; a full queue; one with a place left
    Meets (tReg [] 1099511627776 0) (.scrub 5 9 true) ((1099511627776 : Word).toNat = 2 ^ 40) ∧
    (∀ n ∈ [1024, 1023], Meets (tGrot (fun g => { g with scrubQ := List.replicate n 7 }) 1099511627775) (.scrub 5 9 true) (n ≤ 1024)) ∧
    (0x8000000000000001 : Word).getLsbD 63 = true := by
  decide

theorem wit_RegionInstructions_scrub :
    -- SCRUB: none named; every region named, in every state; a partition wholly named
    Meets (tReg [] 0 0) (.scrub 5 0 false) (tSlot.part = 64) ∧
    allStates.all (fun st => decide (Meets (tReg [(0, reg5 st), (63, { reg5 .reset with ret := st })] 0x8000000000000001 0) (.scrub 5 9 false) ((tReg [(0, reg5 st)] 0 0).region 0 = reg5 st))) = true ∧
    Meets (tReg [(0, reg5 .owned)] 0xFFFFFFFFFFFFFFFF 0) (.scrub 5 9 false) ((tReg [(0, reg5 .owned)] 0 0).placement 5 = [0]) ∧
    -- SCRST
    (∀ l ∈ [[], [7], [16383, 7]], Meets (tGrot (fun g => { g with clean := l }) 0) (.scrst 5 0 true) ((tGrot (fun g => { g with clean := l }) 0).grotto.clean = l)) ∧
    [(64 : Word), 63].all (fun a => decide (Meets (tReg [(63, { reg5 .scrub with phase := 6, done := 4294967295 })] a 0) (.scrst 5 9 false) (a.toNat ≤ 64))) = true := by
  decide

/-- A region quiesced, its slots gone or not. -/
def tQui (busy : Bool) : State :=
  let s := { tReg [(5, { reg5 .quiesce with group := 5 }), (6, { reg5 .owned with group := 5 })] 0 0 with
    parts := [(5, { tPart with hndl := 0x8000000000000000, tasks := [{ gTask with state := .ready, window := some (5, 0, 4096) }] })], grotto := { tH.grotto with hvhndl := 0x8000000000000000 } }
  if busy then s.setSlot 5 0 (gSlot true) else s

/-- A region waiting for the signer. -/
def tSign (exh : Bool) (left : Nat) : State :=
  let s := tReg [(63, reg5 .sign)] 0 0
  { s with boots := 2 ^ 32 - Config.epoch.toNat + (if exh then 2 ^ 20 else 2 ^ 20 - 1), grotto := { s.grotto with signQ := [63], sigUsed := 0x100000 - left } }

/-- Frame 7, to be scrubbed, is pinned by partition 5. -/
def tPin : State := { tGrot (fun g => { g with scrubQ := [7] }) 0 with parts := [(5, { tPart with pinned := [7] })] }

/-- A region of partition 5 in a phase of its scrub, with these units of it done. -/
def tPhase (n k : Nat) (keys : Bool) : State := tReg [(63, { reg5 .scrub with phase := n, done := k, keyPhase := keys })] 0 0

theorem wit_RegionAndFrameEvents :
    -- a phase with units to do and with its last, and one whose units are all done; another partition's keys are kept
    [(0, 0), (1, 127), (2, 255), (3, 255), (4, 191), (5, 0)].all (fun u => [0, u.2].all (fun k => (((tPhase u.1 k false).scrubUnit 63).region 63).done == k + 1) &&
      ((tPhase u.1 (u.2 + 1) false).region 63).phaseOver && !((tPhase u.1 u.2 false).region 63).phaseOver) = true ∧
    (((tPhase 6 0 true).region 63).phaseOver = false ∧ ((tPhase 6 1 true).region 63).phaseOver = true ∧ ((tPhase 6 0 false).region 63).phaseOver = true) ∧
    -- a reset: not due, and due, in every state to which it returns
    (tReg [(63, { reg5 .reset with resetAt := 1 })] 0 0).tick < 1 + 4000 ∧ ((tReg [] 0 0).region 63).state ≠ .reset ∧
    ((4000 : Nat) ≤ { tReg [(63, { reg5 .reset with recorded := true })] 0 0 with tick := 4000 }.tick) ∧
    allStates.all (fun st => [true, false].all (fun b => ((tReg [(63, { reg5 .reset with ret := st, recorded := b })] 0 0).region 63).recorded == b)) = true ∧
    -- a quiesced region, with a slot and without
    (((tQui false).region 5).state = .quiesce ∧ ((tQui false).core 5).slots = [] ∧ ((tQui false).core 5).cmds = []) ∧ ((tQui true).core 5).slots ≠ [] ∧
    (((tQui false).region 5).part = 5 ∧ (tQui false).grotto.hvhndl.getLsbD 63 = true ∧ ((tQui false).part 5).tasks.any (fun t => t.state == .ready && t.part == 5 && t.windowIn 5) = true) ∧
    -- each phase, and the key phase
    (List.range 7).all (fun n => ((tReg [(63, { reg5 .scrub with phase := n, keyPhase := true })] 0 0).region 63).phase == n) = true ∧
    -- the signer is idle
    tH.grotto.signQ = [] ∧
    -- frames: none queued; one, with room and at both limits; acknowledged with a route and without
    tH.grotto.scrubQ = [] ∧ (tGrot (fun g => { g with scrubQ := [7, 8], scrubbing := [1, 2, 3] }) 0).grotto.scrubbing.length < 4 ∧
    ¬(tGrot (fun g => { g with scrubQ := [7], scrubbing := [1, 2, 3, 4] }) 0).grotto.scrubbing.length < 4 ∧
    (tGrot (fun g => { g with scrubbing := [7] }) 0).grotto.scrubbing[1]? = none ∧ (tGrot (fun g => { g with scrubbing := [7] }) 0).grotto.scrubbing[0]? = some 7 ∧
    (noRoute tH).route ((noRoute tH).sliceOf 7) 0 = .held ∧ tH.pinnedFrame 7 = false ∧ tPin.pinnedFrame 7 = true ∧ tG.route (tG.sliceOf 7) 0 = .sent 0 := by
  decide

/-- A region waits for the signer: with no leaf left, with one, and in an exhausted boot. -/
theorem wit_RegionAndFrameEvents_signer (exh : Bool) (left : Nat) (h : left ≤ 0x100000) :
    (tSign exh left).grotto.signQ = [63] ∧ (tSign exh left).exh = exh ∧ (exh = false → (tSign exh left).sigLeft = left) := by
  have he : (tSign exh left).exh = exh := by
    have h1 : Config.epoch.toNat < 4294967296 := Config.epoch.isLt
    change decide (1048576 ≤ (Config.epoch.toNat + (4294967296 - Config.epoch.toNat + (if exh then 1048576 else 1048575))) % 4294967296) = exh
    generalize Config.epoch.toNat = x at *
    have : (x + (4294967296 - x + (if exh then 1048576 else 1048575))) % 4294967296 = if exh then 1048576 else 1048575 := by
      cases exh <;> simp only [if_true, if_false, Bool.false_eq_true] <;> omega
    rw [this]
    cases exh <;> rfl
  refine ⟨rfl, he, fun h0 => ?_⟩
  have e : (tSign exh left).grotto.sigUsed = 0x100000 - left := rfl
  rw [State.sigLeft, he, e, h0]
  simp only [Bool.false_eq_true, if_false]
  omega

/-- The limits of the queue of frames to scrub and of the clean pool. -/
theorem wit_frame_limits (n : Nat) : (tGrot (fun g => { g with scrubQ := List.replicate n 7, clean := List.replicate n 7 }) 0).grotto.scrubQ.length = n ∧
    (tGrot (fun g => { g with scrubQ := List.replicate n 7, clean := List.replicate n 7 }) 0).grotto.clean.length = n := by
  simp [tGrot, State.modGrotto]

/-- A token of 128 body bytes whose number is `n`. -/
def tTok (n : Nat) : Token := { body := leBytes 8 0 ++ leBytes 8 n ++ zeros 112, signed := false, leaf := 0, epoch := 0 }

/-- A region of partition 5 with a token. -/
def tokReg (st : RState) : Region := { reg5 st with token := some (tTok 9) }

/-- c2's object of the fontanier with these words at offset 64; the filter has an entry in use at `imm`. -/
def tMsg (w0 w1 w2 : Nat) : State :=
  let s := onRegs [(9, 64)]
  { s with links := tLinks, mem := wrBytes s.mem (0x10000 + 64) (leBytes 8 w0 ++ leBytes 8 w1 ++ leBytes 8 w2 ++ leBytes 8 0), grotto := { s.grotto with filter := [(5, { used := [0, 3] })] } }

/-- The message entry at `imm` = 5 issues normally, and reads those words. -/
def reads32 (s : State) (w0 w1 w2 : Nat) : Bool :=
  issuesB s (cur s) (.msgf 5 9 2 5) && s.mayAccess (cur s) .acq &&
    (match s.loadObj (cur s) tCap 64 32 32 4 with
     | .ok _ d => decide (leNat (d.take 8) = w0 ∧ leNat ((d.drop 8).take 8) = w1 ∧ leNat ((d.drop 16).take 8) = w2)
     | _ => false)

/-- A region with a token, and a pool that is joined. -/
def tGet : State := { tReg [(63, tokReg .clean)] 63 64 with links := tLinks }

/-- A gate holds a request of partition 5 that is on a conduit under key slot 0, or nothing of it is outstanding. -/
def tGated (out : Bool) : State :=
  let s := { tReg [(3, { tRegion (leafOf 0 9) with state := .reset, ret := .owned })] 1 0 with links := tLinks }
  if out then s.setSlot 3 0 { gSlot true with p0 := [{ tAcc (.store 1) with aper := .pool, scope := 3, req := .sent 0 }], seq := 2 } else s

theorem wit_TokensKeysAndMessages :
    -- a region beyond 63; one of another partition at S
    (∀ g ∈ [true, false], Meets (tReg [] 64 0) (.tokchk 5 9 (if g then 10 else 0) (if g then 2 else 0) g) (¬(64 : Nat) < 64) ∧
      Meets (guest (leafOf 0 9) (gRegs true 7 0)) (.tokchk 5 9 (if g then 10 else 0) (if g then 2 else 0) g) ((guest (leafOf 0 9) (gRegs true 7 0)).region 7 = {} ∧ slotLevel 3 (gSlot true) = .s)) ∧
    -- .chk: a HELD region whose number matches or not, or that has no token; the other states
    Meets (tReg [(63, tokReg .held)] 63 9) (.tokchk 5 9 10 0 false) ((tokReg .held).token ≠ none ∧ (tokReg .held).tokseq.toNat = 9) ∧
    Meets (tReg [(63, tokReg .held)] 63 8) (.tokchk 5 9 10 0 false) ((tokReg .held).tokseq.toNat ≠ 8) ∧
    Meets (tReg [(63, reg5 .held)] 63 0) (.tokchk 5 9 10 0 false) ((reg5 .held).token = none) ∧
    (∀ st ∈ [RState.owned, .clean, .scrub, .quiesce], Meets (tReg [(63, tokReg st)] 63 9) (.tokchk 5 9 10 0 false) (slotLevel 64 (cur tH) = .h)) ∧
    Meets ((guest (leafOf 0 9) (gRegs true 3 9)).setRegion 3 { tRegion (leafOf 0 9) with state := .held, token := some (tTok 9) }) (.tokchk 5 9 10 0 false) ((tTok 9).body.length = 128) ∧
    -- .get: a misaligned offset; no token; a token
    Meets (tReg [(63, tokReg .clean)] 63 65) (.tokchk 5 9 10 2 true) ((65 : Nat) % 8 ≠ 0) ∧ Meets (tReg [] 63 64) (.tokchk 5 9 10 2 true) (((tReg [] 63 64).region 63).token = none) ∧
    Meets (tReg [(63, tokReg .clean)] 63 65) (.tokchk 5 9 10 1 true) ((({} : Cap).grants kStore.cap) = false ∧ tCap.grants kStore.cap = true) ∧
    Meets (tReg [(63, tokReg .clean)] 63 65529) (.tokchk 5 9 10 2 true) (tCap.lo ≤ 65529 ∧ tCap.hi < 65529 + 3732) ∧
    Meets tGet (.tokchk 5 9 10 2 true) (tGet.mayAccess (cur tGet) .rel = true) ∧
    -- KEYZ: no partition; a bit above 15; the slots of another partition, one of them in use
    Meets tH (.keyz 5 9) (selPart 64 (cur tH) = 64) ∧ Meets (tReg [] 65536 0) (.keyz 5 9) (selPart 64 (cur (tReg [] 65536 0)) ≠ 64) ∧
    Meets (tReg [] 65535 0) (.keyz 5 9) ((cur (tReg [] 65535 0)).part ≠ 5 ∧ selPart 64 (cur (tReg [] 65535 0)) = 5 ∧ mget none (tH5.part 5).keys 0 = some { key := 1 }) ∧
    [true, false].all (fun o => issuesB (tGated o) (cur (tGated o)) (.keyz 5 9) && ((tGated o).landAll 5 1).keyTraffic 5 1 == o) = true := by
  decide +kernel

/-- The token is stored whole, in one tile. -/
theorem wit_TokensKeysAndMessages_get : ∃ s1 x, tGet.storeObj (cur tGet) tCap 64 8 5 (tTok 9).bytes = .ok s1 [] ∧
    nowPieces tGet 64 64 tCap kStore 8 (cuts 16 64 (tTok 9).bytes.length) = .ok [x] := by
  have hl : (tTok 9).bytes.length = 3732 := by simp [Token.bytes, tTok, zeros]
  have ho := ok_of_isOk { aper := .system, addr := 0 } (x := objAccess tGet 64 64 tCap 64 3732 8 kStore) (by decide +kernel)
  have ht : nowPieces tGet 64 64 tCap kStore 8 (cuts 16 64 (tTok 9).bytes.length) =
      .ok [nowPiece ((objAccess tGet 64 64 tCap 64 3732 8 kStore).toOption.getD { aper := .system, addr := 0 }) 3732 64 tCap.oid] := by
    rw [hl]
    show nowPieces tGet 64 64 tCap kStore 8 [(64, 3732)] = _
    simp only [nowPieces]
    rw [ho]
    rfl
  exact ⟨_, _, storeObj_ok ht (by decide +kernel) (by decide +kernel), ht⟩

theorem wit_TokensKeysAndMessages_msgf :
    -- each reserved field by its lowest bit, a destination that is its source, no slots, a base that is misaligned, a code above 128
    [(2 ^ 62, 0, 0), (2 ^ 54, 0, 0), (2 ^ 55, 0, 0), (2 ^ 56, 0, 2 ^ 60), (2 ^ 56, 0, 1), (2 ^ 56 * 63 + 2 ^ 48 * 63, 0, 0), (2 ^ 63 + 2 ^ 56, 0, 0), (2 ^ 56, 1, 0), (2 ^ 56, 32, 0), (2 ^ 56, 0, 2 ^ 48 * 129)].all
      (fun w => reads32 (tMsg w.1 w.2.1 w.2.2) w.1 w.2.1 w.2.2) = true ∧
    [(0 * 2 ^ 56 + 2 ^ 48, 0, 2 ^ 48 * 128), (2 ^ 63 + 2 ^ 56 * 63, 2 ^ 48 * 65535 + 64, 0xF000000000000000)].all (fun w => reads32 (tMsg w.1 w.2.1 w.2.2) w.1 w.2.1 w.2.2) = true := by
  decide +kernel

/-- A guest whose message of entry 5 goes from partition 5 to partition 6, which holds region 10 or none; the entry has `n` slots and
these are in use; partition 6 has a capability for entry 1 at 0x30020 of its page. -/
def tXenq (w0 : Word) (n : Nat) (used : List Nat) (st : RState) (busy : Bool) : State :=
  let s := guest (leafOf 0 9) { gRegs true 64 0 with p0 := if busy then [tAcc (.store 1)] else [], seq := 2 }
  let g := s.region 3
  { (s.setRegion 3 { g with
        nestTlb := g.nestTlb ++ [{ k0 := 6, k1 := 0, val := leafOf 0 10, aux := 0x3000, till := 1000000000 }],
        tileTlb := g.tileTlb ++ [{ k0 := tileKey 6 loadTtp, k1 := 0, val := 0x10000, till := 1000000000 }] }).setRegion 10 { state := st, part := 6 } with
    mem := wrBytes s.mem (10 * 2 ^ 21 + 0x30020) (capBytes tCap),
    parts := (5, tPart) :: (6, { s2tb := 0x8000000000000000, captb := 0x30000, captn := 2, cqsize := 4, nextId := 9, keys := [(0, some { key := 2 })] }) :: tH.parts,
    grotto := { tH.grotto with filter := [(5, { w0 := w0, w1 := BitVec.ofNat 64 (n * 2 ^ 48 + 128), w2 := 0, used := used })] } }

/-- XENQ of entry 5 issues normally and reads its 64 bytes. -/
def sends64 (s : State) : Bool :=
  issuesB s (cur s) (.xenq 5 9 2 5) && s.quiet (cur s) &&
    (match s.loadObj (cur s) tCap 64 64 64 3 with
     | .ok _ d => d.length == 64
     | _ => false)

/-- V, from partition 5 to partition 6. -/
def goodW0 : Word := BitVec.ofNat 64 (2 ^ 63 + 5 * 2 ^ 56 + 6 * 2 ^ 48 + 0x100)

theorem wit_TokensKeysAndMessages_xenq :
    -- V clear; from another partition; every slot in use; no OWNED region
    [tXenq 0x0506000000000100 2 [] .owned false, tXenq (goodW0 + 0x0100000000000000) 2 [] .owned false, tXenq goodW0 2 [0, 1] .owned false, tXenq goodW0 2 [] .held false].all sends64 = true ∧
    Meets (tXenq goodW0 2 [] .owned true) (.xenq 5 9 2 5) ((tXenq goodW0 2 [] .owned true).quiet (cur (tXenq goodW0 2 [] .owned true)) = false) ∧
    -- the lowest free slot is 1 of 2
    sends64 (tXenq goodW0 2 [0] .owned false) = true ∧ (goodW0.getLsbD 63 = true ∧ goodW0.toNat / 2 ^ 56 % 64 = 5 ∧ goodW0.toNat / 2 ^ 48 % 64 = 6) ∧
    (tXenq goodW0 2 [0] .owned false).regionsOf 6 (fun g => g.state == .owned) = [10] ∧ (tXenq goodW0 2 [0] .owned false).hasEntry 6 = true ∧
    (match (tXenq goodW0 2 [0] .owned false).loadObj (cur (tXenq goodW0 2 [0] .owned false)) tCap 64 64 64 3 with
     | .ok s1 _ => (match s1.tableEntry 3 6 1 with
       | .ok (some k, _) => (match objAccess s1 3 6 k (128 + 64) 64 1 kStore with
         | .ok t => (s1.nowGate 3 6 (nowPiece t 64 (128 + 64) k.oid) 5 true).isNone && (s1.stalePiece 6 5 k [nowPiece t 64 (128 + 64) k.oid]).isNone && s1.hasEntry 6
         | .error _ => false)
       | _ => false)
     | _ => false) = true := by
  decide +kernel

/-- The links with conduit 47 in a state, the first LKRSM given, and a map whose slice 0 is reached by it. -/
def lnk (st : CState) : Links :=
  { conduits := [(47, { state := st })], firstRsm := true, topo := some { seq := 5, nsm1 := 0, masks := [(0, 2 ^ 47)] }, joinSent := [0], joined := [0] }

/-- The test slot with s9 = `a` under those links, changed by `f`. -/
def tLnk (st : CState) (a : Word) (f : Links → Links) : State := { onRegs [(9, a)] with links := f (lnk st) }

/-- Every state of a conduit. -/
def cStates : List CState := [.down, .training, .up, .draining, .drained, .retuning]

/-- An access whose request is on a conduit, or held. -/
def tReq (r : Req) : P0Acc := { tAcc (.store 1) with aper := .pool, req := r, first := 1, sentAt := some 2 }

/-- Nothing waits for a route, and no write at the pool for a read lease. -/
def noneHeld (s : State) : Bool :=
  s.slots.all (fun y => y.2.2.p0.all (fun a => a.req != .held)) && s.parts.all (fun q => q.2.acq.isNone) && s.links.waits.isEmpty

/-- The conduit drains while a saved context has a request outstanding. -/
def tSavedReq : State := { tLnk .draining 0 id with parts := [(5, { tPart with tasks := [{ gTask with id := 2, state := .ready, p0 := [tReq (.sent 47)] }] })] }

theorem wit_ConduitEvents :
    cStates.all (fun st => decide (((tLnk st 0 id).conduit 47).state = st ∧ noneHeld (tLnk st 0 id) = true ∧ (tLnk st 0 id).slots.all (fun y => y.2.2.p0.all (fun a => a.req != .sent 47)) = true ∧
      (tLnk st 0 id).parts.all (fun q => q.2.tasks.all (fun t => t.p0.isEmpty)) = true ∧ (tLnk st 0 id).host.log.length < 1024)) = true ∧
    -- draining with a request outstanding; attempts 0, 1 and 2
    (tReq (.sent 47)).req = .sent 47 ∧ ((tLnk .draining 0 id).setSlot 64 0 { tSlot with p0 := [tReq (.sent 47)] }).outstanding 47 = 1 ∧
    -- draining with a request of a saved context alone
    (tSavedReq.slots.all (fun y => y.2.2.p0.all (fun a => a.req != .sent 47)) = true ∧ noneHeld tSavedReq = true ∧ (tSavedReq.conduit 47).state = .draining ∧
      (tSavedReq.task? 5 2).any (fun t => t.p0 == [tReq (.sent 47)]) = true) ∧
    -- a recall through a conduit that is UP or DRAINING, and through one that is not; a line whose lease has ended
    ([CState.up, .draining].all (fun st => ((tLnk st 0 id).maskOfDest ((tLnk st 0 id).sliceOf 0)).contains 47) = true ∧
      (tLnk .up 0 id).off = false ∧ ((tLnk .down 0 id).maskOfDest ((tLnk .down 0 id).sliceOf 0)).all (fun m => ((tLnk .down 0 id).conduit m).state != .up) = true) ∧
    (let l : ResLine := { line := 7, data := 0, till := 0, ends := 9 }
     ((tH.setPart 63 { lines := [l] }).part 63).lines = [l] ∧ l.till ≤ tH.tick ∧ tH.tick < l.ends) ∧
    [0, 1, 2].all (fun n => (({ tH with links := { lnk .training with conduits := [(47, { state := .training, tries := n })] } } : State).conduit 47).tries == n) = true ∧
    -- a full log; a slot whose accesses are on another conduit
    (∀ n, n = 1024 → ({ tH with host := { tH.host with log := List.replicate n { tick := 0, cls := 0, region := 0, block := 0, part := 0, dropped := 0, addr := 0, detail := 0 } } } : State).host.log.length = n) ∧
    [tReq (.sent 46)].all (fun a => a.req != .sent 47) = true ∧
    -- Join: no conduit UP, one UP, fenced; its acceptance: not sent, sent, accepted before
    ((List.range 48).all (fun m => ((tLnk .down 0 id).conduit m).state != .up) = true) ∧ ((tLnk .up 0 id).conduit 47).state = .up ∧ (tLnk .up 0 id).links.fenced = false ∧
    (tLnk .up 0 (fun l => { l with fenced := true })).links.fenced = true ∧ (255 ∈ (tLnk .up 0 (fun l => { l with joinSent := [255], joined := [] })).links.joinSent ∧ 255 ∉ (tLnk .up 0 (fun l => { l with joinSent := [255], joined := [] })).links.joined) ∧
    (0 ∈ (tLnk .up 0 id).links.joined) ∧
    -- a recall of one line and of an aligned gigabyte; a partition at the end of the range
    (128 % 2 ^ 7 = 0 ∧ 0x40000000 % 2 ^ 30 = 0 ∧ (63 : Nat) ≤ 63) := by
  refine ⟨by decide +kernel, by decide, by decide, by decide, by decide, by decide, by decide, fun n _ => List.length_replicate, ?_⟩
  decide

/-- c2's object with a topology map at offset 64, its first two words and that of destination 0, while conduit 0 is UP and serves slice 0
too. -/
def tTop (w0 w1 d0 : Nat) (st : CState) : State :=
  { tLnk st 64 (fun l => { l with conduits := (0, { state := .up }) :: l.conduits, topo := some { seq := 5, nsm1 := 0, masks := [(0, 2 ^ 47 + 1)] } }) with mem := wrBytes tH.mem (0x10000 + 64) (leBytes 8 w0 ++ leBytes 8 w1 ++ zeros 48 ++ leBytes 8 d0) }

/-- The bytes of that image. -/
def topBytes (s : State) : List Byte :=
  match s.loadObj (cur s) tCap 64 4160 1 4 with
  | .ok _ b => b
  | _ => []

/-- A word of that image. -/
def topWord (s : State) (n : Nat) : Nat := leNat (((topBytes s).drop n).take 8)

/-- LKTOP of it issues normally. -/
def tops (s : State) : Bool :=
  issuesB s (cur s) (.lktop 5 9 2) && s.mayAccess (cur s) .acq && (match s.loadObj (cur s) tCap 64 4160 1 4 with
    | .ok _ _ => true
    | _ => false)

theorem wit_LinkInstructions :
    cStates.all (fun st => decide (Meets (tLnk st 0 id) (.lkst 5 0 false) (((tLnk st 0 id).conduit 47).state = st) ∧ Meets (tLnk st 47 id) (.lkst 5 9 true) (((tLnk st 0 id).conduit 47).state = st))) = true ∧
    Meets (tLnk .up 48 id) (.lkst 5 9 true) ((47 : Nat) < 48) ∧
    -- a port with a lane repaired, and without
    ((tLnk .up 0 id).host.repaired = false ∧ [0, 7].all (fun x => ({ tH with host := { tH.host with repaired := true, image := List.replicate 111 0xFF ++ [x] } } : State).host.image[64 + 47]? == some x) = true) ∧
    -- LKDRN and LKRSM: bit 48; each state of conduit 47
    (∀ i ∈ [Instr.lkdrn 5 9, .lkrsm 5 9], Meets (tLnk .up 0x0001000000000000 id) i (2 ^ 48 ≤ (0x0001000000000000 : Word).toNat)) ∧
    cStates.all (fun st => decide (∀ i ∈ [Instr.lkdrn 5 9, .lkrsm 5 9], Meets (tLnk st 0x0000FFFFFFFFFFFF id) i (noneHeld (tLnk st 0 id) = true ∧ ((tLnk st 0 id).conduit 47).state = st))) = true ∧
    -- LKTOP: misaligned; an image beyond the object; one that is uncorrectable
    Meets (onRegs [(9, 65)]) (.lktop 5 9 2) ((65 : Nat) % 64 ≠ 0) ∧
    (let s := onRegs [(9, 61440)]
     let v := { tTop 0 0 0 .drained with memErr := [(0x10000 + 4160) / 8] }
     [(s, 61440, 0x06), (v, 64, 0x0E)].all (fun x => issuesB x.1 (cur x.1) (.lktop 5 9 2) && x.1.mayAccess (cur x.1) .acq && (match x.1.loadObj (cur x.1) tCap x.2.1 4160 1 4 with
       | .fault _ f => f.hold.isNone && f.code == x.2.2
       | _ => false)) = true) := by
  decide +kernel

/-- The slot whose acquire is outstanding. -/
def tAcqOut : Slot := { tSlot with ctx := { tCtx with regs := [(9, 64)] }, p0 := [{ tAcc (.load 5) with ord := .acq }], seq := 2 }

theorem wit_LinkInstructions_lktop :
    Meets (onSlot tAcqOut) (.lktop 5 9 2) ((onSlot tAcqOut).mayAccess tAcqOut .acq = false) ∧
    -- a bit that must be zero, in the first word, the second, and a destination's
    (tops (tTop (2 ^ 40) 0 0 .drained) = true ∧ topWord (tTop (2 ^ 40) 0 0 .drained) 0 = 2 ^ 40) ∧
    (tops (tTop 0 (2 ^ 48) 0 .drained) = true ∧ topWord (tTop 0 (2 ^ 48) 0 .drained) 8 = 2 ^ 48) ∧
    (tops (tTop 0 0 (2 ^ 48) .drained) = true ∧ topWord (tTop 0 0 (2 ^ 48) .drained) 64 = 2 ^ 48) ∧
    -- answers 1, 2 and 3, and an image that is installed: MAPST, the sequence number, and a conduit of RETUNE that is UP
    [CState.up, .down, .draining, .drained].all (fun st => tops (tTop (2 ^ 32 * 255 + 6) 0 1 st) && decide ((tTop 6 0 1 st).mapst = (match st with | .draining => 1 | .drained => 2 | _ => 0))) = true ∧
    (tops (tTop 5 0 1 .drained) = true ∧ (tTop 5 0 1 .drained).lmap = 5 ∧ topWord (tTop 5 0 1 .drained) 0 % 2 ^ 32 = 5) ∧
    (let s := tTop 6 1 1 .drained
     tops s = true ∧ s.mapst = 2 ∧ (topWord s 8).testBit 0 = true ∧ (s.conduit 0).state = .up) ∧
    (tops (tTop 6 (2 ^ 47) (2 ^ 48 - 1) .drained) = true ∧ (topWord (tTop 6 (2 ^ 47) 1 .drained) 8).testBit 47 = true ∧ (tTop 6 (2 ^ 47) 1 .drained).lmap = 5) := by
  decide +kernel

/-- The image that is installed. -/
def sTop : State := tTop 6 (2 ^ 47) (2 ^ 48 - 1) .drained

/-- Its words beyond the first destination are zero, so no bit is set that must be zero. -/
theorem wit_LinkInstructions_zero (n : Nat) (hn : 72 ≤ n) : topWord sTop n = 0 := by
  have hz : ((topBytes sTop).drop 72).all (fun b => b == 0) = true := by decide +kernel
  have e : (topBytes sTop).drop n = ((topBytes sTop).drop 72).drop (n - 72) := by rw [List.drop_drop]; congr 1; omega
  have key : ∀ l : List Byte, l.all (fun b => b == 0) = true → leNat l = 0 := by
    intro l
    induction l with
    | nil => intro _; rfl
    | cons b l ih =>
      intro h
      rw [List.all_cons, Bool.and_eq_true, beq_iff_eq] at h
      rw [leNat, h.1, ih h.2]; rfl
  apply key
  rw [e, List.all_eq_true] at *
  exact fun x hx => hz x (List.mem_of_mem_drop (List.mem_of_mem_take hx))

/-- A guest at S with s9 = a name and s10 = a length; its partition's lease, LSACQ, and the pool's row of the name 9; conduit 47 in a
state. -/
def tLease (name len : Word) (l : Lease) (acq : Option Acquire) (row : PoolLease) (lk : Links) : State :=
  { guest (leafOf 0 9) (gRegs true name len) with
    parts := (5, { tPart with lease := l, acq := acq, lscfg := 1000 }) :: tH.parts, links := { lk with leases := [row] } }

/-- The pool's row of the name 9. -/
def row9 (held other : Bool) (token : Word) (till : Nat) : PoolLease := 
  { name := 9, holder := if held then (if other then some (.other 9 0) else some (.own 0)) else none, token := token, till := till }

/-- A lease on the name 9 with token 4. -/
def lease9 (st : LeaseSt) (till : Nat) : Lease := { st := st, name := 9, token := 4, till := till }

/-- LSACQ of slot 0 of core 3, or of another slot, answered or not. -/
def acq9 (slot : Nat) (done : Option Nat) : Acquire := { core := 3, slot := slot, name := 9, len := 1000000, sent := 0, first := 0, conduit := some 47, ord := 1, done := done }

/-- Links that give each of the routes: sent, timed, held, no route, fenced. -/
def routes : List (Links × Route) :=
  [(lnk .up, .sent 47), (lnk .training, .timed), (lnk .drained, .held), (lnk .down, .down), ({ lnk .up with fenced := true }, .fenced)]

theorem wit_StepLeases_lsacq :
    (∀ it ∈ [TokItem.tok, .name, .left, .st], Meets (tLease 9 0 (lease9 .live 1000000) none (row9 true false 4 1000000) (lnk .up)) (.lstok 5 it)
      ((tLease 9 0 (lease9 .live 1000000) none (row9 true false 4 1000000) (lnk .up)).tick < 1000000)) ∧
    [lease9 .live 0, lease9 .lost 0, {}].all (fun l => decide (Meets (tLease 9 0 l none (row9 true false 4 1000000) (lnk .up)) (.lstok 5 .st) (l.till = 0))) = true ∧
    [true, false].all (fun w =>
      -- the fontanier; name 0; a length above 16,000; the greatest
      decide (Meets (onRegs [(9, 9)]) (.lsacq 5 9 10 w) (selPart 64 (cur (onRegs [(9, 9)])) = 64) ∧ Meets (tLease 0 16000 {} none (row9 false false 0 0) (lnk .up)) (.lsacq 5 9 10 w) ((0 : Word) = 0) ∧
        Meets (tLease 9 16001 {} none (row9 false false 0 0) (lnk .up)) (.lsacq 5 9 10 w) (16000 < (16001 : Word).toNat) ∧
        -- an LSACQ of another slot, one of this slot not answered, and answered
        Meets (tLease 9 16000 {} (some (acq9 1 (some 0))) (row9 false false 0 0) (lnk .up)) (.lsacq 5 9 10 w) ((acq9 1 (some 0)).slot ≠ 0) ∧
        Meets (tLease 9 16000 {} (some (acq9 0 none)) (row9 false false 0 0) (lnk .up)) (.lsacq 5 9 10 w) ((acq9 0 none).done = none) ∧
        Meets (tLease 9 16000 {} (some (acq9 0 (some 2))) (row9 false false 0 0) (lnk .up)) (.lsacq 5 9 10 w) ((acq9 0 (some 2)).slot = 0) ∧
        -- a LIVE lease; free names with each route: never held, and a lease that ran out; a held name
        Meets (tLease 9 16000 (lease9 .live 1) none (row9 true false 4 1000000) (lnk .up)) (.lsacq 5 9 10 w) ((tLease 9 16000 (lease9 .live 1) none (row9 true false 4 1000000) (lnk .up)).tick < 1)) &&
      routes.all (fun r => decide (Meets (tLease 9 0 (lease9 .live 0) none (row9 false false 4 0) r.1) (.lsacq 5 9 10 w)
        ((tLease 9 0 (lease9 .live 0) none (row9 false false 4 0) r.1).route ((tLease 9 0 {} none (row9 false false 4 0) r.1).sliceOfName 9) 0 = r.2))) &&
      decide (Meets (tLease 9 0 {} none (row9 true true 4 0) (lnk .up)) (.lsacq 5 9 10 w) ((row9 true true 4 0).till ≤ (tLease 9 0 {} none (row9 true true 4 0) (lnk .up)).tick)) &&
      decide (Meets (tLease 9 0 {} none (row9 true true 4 1) (lnk .up)) (.lsacq 5 9 10 w) ((tLease 9 0 {} none (row9 true true 4 1) (lnk .up)).tick < (row9 true true 4 1).till))) = true := by
  decide +kernel

theorem wit_StepLeases_lsrnw :
    Meets (onRegs [(10, 0)]) (.lsrnw 5 10) (selPart 64 (cur (onRegs [(10, 0)])) = 64) ∧
    Meets (tLease 9 16001 {} none (row9 false false 0 0) (lnk .up)) (.lsrnw 5 10) (16000 < (16001 : Word).toNat) ∧
    [{}, lease9 .lost 9, lease9 .live 0].all (fun l => decide (Meets (tLease 9 16000 l none (row9 true false 4 1000000) (lnk .up)) (.lsrnw 5 10) (l.till ≤ 9))) = true ∧
    routes.all (fun r => decide (Meets (tLease 9 0 (lease9 .live 1) none (row9 true false 4 1) r.1) (.lsrnw 5 10)
      ((tLease 9 0 {} none (row9 true false 4 0) r.1).route ((tLease 9 0 {} none (row9 true false 4 0) r.1).sliceOfName 9) 0 = r.2))) = true ∧
    -- another token, another holder, not held, run out
    [row9 true false 5 1, row9 true true 4 1, row9 false false 4 1, row9 true false 4 0].all (fun q => decide (Meets (tLease 9 1 (lease9 .live 1) none q (lnk .up)) (.lsrnw 5 10) (q.name = 9))) = true := by
  decide +kernel

/-- The lease instructions of a slot that has waited for a training conduit since tick 0. -/
def tTrain (l : Lease) (tick : Nat) : State :=
  let s := tLease 9 0 l none (row9 true false 4 9000000) (lnk .training)
  { s.setSlot 3 0 { gRegs true 9 0 with heldAt := some 0 } with tick := tick }

theorem wit_StepLeases_timed :
    [999999, 1000000].all (fun k => decide (Meets (tTrain {} k) (.lsacq 5 9 10 true) ((tTrain {} k).route ((tTrain {} k).sliceOfName 9) 0 = .timed) ∧
      (∀ i ∈ [Instr.lsrnw 5 10, .lsrel 5], Meets (tTrain (lease9 .live 9000000) k) i ((cur (tTrain (lease9 .live 9000000) k)).heldAt = some 0 ∧
        (tTrain (lease9 .live 9000000) k).leaseWrites 5 = false)))) = true := by
  decide +kernel

theorem wit_StepLeases_rest :
    Meets tH (.lsrel 5) (selPart 64 (cur tH) = 64) ∧
    [{}, lease9 .lost 9, lease9 .live 0].all (fun l => decide (Meets (tLease 9 0 l none (row9 true false 4 1000000) (lnk .up)) (.lsrel 5) (l.till ≤ 9))) = true ∧
    (let s := (tLease 9 0 (lease9 .live 1) none (row9 true false 4 1) (lnk .up)).setSlot 3 1 { gSlot true with p0 := [{ tReq (.sent 47) with token := some 4 }] }
     issuesB s (cur s) (.lsrel 5) = true ∧ s.leaseWrites 5 = true) ∧
    routes.all (fun r => decide (Meets (tLease 9 0 (lease9 .live 1) none (row9 true false 4 1) r.1) (.lsrel 5) ((tLease 9 0 (lease9 .live 1) none (row9 true false 4 1) r.1).leaseWrites 5 = false))) = true ∧
    -- LEASE_GRANT: answered; held; a token not above; above; LSACQ_WAIT_TIMEOUT at its 32 ms; no LSACQ
    (((tLease 9 0 {} (some (acq9 0 none)) (row9 true false 4 0) (lnk .up)).part 5).acq = some (acq9 0 none) ∧
      (tLease 9 0 {} (some (acq9 0 none)) (row9 true false 4 0) (lnk .up)).leaseRow 9 = row9 true false 4 0 ∧ (4 : Word).toNat < 5 ∧ (acq9 0 none).sent + 0 ≤ tH.tick) ∧
    ((acq9 0 none).sent + 32000000 ≤ { tH with tick := 32000000 }.tick ∧ tH.tick < (acq9 0 none).sent + 32000000) ∧ (tH.part 63).acq = none ∧
    ((tLease 9 0 {} (some (acq9 0 none)) (row9 true false 4 0) (lnk .up)).slot? 3 0).isSome = true ∧
    -- STEP_LEASE_EXPIRY at E_d and before it
    ((tLease 9 0 (lease9 .live 0) none (row9 true false 4 0) (lnk .up)).tick = 0 ∧ (lease9 .live 1).till = 1 ∧
      (tLease 9 0 (lease9 .live 0) none (row9 true false 4 0) (lnk .up)).slots.all (fun y => y.2.2.p0.isEmpty) = true ∧
      (tLease 9 0 (lease9 .live 0) none (row9 true false 4 0) (lnk .up)).parts.all (fun q => q.2.tasks.all (fun t => t.p0.isEmpty)) = true) ∧
    -- with one lease-bound access of the only slot, held, or an atomic that is on its way
    [{ tReq .held with token := some 4 }, { tReq (.sent 47) with op := .rmw .add 1 (some 5), token := some (4 : Word) }].all (fun a =>
      let s := { tH with cores := [(3, { slots := [(0, { gSlot true with p0 := [a], seq := 2 })] })], parts := [(5, { tPart with lease := lease9 .live 0 })], links := lnk .up }
      s.slots.length == 1 && (s.slot? 3 0).any (fun sl => sl.phase == .run && sl.saving.isNone && sl.breaks.isEmpty && sl.trigAt.isNone && sl.part == 5 && sl.p0 == [a]) &&
        a.endsWithLease && s.parts.all (fun q => q.2.tasks.all (fun t => t.p0.isEmpty))) = true := by
  decide +kernel

/-- A guest slot with the access `a` outstanding, under those links; its partition holds a lease on the name 9. -/
def tPool (a : P0Acc) (lk : Links) (tick : Nat) (row : PoolLease) : State :=
  { guest (leafOf 0 9) { gSlot true with p0 := [a], seq := 2 } with
    tick := tick, parts := (5, { tPart with lease := lease9 .live 9000000 }) :: tH.parts, links := { lk with leases := [row] } }

/-- The same with requests held while a conduit trains, from tick 1 on. -/
def tTimed (op : P0Op) (n : Nat) : P0Acc := { tReq .held with op := op, reqSeq := n, sentAt := none, timed := some 1 }

/-- The slot runs with that access outstanding. -/
def outWith (s : State) (a : P0Acc) : Bool :=
  (s.slot? 3 0).any (fun sl => sl.phase == .run && sl.saving.isNone && sl.breaks.isEmpty && sl.trigAt.isNone && sl.p0[0]? == some a)

/-- The route of the request of that access. -/
def viaOf (s : State) (a : P0Acc) : Route := s.route (s.sliceOf (a.addr / 2097152)) (a.addr / 128)

theorem wit_PoolAnswers :
    -- held for 1 ms and less with a conduit that trains, and with each other route; MAPST ACTIVE or not
    routes.all (fun r => [1000000, 1000001].all (fun k => outWith (tPool (tTimed (.store 1) 0) r.1 k (row9 true false 4 9000000)) (tTimed (.store 1) 0) &&
      viaOf (tPool (tTimed (.store 1) 0) r.1 k (row9 true false 4 9000000)) (tTimed (.store 1) 0) == r.2)) = true ∧
    ((1 + 1000000 ≤ 1000001 ∧ ¬1 + 1000000 ≤ 1000000) ∧ (tPool (tTimed (.load 5) 0) (lnk .training) 0 (row9 true false 4 9000000)).mapst = 0 ∧
      (tPool (tTimed (.load 5) 0) (lnk .drained) 0 (row9 true false 4 9000000)).mapst = 2) ∧
    -- its outcome: 2 ms after its first send, and less; applied perhaps, with retry status, and a read
    [tReq (.sent 47), { tReq .held with retry := true }, { tReq (.sent 47) with op := .load 5 }].all (fun a => [2000001, 2000002].all (fun k =>
      outWith (tPool a (lnk .up) k (row9 true false 4 9000000)) a && a.sentAt == some 2)) = true ∧
    -- retry status: on a DRAINING conduit, and not on one
    ((tPool (tReq (.sent 47)) (lnk .draining) 0 (row9 true false 4 1)).conduit 47).state = .draining ∧ ((tPool (tReq (.sent 47)) (lnk .up) 0 (row9 true false 4 1)).conduit 47).state = .up ∧
    -- a held request while MAPST is DRAINED; one that goes out: fresh or numbered, write or read, bound by a live lease or not
    ({ tReq .held with sentAt := none }.timed = none ∧ (tPool { tReq .held with sentAt := none } (lnk .drained) 0 (row9 true false 4 9000000)).mapst = 2) ∧
    [P0Op.store 1, .load 5].all (fun op => [0, 1].all (fun n => [none, some (4 : Word)].all (fun tok =>
      let a := { tTimed op n with token := tok, lname := 9 }
      let s := tPool a (lnk .up) 1000 (row9 true false 4 9000000)
      outWith s a && viaOf s a == .sent 47 && s.leaseLive 5 && !s.lineBusy a.line 47 && s.mapst == 0))) = true ∧
    -- STALE: no token; a token that is still the pool's; one that is not, by each of the four reasons
    ((tReq (.sent 47)).token = none ∧ { tReq (.sent 47) with token := some (4 : Word) }.token = some 4) ∧
    (tPool (tReq (.sent 47)) (lnk .up) 0 (row9 true false 4 1)).leaseRow 9 = row9 true false 4 1 ∧
    [row9 true false 5 1, row9 true true 4 1, row9 false false 4 1, row9 true false 4 0].all (fun q => decide ((tPool (tReq (.sent 47)) (lnk .up) 0 q).leaseRow 9 = q ∧ ((tPool (tReq (.sent 47)) (lnk .up) 0 q).part 5).lease.name = 9)) = true := by
  decide +kernel

/-- A guest slot with that command queued. -/
def tStaleCmd (m : Cmd) : State :=
  let s := tPool (tReq .fresh) (lnk .up) 0 (row9 true false 5 1)
  s.setCore 3 { s.core 3 with cmds := [m] }

/-- A command that writes under the lease. -/
def mLease (e : Eng) (i : Instr) (c : Cap) : Cmd := { tCmd e 1 with instr := i, cap := c }

/-- A lease-bound capability. -/
def lbCap : Cap := { tCap with w0 := tCap.w0 ||| BitVec.ofNat 64 (2 ^ 52) }

theorem wit_PoolAnswers_rest :
    -- commands that the lease binds and that it does not
    ((tStaleCmd (tCmd .vs 1)).first? 3 0 .vs = some (tCmd .vs 1) ∧ (tCmd .vs 1).leaseBound = false) ∧
    ((tStaleCmd (tCmd .xf 1)).slotCmds 3 0).filter (fun x => x.eng == .xf) = [tCmd .xf 1] ∧
    [(Eng.vs, lbCap, ({} : Cap)), (.xf, {}, lbCap)].all (fun q => { mLease q.1 (.vstc (.h 4 0) 1 9 0 0 0 0) q.2.1 with capF := q.2.2 }.leaseBound) = true ∧
    (onSlot { tSlot with p0 := [tReq (.sent 47)], seq := 2 }).slots = [(64, 0, { tSlot with p0 := [tReq (.sent 47)], seq := 2 })] ∧
    -- FENCED: no pool access; one slot that runs with one, its numbers distinct
    (tPool (tAcc (.store 1)) (lnk .up) 0 (row9 true false 4 1)).slots.all (fun x => x.2.2.p0.all (fun a => !a.atPool)) = true ∧
    ((tReq (.sent 47)).atPool = true ∧ ((tPool (tReq (.sent 47)) (lnk .up) 0 (row9 true false 4 1)).slot? 3 0).any (fun sl => sl.phase == .run && sl.breaks.isEmpty && sl.trigAt.isNone && decide ((sl.p0.map (fun a => a.seq)).Nodup)) = true) ∧
    -- a peer's request: uncorrectable data; sizes 1 and 8; a compare that matches and one that does not
    (poisoned { tH with memErr := [4] }.memErr 32 8 = true ∧ poisoned tH.memErr 32 8 = false ∧ rdN tH.mem 0x900000 8 = 0) := by
  decide +kernel

/-- The host link of the test state changed. -/
def tHost (f : HostLink → HostLink) : State := { tH with host := f tH.host }

/-- A locked package whose partition 5 holds region 3, its Cistern write window open or not, with `n` task entries. -/
def tLocked (open_ : Bool) (n : Nat) (place : Bool) (m : Bytes) : State :=
  let s := guest (leafOf 0 9) (gSlot true)
  let s := s.setRegion 64 { nestTlb := [{ k0 := 5, k1 := 0, val := leafOf 0 9, aux := 0x3000, till := 1000000000 }] }
  { (if place then s else s.setRegion 3 {}) with
    mem := m, host := { s.host with lock := true },
    parts := (5, { tPart with cstOpen := open_, cqsize := BitVec.ofNat 64 n, tasks := [gTask] }) :: tH.parts }

/-- An image of REPAIR that is right, with byte `n` replaced. -/
def img (n v : Nat) : List Nat :=
  let b := [0x20, 0x80, 0, 2, 8] ++ List.replicate 43 0 ++ List.replicate 64 255 ++ List.replicate 16 0
  b.take n ++ [v] ++ b.drop (n + 1)

/-- The spare fields of an image as R384 numbers them. -/
def spares (b : List Nat) : List (Nat × Nat) :=
  let v := b.getD 0 0 + 2 ^ 8 * b.getD 1 0 + 2 ^ 16 * b.getD 2 0 + 2 ^ 24 * b.getD 3 0 + 2 ^ 32 * b.getD 4 0
  (List.range 4).map (fun d => (v / 2 ^ (10 * d) % 32, v / 2 ^ (10 * d + 5) % 32))

theorem wit_FeatAndLog :
    (∀ it ∈ [FeatItem.off, .acc, .lock], Meets tH (.feat 63 it) (tH.host.lock = false) ∧ Meets (tHost (fun h => { h with lock := true })) (.feat 0 it) ((tHost (fun h => { h with lock := true })).host.lock = true)) ∧
    Meets tH (.errlog 5 0 0 false) (tH.host.log = []) ∧
    -- .pop: misaligned; an empty log; an entry, with an access outstanding, with a store refused, and with one that is made
    Meets (onRegs [(9, 80)]) (.errlog 5 9 2 true) (80 % 32 ≠ 0) ∧ Meets (onRegs [(9, 64)]) (.errlog 5 9 2 true) ((onRegs [(9, 64)]).host.log = []) := by
  decide

/-- One log entry. -/
def logE : LogEntry := { tick := 7, cls := 4, region := 1, block := 0, part := 255, dropped := 0, addr := 0, detail := 0 }

/-- The test slot whose release waits. -/
def tPop (off : Word) (busy : Bool) : State :=
  { onSlot { tSlot with ctx := { tCtx with regs := [(9, off)] }, p0 := if busy then [tAcc (.store 1)] else [], seq := 2 } with host := { tH.host with log := [logE] }, links := tLinks }

theorem wit_HostCommands_log :
    Meets (tPop 64 true) (.errlog 5 9 2 true) ((tPop 64 true).mayAccess (cur (tPop 64 true)) .rel = false) ∧
    Meets (tPop 65536 false) (.errlog 5 9 2 true) ((match (tPop 65536 false).storeObj (cur (tPop 65536 false)) tCap 65536 32 4 logE.bytes with | .fault _ f => f.hold.isNone | _ => false) = true) ∧
    Meets (tPop 65504 false) (.errlog 5 9 2 true) ((tPop 65504 false).mayAccess (cur (tPop 65504 false)) .rel = true ∧
      (match (tPop 65504 false).storeObj (cur (tPop 65504 false)) tCap 65504 32 4 logE.bytes with | .ok _ _ => true | _ => false) = true ∧
      (match nowPieces (tPop 65504 false) 64 64 tCap kStore 32 (cuts 16 65504 32) with | .ok ts => ts.length == 1 | .error _ => false) = true) := by
  decide +kernel

theorem wit_HostCommands :
    ([0, 4, 0x15, 0xFE].all (fun c => !([1, 2, 3, 0x10, 0x11, 0x12, 0x13, 0x14].contains c))) = true ∧
    -- REPAIR: done before; each rule broken in one field at its boundary; an image that is right, and one at the limits
    (tHost (fun h => { h with repaired := true })).host.repaired = true ∧ (tH.host.lock = false ∧ tH.host.repaired = false) ∧
    (spares (img 0 0)).any (fun q => q.1 == q.2) = true ∧ (spares (img 0 0x32)).any (fun q => decide (17 < q.1)) = true ∧ (spares (img 1 0x83)).any (fun q => decide (17 < q.2)) = true ∧
    ((img 48 32).getD 48 0 = 32 ∧ (img 48 31).getD 49 0 = 255 ∧ (img 64 8).getD 64 0 = 8 ∧ (img 111 7).getD 111 0 = 7 ∧ (img 5 1).getD 5 0 = 1 ∧ (img 47 1).getD 47 0 = 1 ∧ (img 112 1).getD 112 0 = 1 ∧ (img 127 1).getD 127 0 = 1) ∧
    ((spares (img 8 0)).all (fun q => decide (q.1 ≠ q.2) && decide (q.1 ≤ 17) && decide (q.2 ≤ 17)) = true ∧ (img 8 0).length = 128) ∧
    -- KEYSET's limits; the log with and without an entry
    (mget none (tH5.part 5).keys 0 = some { key := 1 } ∧ mget none (tH5.part 5).keys 15 = none) ∧ tH.host.log = [] ∧ (tPop 0 false).host.log = [logE] ∧
    -- TOKCHK and TOKGET: a region of another function, of its own; the states of a region; its token
    ((tReg [(3, tokReg .held)] 0 0).region 3).part = 5 ∧ ((tReg [(3, tokReg .held)] 0 0).region 3).assigned = true ∧
    allStates.all (fun st => ((tReg [(63, tokReg st)] 0 0).region 63).token.isSome) = true ∧ ((tReg [] 0 0).region 63).token = none ∧
    -- LAUNCH: locked; none placed; the window open; no entry; records that break a rule, and one that is entered
    ((tLocked false 1 true []).host.lock = true ∧ (tLocked false 1 false []).placement 5 = [] ∧ (tLocked true 1 true []).placement 5 = [3] ∧ ((tLocked true 1 true []).part 5).cstOpen = true) ∧
    ((tLocked false 1 true []).entryCount 5 < ((tLocked false 1 true []).part 5).tasks.length + 1) ∧
    ((tLocked false 2 true []).entryCount 5 = ((tLocked false 2 true []).part 5).tasks.length + 1) ∧
    (match (tLocked false 2 true (wrBytes [] (9 * 2 ^ 21 + 0x20000) (tRec 0 0 8 0 0 0x7F 0))).launchRecords 5 0x20000 1 0 with | .error e => e.fault.hold.isNone | .ok _ => false) = true ∧
    (match (tLocked false 2 true (wrBytes [] (9 * 2 ^ 21 + 0x20000) goodRec)).launchRecords 5 0x20000 1 0 with | .ok (ts, _) => ts.length == 1 | .error _ => false) = true ∧
    -- records behind a route that is not there; a VF with a command that waits, and one with none
    (match (noRoute { (tLocked false 2 true []) with parts := [(5, { tPart with cqsize := 2, tasks := [gTask] })] }).launchRecords 5 0x20000 1 0 with | .error e => e.fault.hold == some .conduit | .ok _ => false) = true ∧
    (tHost (fun h => { h with queue := [⟨.vf 63, .pubkey, none⟩] })).host.queue.any (fun h => h.fn == .vf 63) = true ∧ tH.host.queue = [] := by
  decide +kernel

/-- ACCEPT: a feature that is not offered, and none. -/
theorem wit_HostCommands_accept : (∃ mask : Nat, ∀ j, j < 16 → (mask.testBit j = true → Config.featOff.getLsbD j = true)) ∧
    ((tHost (fun h => { h with lock := true })).host.lock = true ∧ (tHost (fun h => { h with repaired := true })).host.lock = false) :=
  ⟨⟨0, fun j _ h => by simp at h⟩, by decide⟩

theorem wit_SidebandPowerAndReset :
    allStates.all (fun st => ((tReg [(63, reg5 st)] 0 0).region 63).state == st) = true ∧ ((3 : Nat) ≤ 3) ∧ tH.host.log.length < 1024 ∧ ((tReg [] 0 0).region 63).base = 16 := by
  decide

/-- A locked package whose region 63 holds a token. -/
def tTokget : State := { tReg [(63, tokReg .held)] 0 0 with host := { tH.host with lock := true } }

/-- TOKGET to system memory, to a guest page that is not mapped, and to one behind a route that is not there. -/
theorem wit_HostCommands_tokget : (match tTokget.areaPieces 64 0x400000 3732 with
      | .ok [y] => y.len == 3732
      | _ => false) = true ∧
    (match tTokget.areaPieces 5 0x0000FFFFFFE00000 3732 with
      | .error f => f.hold.isNone
      | _ => false) = true ∧
    (match (noRoute tTokget).areaPieces 64 0x400000 3732 with
      | .error f => f.hold == some .conduit
      | _ => false) = true := by
  decide +kernel
/-! ### Worked examples of the spec -/

/-- The register that the running slot holds in a next state. -/
def regOf (o : Host.Outcome State Fault Refusal) (n : Nat) : Option Word :=
  match o with
  | .next t => (t.slot? t.curCore t.curSlot).map (fun sl => sl.ctx.reg n)
  | _ => none

/-- The example of R117: s4 and s5 at its values. -/
def satSlot : Slot := { tSlot with ctx := { tCtx with regs := [(4, 0x7FFFFFFFFFFFFFF0), (5, 0x20)] } }

/-- The example of R117: a sum that wraps. -/
theorem test_add_wraps : regOf (exec (.add 3 4 5 .wrap) (onSlot satSlot)) 3 = some 0x8000000000000010 := by decide

/-- The example of R117: a sum that saturates, and an unsigned difference that does. -/
theorem test_add_saturates : regOf (exec (.add 3 4 5 .sat) (onSlot satSlot)) 3 = some 0x7FFFFFFFFFFFFFFF ∧
    regOf (exec (.sub 3 5 4 .satu) (onSlot satSlot)) 3 = some 0 := by decide

/-- The example of R93: stochastic rounding at both edges of a row. -/
theorem test_sto_row :
    let r := fltB16.roundRow .sto false ((0x3F808000 :: 0x3F800001 :: List.replicate 29 0x40000000 ++ [0xBF808000]).map
      (fun b => some (fp32 b)))
    (r.getD 0 0, r.getD 1 0, r.getD 2 0, r.getD 31 0) = (0x3F80, 0x3F80, 0x4000, 0xBF81) := by decide

/-- The example of R99: 12.0, 0.3 and -0.01 scaled by 32 and rounded to FP8L. -/
theorem test_scaled_fp8l : [0x41400000, 0x3E99999A, 0xBC23D70A].map (fun b => flt8L.round .rne true 0 ((fp32 b).scale 5)) =
    [0x7C, 0x52, 0xAA] := by decide

/-- The example of R103: 1.09375 rounds up on the logarithmic scale. -/
theorem test_vqln_rounds_by_logarithm : qlnRound .rne 0 (fp32 0x3F8C0000) = 0x11 := by decide

/-- The example of R103: the same number rounds down between the values. -/
theorem test_ln6_rounds_by_value : ln6Round .rne 0 (fp32 0x3F8C0000) = 0x10 := by decide

/-- The example of R150 in blk32: FP8L, 300 by 100, BASE 5. -/
theorem test_layout_blk32 :
    let d : Desc := { w0 := 2 ^ 27 + 2 * 2 ^ 24 + toW (Fmt.code .fp8l) * 2 ^ 16, w1 := 300 + 100 * 2 ^ 32, w3 := 5 }
    (bytePos d ⟨200, 70, 0, 0⟩, d.offset (bytePos d ⟨200, 70, 0, 0⟩)) = (0x7348, 0x57348) := by decide

/-- The example of R150 in blk128: FP32, 1000 by 500. -/
theorem test_layout_blk128 :
    let d : Desc := { w0 := 2 ^ 27 + 3 * 2 ^ 24, w1 := 1000 + 500 * 2 ^ 32 }
    (bytePos d ⟨600, 300, 0, 0⟩ / 65536, bytePos d ⟨600, 300, 0, 0⟩ % 65536) = (20, 0x5960) := by decide

/-- The example of R264: the two blocks of a row-mask stream. -/
theorem test_stream_blocks :
    packBlock (0x11 :: List.replicate 4 0 ++ (0x22 :: List.replicate 122 0)) = 0x21 :: List.replicate 15 0 ++ [0x11, 0x22] ∧
    packBlock (0 :: 0 :: 0x33 :: List.replicate 69 0) = 0x04 :: List.replicate 15 0 ++ [0x33] := by decide


end Sys2Proof.Tests
end

section
/-! PROOFS. Every step keeps the canonical form of the byte stores and of the Reservoir shares (log entries 1 and 69): a lemma for
each operation of the model that answers a state, in the order of the model's definitions. -/

namespace Sys2Proof.Machine

open State

/-! ### Results that carry states -/

/-- Every next state that an outcome answers is canonical. -/
def NextWf : Host.Outcome State Fault Refusal → Prop
  | .next t => t.storesWf
  | _ => True

/-- The state that an operation answers, if it answers one, is canonical. -/
def OptWf : Option State → Prop
  | some t => t.storesWf
  | none => True

/-- The state that an operation leaves, unless it meets a fault, is canonical. -/
def OkWf {ε : Type} : Except ε State → Prop
  | .ok t => t.storesWf
  | .error _ => True

/-- Every state that the body of an instruction shows is canonical. -/
def Body.storesWf : Body → Prop
  | .done s => s.storesWf
  | .jump s _ => s.storesWf
  | .stall s => s.storesWf
  | .fault _ => True
  | .lost s _ => s.storesWf
  | .left s => s.storesWf

/-- Every state that a step of XF leaves is canonical. -/
def XRes.storesWf : XRes → Prop
  | .ok s => s.storesWf
  | .fault s _ => s.storesWf
  | .wait => True

/-- The state in which the units of a command have reached their resource is canonical. -/
def UnitRes.storesWf : UnitRes → Prop
  | .queued s => s.storesWf
  | _ => True

/-- Every state that a read for which the slot waits leaves is canonical. -/
def ReadNow.storesWf : ReadNow → Prop
  | .ok s _ => s.storesWf
  | .stall s => s.storesWf
  | .fault s _ => s.storesWf

/-- Every state that an access of many bytes for which the slot waits leaves is canonical. -/
def BytesNow.storesWf : BytesNow → Prop
  | .ok s _ => s.storesWf
  | .stall s => s.storesWf
  | .fault s _ => s.storesWf

/-- The state in which a delivery ends is canonical. -/
def Delivery.storesWf : Delivery → Prop
  | .status _ s => s.storesWf
  | _ => True

/-- The state in which a host command has taken effect is canonical. -/
def CmdAns.storesWf : CmdAns → Prop
  | .done s => s.storesWf
  | _ => True

/-- The state after a read of a step of XF is canonical, and so is every state that the end of the step leaves where the read was its
end. -/
def ReadWf {α : Type} (x : State × Except XRes α) : Prop := x.1.storesWf ∧ ∀ r, x.2 = .error r → r.storesWf

/-- Every state that the reads of a step of XF leave is canonical. -/
def XRead.storesWf : XRead → Prop
  | .ok s _ => s.storesWf
  | .res r => r.storesWf

theorem NextWf.get {o : Host.Outcome State Fault Refusal} {t : State} (h : NextWf o) (e : o = .next t) : t.storesWf := by
  subst e; exact h

theorem OptWf.get {o : Option State} {t : State} (h : OptWf o) (e : o = some t) : t.storesWf := by subst e; exact h

theorem OkWf.get {ε : Type} {o : Except ε State} {t : State} (h : OkWf o) (e : o = .ok t) : t.storesWf := by subst e; exact h

theorem Body.storesWf.of_eq {b b' : Body} (h : b.storesWf) (e : b = b') : b'.storesWf := e ▸ h

theorem XRes.storesWf.of_eq {r r' : XRes} (h : r.storesWf) (e : r = r') : r'.storesWf := e ▸ h

theorem UnitRes.storesWf.of_eq {r r' : UnitRes} (h : r.storesWf) (e : r = r') : r'.storesWf := e ▸ h

theorem ReadNow.storesWf.of_eq {r r' : ReadNow} (h : r.storesWf) (e : r = r') : r'.storesWf := e ▸ h

theorem BytesNow.storesWf.of_eq {r r' : BytesNow} (h : r.storesWf) (e : r = r') : r'.storesWf := e ▸ h

theorem Delivery.storesWf.of_eq {r r' : Delivery} (h : r.storesWf) (e : r = r') : r'.storesWf := e ▸ h

theorem CmdAns.storesWf.of_eq {r r' : CmdAns} (h : r.storesWf) (e : r = r') : r'.storesWf := e ▸ h

theorem XRead.storesWf.of_eq {r r' : XRead} (h : r.storesWf) (e : r = r') : r'.storesWf := e ▸ h

theorem storesWf_of_snd {α : Type} {x : α × State} {a : α} {t : State} (h : x.2.storesWf) (e : x = (a, t)) : t.storesWf := by
  subst e; exact h

theorem storesWf_of_fst {α : Type} {x : State × α} {a : α} {t : State} (h : x.1.storesWf) (e : x = (t, a)) : t.storesWf := by
  subst e; exact h

theorem State.storesWf_getD {o : Option State} {s : State} (ho : OptWf o) (h : s.storesWf) : (o.getD s).storesWf := by
  cases o with
  | none => exact h
  | some t => exact ho

theorem optWf_map {α : Type} {o : Option α} {f : α → State} (hf : ∀ a, (f a).storesWf) : OptWf (o.map f) := by
  cases o with
  | none => exact trivial
  | some a => exact hf a

theorem optWf_map_state {o : Option State} {f : State → State} (hf : ∀ t, t.storesWf → (f t).storesWf) (h : OptWf o) :
    OptWf (o.map f) := by
  cases o with
  | none => exact trivial
  | some t => exact hf t h

theorem ReadWf.ok {α : Type} {x : State × Except XRes α} {t : State} {a : α} (h : ReadWf x) (e : x = (t, .ok a)) : t.storesWf := by
  subst e; exact h.1

theorem ReadWf.error {α : Type} {x : State × Except XRes α} {t : State} {r : XRes} (h : ReadWf x) (e : x = (t, .error r)) :
    t.storesWf ∧ r.storesWf := by
  subst e; exact ⟨h.1, h.2 r rfl⟩

theorem optWf_bind {α : Type} {o : Option α} {f : α → Option State} (hf : ∀ a, OptWf (f a)) : OptWf (o.bind f) := by
  cases o with
  | none => exact trivial
  | some a => exact hf a

/-- What a step of a fold keeps, the fold keeps. -/
theorem State.storesWf_foldl {β : Type} {f : State → β → State} {l : List β} {s : State} (hf : ∀ t b, t.storesWf → (f t b).storesWf)
    (h : s.storesWf) : (l.foldl f s).storesWf :=
  foldl_keeps (P := State.storesWf) hf l h

/-- A core with the scratchpad as it was put in place keeps the form. -/
theorem State.storesWf_setCore_same {s : State} {c : Nat} {v : Core} (hv : v.spad = (s.core c).spad) (h : s.storesWf) :
    (s.setCore c v).storesWf :=
  State.storesWf_setCore c v (hv ▸ h.spad c) h

/-- A partition with the Reservoir lines as they were put in place keeps the form. -/
theorem State.storesWf_setPart_same {s : State} {p : Nat} {v : Part} (hv : v.lines = (s.part p).lines) (h : s.storesWf) :
    (s.setPart p v).storesWf :=
  State.storesWf_setPart p v (hv ▸ h.lines p) h

/-- Partitions changed one by one read the Reservoir lines of the partition that was changed. -/
theorem lines_mget_map {g : Nat × Part → Part} (hg : ∀ x, (g x).lines = x.2.lines) (m : Map Part) (p : Nat) :
    (mget {} (m.map (fun x => (x.1, g x))) p).lines = (mget {} m p).lines := by
  induction m with
  | nil => rfl
  | cons x m ih =>
    simp only [List.map_cons, mget]
    split
    · exact hg x
    · exact ih

/-- Cores changed one by one read the scratchpad of the core that was changed. -/
theorem spad_mget_map {g : Nat × Core → Core} (hg : ∀ x, (g x).spad = x.2.spad) (m : Map Core) (c : Nat) :
    (mget {} (m.map (fun x => (x.1, g x))) c).spad = (mget {} m c).spad := by
  induction m with
  | nil => rfl
  | cons x m ih =>
    simp only [List.map_cons, mget]
    split
    · exact hg x
    · exact ih

/-- A change of every partition that leaves the Reservoir lines keeps the form. -/
theorem State.storesWf_mapParts {s : State} {g : Nat × Part → Part} (hg : ∀ x, (g x).lines = x.2.lines) (h : s.storesWf) :
    State.storesWf { s with parts := s.parts.map (fun x => (x.1, g x)) } :=
  State.storesWf_congr (s := s) rfl rfl (fun _ => rfl) (fun p => lines_mget_map hg s.parts p) h

/-- A change of every core that leaves the scratchpad keeps the form. -/
theorem State.storesWf_mapCores {s : State} {g : Nat × Core → Core} (hg : ∀ x, (g x).spad = x.2.spad) (h : s.storesWf) :
    State.storesWf { s with cores := s.cores.map (fun x => (x.1, g x)) } :=
  State.storesWf_congr (s := s) rfl rfl (fun c => spad_mget_map hg s.cores c) (fun _ => rfl) h

/-- Lines changed one by one under their numbers are each listed once. -/
theorem nodup_lines_map {f : ResLine → ResLine} (hf : ∀ l, (f l).line = l.line) {ls : List ResLine} (h : (ls.map ResLine.line).Nodup) :
    ((ls.map f).map ResLine.line).Nodup := by
  simpa only [List.map_map, Function.comp_def, hf] using h

/-! ### What writes to the tile file leave of a core -/

@[simp] theorem Core.putRow_spad (co : Core) (o : WOp) (m : Pred) (r : Row) : (co.putRow o m r).spad = co.spad := rfl

@[simp] theorem putScales_spad (c : Cmd) (es : List Nat) (co : Core) : (putScales c es co).spad = co.spad := by
  unfold putScales
  split <;> rfl

theorem foldl_putRow_spad (mask : Pred) (l : List (WOp × Row)) (co : Core) :
    (l.foldl (fun co y => co.putRow y.1 mask y.2) co).spad = co.spad := by
  induction l generalizing co with
  | nil => rfl
  | cons y l ih => rw [List.foldl_cons, ih, Core.putRow_spad]

@[simp] theorem putPort_spad (c : Cmd) (p : Port) (m : Nat) (mask : Pred) (rows : List Row) (x : Core × Ctx) :
    (putPort c p m mask rows x).1.spad = x.1.spad := by
  unfold putPort
  split
  · rfl
  · exact foldl_putRow_spad _ _ _

/-! ### Tasks, slots, regions and cache lines -/

theorem State.storesWf_setSlot {s : State} {c k : Nat} {v : Slot} (h : s.storesWf) : (s.setSlot c k v).storesWf :=
  storesWf_setCore_same rfl h

theorem State.storesWf_putTask {s : State} {p : Nat} {t : Task} (h : s.storesWf) : (s.putTask p t).storesWf := storesWf_setPart_same rfl h

theorem State.storesWf_setTask {s : State} {t : Task} (h : s.storesWf) : (s.setTask t).storesWf := storesWf_putTask h

theorem State.storesWf_dropTask {s : State} {p id : Nat} (h : s.storesWf) : (s.dropTask p id).storesWf := storesWf_setPart_same rfl h

theorem State.storesWf_modSlot {s : State} {c k : Nat} {f : Slot → Slot} (h : s.storesWf) : (s.modSlot c k f).storesWf := by
  unfold State.modSlot
  split
  · exact storesWf_setSlot h
  · exact h

theorem State.storesWf_modTask {s : State} {p id : Nat} {f : Task → Task} (h : s.storesWf) : (s.modTask p id f).storesWf := by
  unfold State.modTask
  split
  · exact storesWf_putTask h
  · exact h

theorem State.storesWf_modGrotto {s : State} {f : Grotto → Grotto} (h : s.storesWf) : (s.modGrotto f).storesWf :=
  ⟨h.mem, h.cist, h.spad, h.lines⟩

theorem State.storesWf_modLinks {s : State} {f : Links → Links} (h : s.storesWf) : (s.modLinks f).storesWf :=
  ⟨h.mem, h.cist, h.spad, h.lines⟩

theorem State.storesWf_modHost {s : State} {f : HostLink → HostLink} (h : s.storesWf) : (s.modHost f).storesWf :=
  ⟨h.mem, h.cist, h.spad, h.lines⟩

theorem State.storesWf_takeFree_snd {s : State} (h : s.storesWf) : s.takeFree.2.storesWf := ⟨h.mem, h.cist, h.spad, h.lines⟩

theorem State.storesWf_bump {s : State} (h : s.storesWf) : s.bump.storesWf := ⟨h.mem, h.cist, h.spad, h.lines⟩

theorem State.storesWf_modCtx {s : State} {c k : Nat} {f : Ctx → Ctx} (h : s.storesWf) : (s.modCtx c k f).storesWf := storesWf_modSlot h

theorem State.storesWf_setClock {s : State} {r cur : Nat} (h : s.storesWf) : (s.setClock r cur).storesWf := storesWf_setRegion _ _ h

theorem State.storesWf_logError {s : State} {cls region block part addr detail : Nat} (h : s.storesWf) :
    (s.logError cls region block part addr detail).storesWf := by
  unfold State.logError
  split <;> exact storesWf_modHost h

theorem State.storesWf_sealMsg {s : State} {p key : Nat} (h : s.storesWf) : (s.sealMsg p key).storesWf := by
  unfold State.sealMsg
  split
  · exact storesWf_setPart_same rfl h
  · exact h

theorem State.storesWf_residSet {s : State} {r x t flags own : Nat} (h : s.storesWf) : (s.residSet r x t flags own).storesWf := by
  unfold State.residSet
  split
  · exact h
  · exact storesWf_bump (storesWf_setRegion _ _ h)

theorem State.storesWf_residClear {s : State} {r flags : Nat} {sel : ResEntry → Bool} (h : s.storesWf) :
    (s.residClear r flags sel).storesWf := storesWf_setRegion _ _ h

theorem State.storesWf_dropLine {s : State} {l : Loc} {n scope line : Nat} (h : s.storesWf) : (s.dropLine l n scope line).storesWf := by
  unfold State.dropLine
  split
  · exact h
  · split
    · exact storesWf_dropL2 _ _ h
    · exact storesWf_dropRes _ _ ⟨h.mem, h.cist, h.spad, h.lines⟩

theorem State.storesWf_dropPoisoned {s : State} {l : Loc} {n scope : Nat} (h : s.storesWf) : (s.dropPoisoned l n scope).storesWf := by
  unfold State.dropPoisoned
  split
  · exact storesWf_foldl (fun _ _ h => storesWf_dropLine h) h
  · exact h

theorem State.storesWf_keepNotes {s : State} {r p : Nat} {ns : List Note} (h : s.storesWf) : (s.keepNotes r p ns).storesWf := by
  induction ns generalizing s with
  | nil => exact h
  | cons n ns ih =>
    cases n with
    | tile e => exact ih (storesWf_setRegion _ _ h)
    | nest e => exact ih (storesWf_setRegion _ _ h)
    | node e => exact ih (storesWf_setRegion _ _ h)
    | msg key => exact ih (storesWf_sealMsg h)
    | pin page =>
      refine ih ?_
      split
      · exact h
      · exact storesWf_setPart_same rfl h

/-! ### Outstanding accesses, saved contexts and the issue of an instruction -/

theorem State.storesWf_writeReg {s : State} {c k n : Nat} {v : Word} (h : s.storesWf) : (s.writeReg c k n v).storesWf :=
  storesWf_modSlot h

theorem State.storesWf_dropFences {s : State} {c k : Nat} (h : s.storesWf) : (s.dropFences c k).storesWf := storesWf_modSlot h

theorem State.storesWf_setRow {s : State} {row : PoolLease} (h : s.storesWf) : (s.setRow row).storesWf := storesWf_modLinks h

theorem State.storesWf_loseLease {s : State} {p : Nat} (h : s.storesWf) : (s.loseLease p).storesWf := by
  unfold State.loseLease
  split
  · exact storesWf_setPart_same rfl h
  · exact h

theorem State.storesWf_reqNumber_snd {s : State} {token : Option Word} (h : s.storesWf) : (s.reqNumber token).2.storesWf := by
  unfold State.reqNumber
  dsimp only
  exact storesWf_modLinks h

theorem State.storesWf_sendReq_snd {s : State} {p key : Nat} {write : Bool} {token : Option Word} (h : s.storesWf) :
    (s.sendReq p key write token).2.storesWf := by
  unfold State.sendReq
  split
  · split
    · exact storesWf_reqNumber_snd h
    · exact h
  · split
    · exact storesWf_reqNumber_snd (storesWf_sealMsg h)
    · exact storesWf_sealMsg h

theorem State.storesWf_modAcc {s : State} {c k seq : Nat} {f : P0Acc → P0Acc} (h : s.storesWf) : (s.modAcc c k seq f).storesWf :=
  storesWf_modSlot h

theorem State.storesWf_sendAcc {s : State} {c k part n : Nat} {a : P0Acc} (h : s.storesWf) : (s.sendAcc c k part n a).storesWf :=
  storesWf_modAcc (storesWf_sendReq_snd h)

theorem State.storesWf_deferWith {s : State} {c k : Nat} {a : P0Acc} {f : FaultRec} {redo : Bool} (h : s.storesWf) :
    (s.deferWith c k a f redo).storesWf := storesWf_modSlot h

theorem State.storesWf_deferAcc {s : State} {c k : Nat} {a : P0Acc} {code : Nat} {redo : Bool} (h : s.storesWf) :
    (s.deferAcc c k a code redo).storesWf := storesWf_deferWith h

theorem State.storesWf_translateAgain {s : State} {c k p : Nat} {a : P0Acc} (h : s.storesWf) : (s.translateAgain c k p a).storesWf := by
  unfold State.translateAgain
  split
  · exact storesWf_modAcc (storesWf_keepNotes h)
  · split
    · exact h
    · exact storesWf_deferWith h

theorem State.storesWf_reachP0 {s : State} {c k : Nat} {sl : Slot} {a : P0Acc} (h : s.storesWf) : (s.reachP0 c k sl a).storesWf := by
  unfold State.reachP0
  extract_lets
  split
  · exact storesWf_modSlot (storesWf_storeAt _ _ _ _ h)
  · split
    · exact storesWf_deferAcc (storesWf_dropPoisoned h)
    · extract_lets u
      have hu : u.storesWf := by
        unfold u
        split
        · exact storesWf_storeAt _ _ _ _ (storesWf_afterRead _ _ _ _ h)
        · exact storesWf_afterRead _ _ _ _ h
      clear_value u
      exact storesWf_modSlot hu

theorem State.storesWf_performP0 {s : State} {c k : Nat} {sl : Slot} {a : P0Acc} (h : s.storesWf) : (s.performP0 c k sl a).storesWf := by
  unfold State.performP0
  split
  · exact storesWf_translateAgain h
  · split
    · exact h
    · exact storesWf_deferAcc h
    · split
      · exact storesWf_deferAcc (storesWf_loseLease h)
      · exact storesWf_reachP0 h

theorem State.storesWf_strayWrite {s : State} {c part : Nat} {a : P0Acc} (h : s.storesWf) : (s.strayWrite c part a).storesWf := by
  unfold State.strayWrite
  split
  · extract_lets
    split
    · exact storesWf_storeLoc _ _ _ (storesWf_takeFree_snd h)
    · exact storesWf_takeFree_snd h
  · exact h

theorem State.storesWf_giveUp {s : State} {c p : Nat} {a : P0Acc} (h : s.storesWf) : (s.giveUp c p a).storesWf := by
  unfold State.giveUp
  split
  · exact storesWf_strayWrite h
  · exact h

theorem State.storesWf_sendP0 {s : State} {c k p : Nat} {a : P0Acc} (h : s.storesWf) : (s.sendP0 c k p a).storesWf := by
  unfold State.sendP0
  split
  · exact storesWf_deferAcc (storesWf_giveUp h)
  · split
    · split
      · exact h
      · exact storesWf_sendAcc h
    · exact storesWf_deferAcc h
    · split
      · exact storesWf_modAcc h
      · exact storesWf_deferAcc h
    · exact storesWf_modAcc h
    · exact storesWf_modAcc h

theorem State.storesWf_retryHeld {s : State} {c k p : Nat} {a : P0Acc} (h : s.storesWf) : (s.retryHeld c k p a).storesWf := by
  unfold State.retryHeld
  split
  · exact storesWf_sendP0 h
  · exact h

theorem State.storesWf_stepP0 {s : State} {c k : Nat} {sl : Slot} {a : P0Acc} (h : s.storesWf) : (s.stepP0 c k sl a).storesWf := by
  unfold State.stepP0
  split
  · exact storesWf_sendP0 h
  · exact storesWf_performP0 h

theorem State.storesWf_flushP0 {s : State} {c k : Nat} {as : List P0Acc} (h : s.storesWf) : (s.flushP0 c k as).storesWf := by
  induction as generalizing s with
  | nil => exact h
  | cons a as ih =>
    unfold State.flushP0
    split
    · exact h
    · split
      · exact ih (storesWf_stepP0 h)
      · exact ih h

theorem State.storesWf_gwrote {s : State} {r p : Nat} {t : Target} {bs : List Byte} (h : s.storesWf) : (s.gwrote r p t bs).storesWf := by
  unfold State.gwrote
  extract_lets u v
  have hu : u.storesWf := storesWf_keepNotes h
  clear_value u
  have hv : v.storesWf := by
    unfold v
    split
    · exact storesWf_sendReq_snd hu
    · exact hu
  clear_value v
  exact storesWf_storeLoc _ _ _ hv

theorem okWf_gwrite {s : State} {r p n g : Nat} {bs : List Byte} (h : s.storesWf) : OkWf (s.gwrite r p n g bs) := by
  induction n generalizing s g bs with
  | zero =>
    unfold State.gwrite
    split
    · exact h
    · exact trivial
  | succ n ih =>
    unfold State.gwrite
    split
    · exact h
    · split
      · exact trivial
      · dsimp only
        split
        · exact trivial
        · exact ih (storesWf_gwrote h)

theorem State.storesWf_setGroup {s : State} {p g : Nat} {v : Group} (h : s.storesWf) : (s.setGroup p g v).storesWf :=
  storesWf_setPart_same rfl h

theorem State.storesWf_steer {s : State} {p : Nat} (h : s.storesWf) : (s.steer p).storesWf := by
  unfold State.steer
  split
  · exact h
  · refine storesWf_foldl (fun _ _ h => storesWf_setRegion _ _ ?_) h
    split
    · split
      · exact h
      · exact storesWf_setClock h
    · split
      · split
        · exact h
        · exact storesWf_setClock h
      · split
        · exact h
        · exact storesWf_setClock h

theorem State.storesWf_makeReady {s : State} {p id : Nat} (h : s.storesWf) : (s.makeReady p id).storesWf :=
  storesWf_bump (storesWf_modTask h)

theorem State.storesWf_giveLease {s : State} {p : Nat} (h : s.storesWf) : (s.giveLease p).storesWf := by
  unfold State.giveLease
  extract_lets q row u
  have hu : u.storesWf := by
    unfold u
    split
    · exact storesWf_setRow h
    · exact h
  clear_value u
  exact storesWf_setPart_same rfl hu

theorem State.storesWf_cancelAcq {s : State} {c k : Nat} (h : s.storesWf) : (s.cancelAcq c k).storesWf := by
  unfold State.cancelAcq
  refine storesWf_foldl (fun _ _ h => ?_) h
  split
  · split
    · split
      · exact storesWf_giveLease h
      · exact storesWf_setPart_same rfl h
    · exact h
  · exact h

theorem State.storesWf_dropUnits {s : State} {sel : WorkUnit → Bool} (h : s.storesWf) : (s.dropUnits sel).storesWf := storesWf_modGrotto h

theorem State.storesWf_freeSlot {s : State} {c k banks : Nat} (h : s.storesWf) : (s.freeSlot c k banks).storesWf :=
  storesWf_setCore_same rfl (storesWf_dropUnits (storesWf_cancelAcq h))

theorem State.storesWf_saveSlot {s : State} {c k : Nat} {fate : Fate} (h : s.storesWf) : (s.saveSlot c k fate).storesWf := by
  unfold State.saveSlot
  extract_lets u
  have hu : u.storesWf := by
    unfold u
    split
    · exact storesWf_flushP0 h
    · exact h
  clear_value u
  split
  · exact hu
  · split
    · exact hu
    · split
      · exact storesWf_steer (storesWf_setSlot hu)
      · split
        · exact storesWf_steer (storesWf_setSlot hu)
        · next e3 =>
            dsimp only
            split
            · exact storesWf_makeReady (storesWf_steer (storesWf_freeSlot (storesWf_putTask ((okWf_gwrite hu).get e3))))
            · exact storesWf_steer (storesWf_freeSlot (storesWf_putTask ((okWf_gwrite hu).get e3)))

theorem State.storesWf_pendHandler {s : State} {hv : Bool} {f : FaultRec} {part task : Nat} (h : s.storesWf) :
    (s.pendHandler hv f part task).storesWf := storesWf_modGrotto h

theorem State.storesWf_deliver {s : State} {part id region : Nat} {r : Routed} {f : FaultRec} (h : s.storesWf) :
    (s.deliver part id region r f).storesWf := by
  unfold State.deliver
  extract_lets f1 u v
  have hu : u.storesWf := storesWf_modTask h
  clear_value u
  have hv : v.storesWf := by
    unfold v
    split
    · exact storesWf_pendHandler hu
    · exact hu
  clear_value v
  split
  · exact storesWf_logError hv
  · exact hv

theorem State.storesWf_raiseFault {s : State} {c k : Nat} {f : FaultRec} {b : Bool} (h : s.storesWf) : (s.raiseFault c k f b).storesWf := by
  unfold State.raiseFault
  split
  · exact h
  · exact storesWf_saveSlot (storesWf_modTask (storesWf_deliver h))

theorem State.storesWf_raiseParked {s : State} {part id region : Nat} {f : FaultRec} (h : s.storesWf) :
    (s.raiseParked part id region f).storesWf := storesWf_modTask (storesWf_deliver h)

theorem State.storesWf_resumeTask {s : State} {p id : Nat} (h : s.storesWf) : (s.resumeTask p id).storesWf := storesWf_makeReady h

theorem State.storesWf_placeMarkers {s : State} {c k : Nat} (h : s.storesWf) : (s.placeMarkers c k).storesWf := by
  unfold State.placeMarkers
  split
  · exact storesWf_modSlot (storesWf_setCore_same rfl h)
  · exact h

theorem State.storesWf_resumePreempt {s : State} {c k : Nat} (h : s.storesWf) : (s.resumePreempt c k).storesWf := by
  unfold State.resumePreempt
  split
  · split
    · split
      · exact storesWf_placeMarkers h
      · split
        · exact storesWf_setSlot h
        · exact h
    · exact h
  · exact h

theorem State.storesWf_finishForced {s : State} {c k : Nat} (h : s.storesWf) : (s.finishForced c k).storesWf := by
  unfold State.finishForced
  split
  · split
    · exact storesWf_saveSlot h
    · exact h
  · exact h

theorem State.storesWf_retire {s : State} {c k : Nat} {f : Ctx → Ctx} (h : s.storesWf) : (s.retire c k f).storesWf := by
  unfold State.retire
  extract_lets
  split
  · exact storesWf_setCore_same rfl h
  · extract_lets
    split
    · exact storesWf_finishForced (storesWf_setSlot (storesWf_setCore_same rfl h))
    · exact storesWf_resumePreempt (storesWf_setSlot (storesWf_setCore_same rfl h))

theorem State.storesWf_stepOver {s : State} {c k : Nat} (h : s.storesWf) : (s.stepOver c k).storesWf :=
  storesWf_modSlot (storesWf_setCore_same rfl h)

theorem State.storesWf_faultOrHold {s : State} {c k : Nat} {f : FaultRec} (h : s.storesWf) : (s.faultOrHold c k f).storesWf := by
  unfold State.faultOrHold
  split
  · exact storesWf_raiseFault h
  · exact storesWf_modSlot h

theorem nextWf_issueWith {i : Instr} {s : State} {body : Slot → Body} (h : s.storesWf) (hb : ∀ a, (body a).storesWf) :
    NextWf (issueWith i s body) := by
  unfold issueWith
  extract_lets
  split
  · exact trivial
  · extract_lets
    split
    · exact storesWf_modSlot h
    · split
      · exact storesWf_modSlot h
      · exact storesWf_raiseFault h
      · exact storesWf_raiseFault (storesWf_setSlot h)
      · split
        · next e3 => exact storesWf_retire ((hb _).of_eq e3)
        · next e3 => exact storesWf_retire ((hb _).of_eq e3)
        · next e3 => exact storesWf_modSlot ((hb _).of_eq e3)
        · exact storesWf_faultOrHold h
        · next e3 => exact storesWf_faultOrHold ((hb _).of_eq e3)
        · next e3 => exact (hb _).of_eq e3

theorem nextWf_issueSlot {i : Instr} {s : State} {f : Slot → Slot} (h : s.storesWf) : NextWf (issueSlot i s f) :=
  nextWf_issueWith h (fun _ => storesWf_setSlot h)

/-! ### Engine commands, the end of tasks, dispatch and the outside -/

theorem State.storesWf_sendPieces {s : State} {p scope : Nat} {wr : Bool} {token : Option Word} {ps : List Piece} (h : s.storesWf) :
    (s.sendPieces p scope wr token ps).storesWf := by
  unfold State.sendPieces
  refine storesWf_foldl (fun _ _ h => ?_) h
  split
  · exact storesWf_sendReq_snd h
  · exact h

theorem State.storesWf_readPieces_fst {s : State} {c r p scope : Nat} {f : Fill} {xs : List Piece} (h : s.storesWf) :
    (readPieces s c r p scope f xs).1.storesWf := by
  induction xs generalizing s with
  | nil => exact h
  | cons x xs ih =>
    unfold readPieces
    dsimp only
    split
    · exact storesWf_dropPoisoned h
    · have ht := ih (storesWf_afterRead (x.loc c r p) x.len scope (x.fill (s.part p) f)
        (storesWf_keepNotes (r := r) (p := p) (ns := x.tgt.notes) h))
      split <;> next e => exact storesWf_of_fst ht e

theorem State.storesWf_writePieces {s : State} {c r p scope : Nat} {f : Fill} {bs : List (Bool × Byte)} {xs : List Piece} (h : s.storesWf) :
    (writePieces s c r p scope f bs xs).storesWf := by
  induction xs generalizing s with
  | nil => exact h
  | cons x xs ih =>
    unfold writePieces
    exact ih (storesWf_foldl (fun _ _ h => storesWf_storeAt _ _ _ _ h) (storesWf_keepNotes h))

theorem State.storesWf_residFill {s : State} {c p scope : Nat} {noL2 : Bool} {ps : List Piece} (h : s.storesWf) :
    (s.residFill c p scope noL2 ps).storesWf := by
  unfold State.residFill
  refine storesWf_foldl (fun _ _ h => ?_) h
  split
  · split
    · exact storesWf_residSet h
    · exact h
  · exact h

theorem State.storesWf_addCmd {s : State} {c : Nat} {cmd : Cmd} (h : s.storesWf) : (s.addCmd c cmd).storesWf :=
  storesWf_setCore_same rfl h

theorem Body.storesWf_pushEngine {s : State} {i : Instr} {e : Eng} {f : Ctx → Ctx} {sl : Slot} (h : s.storesWf) :
    (s.pushEngine i e f sl).storesWf := by
  unfold State.pushEngine
  extract_lets
  split
  · exact trivial
  · split
    · exact h
    · exact storesWf_setSlot (storesWf_addCmd h)

theorem nextWf_issueEngineWith {i : Instr} {e : Eng} {bad : Ctx → Bool} {f : Ctx → Ctx} {s : State} (h : s.storesWf) :
    NextWf (issueEngineWith i e bad f s) := by
  unfold issueEngineWith
  refine nextWf_issueWith h (fun _ => ?_)
  split
  · exact trivial
  · exact Body.storesWf_pushEngine h

theorem nextWf_issueEngine {i : Instr} {e : Eng} {s : State} (h : s.storesWf) : NextWf (issueEngine i e s) := nextWf_issueEngineWith h

theorem State.storesWf_putCmd {s : State} {c : Nat} {cmd : Cmd} (h : s.storesWf) : (s.putCmd c cmd).storesWf :=
  storesWf_setCore_same rfl h

theorem State.storesWf_dropCmd {s : State} {c : Nat} {cmd : Cmd} (h : s.storesWf) : (s.dropCmd c cmd).storesWf := by
  unfold State.dropCmd
  extract_lets u
  have hu : u.storesWf := by
    unfold u
    split
    · exact storesWf_dropUnits h
    · exact h
  clear_value u
  exact storesWf_setCore_same rfl hu

theorem optWf_startStep {s : State} {c : Nat} {cmd : Cmd} {f : Cmd → Option State} (h : s.storesWf) (hf : ∀ a, OptWf (f a)) :
    OptWf (s.startStep c cmd f) := by
  unfold State.startStep
  split
  · exact storesWf_getD (hf _) (storesWf_putCmd h)
  · exact trivial

theorem State.storesWf_decJoin {s : State} {p id : Nat} (h : s.storesWf) : (s.decJoin p id).storesWf := by
  unfold State.decJoin
  split
  · exact h
  · extract_lets
    split
    · exact storesWf_makeReady (storesWf_putTask h)
    · exact storesWf_putTask h

theorem State.storesWf_triggerTask {s : State} {p id : Nat} (h : s.storesWf) : (s.triggerTask p id).storesWf := by
  unfold State.triggerTask
  split
  · exact h
  · split
    · exact h
    · exact storesWf_foldl (fun _ _ h => storesWf_decJoin h) (storesWf_putTask h)

theorem State.storesWf_releaseGroup {s : State} {p g : Nat} (h : s.storesWf) : (s.releaseGroup p g).storesWf := by
  unfold State.releaseGroup
  extract_lets
  split
  · refine storesWf_foldl (fun _ _ h => ?_) (storesWf_setGroup h)
    split
    · split
      · split
        · exact storesWf_makeReady h
        · exact storesWf_putTask h
      · exact h
    · exact h
  · exact h

theorem State.storesWf_joinGroup {s : State} {p id g : Nat} (h : s.storesWf) : (s.joinGroup p id g).storesWf :=
  storesWf_modTask (storesWf_setGroup h)

theorem State.storesWf_leaveGroup {s : State} {p id g : Nat} (h : s.storesWf) : (s.leaveGroup p id g).storesWf :=
  storesWf_releaseGroup (storesWf_modTask (storesWf_setGroup h))

theorem State.storesWf_dropWindow {s : State} {t : Task} (h : s.storesWf) : (s.dropWindow t).storesWf := by
  unfold State.dropWindow
  split
  · exact storesWf_residClear h
  · exact h

theorem State.storesWf_freeMailbox {s : State} {t : Task} (h : s.storesWf) : (s.freeMailbox t).storesWf := by
  unfold State.freeMailbox
  split
  · exact storesWf_modGrotto h
  · exact h

theorem State.storesWf_removeTask {s : State} {p id : Nat} (h : s.storesWf) : (s.removeTask p id).storesWf := by
  unfold State.removeTask
  split
  · exact h
  · exact storesWf_steer (storesWf_dropTask
      (storesWf_foldl (fun _ _ h => storesWf_leaveGroup h) (storesWf_freeMailbox (storesWf_dropWindow h))))

theorem State.storesWf_endTask {s : State} {p id : Nat} (h : s.storesWf) : (s.endTask p id).storesWf :=
  storesWf_removeTask (storesWf_triggerTask h)

theorem State.storesWf_markTokens {s : State} {c k : Nat} (h : s.storesWf) : (s.markTokens c k).storesWf := by
  unfold State.markTokens
  split
  · extract_lets
    split
    · exact storesWf_bump (storesWf_setSlot h)
    · exact h
  · exact h

theorem State.storesWf_enterToken {s : State} {c : Nat} {kt : Nat × TokpRec} (h : s.storesWf) : (s.enterToken c kt).storesWf :=
  storesWf_modSlot (storesWf_setCore_same rfl h)

theorem State.storesWf_enterTokens {s : State} {c n : Nat} (h : s.storesWf) : (s.enterTokens c n).storesWf := by
  induction n generalizing s with
  | zero => exact h
  | succ n ih =>
    unfold State.enterTokens
    split
    · exact ih (storesWf_enterToken h)
    · exact h

theorem State.storesWf_finishTask {s : State} {c k : Nat} (h : s.storesWf) : (s.finishTask c k).storesWf := by
  unfold State.finishTask
  split
  · exact h
  · exact storesWf_endTask (storesWf_freeSlot (storesWf_enterTokens (storesWf_markTokens h)))

theorem State.storesWf_enterTask {s : State} {t : Task} (h : s.storesWf) : (s.enterTask t).storesWf :=
  storesWf_bump (storesWf_setPart_same rfl h)

theorem State.storesWf_enterHandler {s : State} (h : s.storesWf) : s.enterHandler.storesWf := by
  unfold State.enterHandler
  split
  · exact h
  · exact storesWf_enterTask (storesWf_modGrotto h)

theorem State.storesWf_fillWindow {s : State} {t : Task} {w : Option (Nat × Nat × Nat)} (h : s.storesWf) :
    (s.fillWindow t w).storesWf := by
  unfold State.fillWindow
  split
  · split
    · exact storesWf_writeLoc _ _ h
    · split
      · exact storesWf_writeLoc _ _ h
      · exact h
  · exact h

theorem State.storesWf_waitDispatch {s : State} {t : Task} {f : FaultRec} (h : s.storesWf) : (s.waitDispatch t f).storesWf :=
  storesWf_putTask h

theorem State.storesWf_gateBanks {s : State} {t : Task} {c : Nat} (h : s.storesWf) : (s.gateBanks t c).storesWf :=
  storesWf_setPart_same rfl h

theorem State.storesWf_occupy {s : State} {t : Task} {c k : Nat} {w : Option (Nat × Nat × Nat)} {sl : Slot} (h : s.storesWf) :
    (s.occupy t c k w sl).storesWf := storesWf_steer (storesWf_setTask (storesWf_setSlot (storesWf_gateBanks h)))

theorem State.storesWf_dispatchFresh {s : State} {t : Task} {c k : Nat} (h : s.storesWf) : (s.dispatchFresh t c k).storesWf := by
  unfold State.dispatchFresh
  extract_lets w bad e0 e1 u
  have hu : u.storesWf := by
    unfold u
    split
    · exact storesWf_joinGroup h
    · exact h
  clear_value u
  exact storesWf_occupy (storesWf_fillWindow (storesWf_setCore_same rfl (storesWf_keepNotes hu)))

theorem State.storesWf_restoreFrame {s : State} {t : Task} {c k : Nat} {b : List Byte} (h : s.storesWf) :
    (s.restoreFrame t c k b).storesWf := by
  unfold State.restoreFrame
  extract_lets w e0 e1 cap x x1 x2 live n nc imgs ctl cmds fences tokps u v co y z
  have hu : u.storesWf := by
    unfold u
    split
    · exact h
    · exact ⟨h.mem, h.cist, h.spad, h.lines⟩
  clear_value u
  have hv : v.storesWf := storesWf_keepNotes hu
  clear_value v
  have hy : y.storesWf := storesWf_setCore_same rfl hv
  clear_value y
  have hz : z.storesWf := storesWf_fillWindow hy
  clear_value z
  exact storesWf_markTokens (storesWf_occupy hz)

theorem State.storesWf_retrySlot {s : State} {c k : Nat} (h : s.storesWf) : (s.retrySlot c k).storesWf := by
  unfold State.retrySlot
  split
  · exact storesWf_foldl (fun _ _ h => storesWf_retryHeld h) h
  · exact h

theorem State.storesWf_dispatchSaved {s : State} {t : Task} {c k i : Nat} (h : s.storesWf) : (s.dispatchSaved t c k i).storesWf := by
  unfold State.dispatchSaved
  split
  · exact storesWf_raiseParked h
  · extract_lets
    split
    · exact storesWf_retrySlot (storesWf_restoreFrame (storesWf_keepNotes h))
    · exact storesWf_raiseParked (storesWf_keepNotes h)

theorem State.storesWf_countDecision {s : State} {p id : Nat} (h : s.storesWf) : (s.countDecision p id).storesWf :=
  storesWf_setPart_same rfl h

theorem State.storesWf_decision {s : State} {p : Nat} (h : s.storesWf) : (s.decision p).storesWf := by
  unfold State.decision
  split
  · exact h
  · split
    · exact storesWf_waitDispatch h
    · extract_lets
      split
      · exact storesWf_dispatchSaved (storesWf_countDecision h)
      · exact storesWf_dispatchFresh (storesWf_countDecision h)

theorem State.storesWf_settleBreak {s : State} {c k : Nat} (h : s.storesWf) : (s.settleBreak c k).storesWf := by
  unfold State.settleBreak
  split
  · split
    · split
      · exact storesWf_setSlot h
      · exact h
    · exact h
  · exact h

theorem State.storesWf_settleEnd {s : State} {c k : Nat} (h : s.storesWf) : (s.settleEnd c k).storesWf := by
  unfold State.settleEnd
  split
  · split
    · split
      · exact storesWf_raiseFault (storesWf_setSlot h)
      · exact storesWf_finishTask h
    · exact h
  · exact h

theorem State.storesWf_settleDrain {s : State} {c k : Nat} (h : s.storesWf) : (s.settleDrain c k).storesWf := by
  unfold State.settleDrain
  split
  · split
    · split
      · exact h
      · exact storesWf_saveSlot h
    · exact h
  · exact h

theorem State.storesWf_settleTrig {s : State} {c k : Nat} (h : s.storesWf) : (s.settleTrig c k).storesWf := by
  unfold State.settleTrig
  split
  · split
    · split
      · exact storesWf_triggerTask (storesWf_setSlot h)
      · exact h
    · exact h
  · exact h

theorem State.storesWf_settle {s : State} {c k : Nat} (h : s.storesWf) : (s.settle c k).storesWf := by
  unfold State.settle
  extract_lets u
  have hu : u.storesWf :=
    storesWf_markTokens (storesWf_settleTrig (storesWf_dropFences (storesWf_settleBreak (storesWf_settleBreak h))))
  clear_value u
  exact storesWf_settleDrain (storesWf_finishForced (storesWf_settleEnd hu))

theorem State.storesWf_completeCmd {s : State} {c : Nat} {cmd : Cmd} (h : s.storesWf) : (s.completeCmd c cmd).storesWf :=
  storesWf_settle (storesWf_dropCmd h)

theorem State.storesWf_advanceCmd {s : State} {c : Nat} {cmd : Cmd} {n : Nat} (h : s.storesWf) : (s.advanceCmd c cmd n).storesWf := by
  unfold State.advanceCmd
  split
  · exact storesWf_completeCmd h
  · exact storesWf_putCmd h

theorem State.storesWf_engineFault {s : State} {c : Nat} {cmd : Cmd} {f : FaultRec} (h : s.storesWf) :
    (s.engineFault c cmd f).storesWf := by
  unfold State.engineFault
  split
  · exact storesWf_raiseFault h
  · exact storesWf_putCmd h

theorem State.storesWf_preempt {s : State} {c k : Nat} (h : s.storesWf) : (s.preempt c k).storesWf := by
  unfold State.preempt
  split
  · split
    · exact storesWf_resumePreempt (storesWf_setSlot h)
    · exact h
  · exact h

theorem State.storesWf_fetchLost {s : State} {c : Nat} {sl : Slot} (h : s.storesWf) : (s.fetchLost c sl).storesWf := by
  unfold State.fetchLost
  split
  · exact storesWf_dropPoisoned h
  · exact h

theorem State.storesWf_logEcc {s : State} {r block addr : Nat} (h : s.storesWf) : (s.logEcc r block addr).storesWf := storesWf_logError h

theorem State.storesWf_poison {s : State} {store core g : Nat} (h : s.storesWf) : (s.poison store core g).storesWf := by
  unfold State.poison
  split
  · exact ⟨h.mem, h.cist, h.spad, h.lines⟩
  · exact storesWf_logEcc ⟨h.mem, h.cist, h.spad, h.lines⟩
  · exact storesWf_logEcc (storesWf_setCore_same rfl h)
  · exact storesWf_logEcc (storesWf_setCore_same rfl h)
  · exact storesWf_logEcc ⟨h.mem, h.cist, h.spad, h.lines⟩
  · exact storesWf_logEcc (storesWf_setRegion _ _ h)

theorem State.storesWf_correctedAt {s : State} {store core g : Nat} (h : s.storesWf) : (s.correctedAt store core g).storesWf := by
  unfold State.correctedAt
  extract_lets
  split
  · exact h
  · exact storesWf_logError h
  · exact storesWf_logError h
  · exact storesWf_logError h
  · exact storesWf_logError h
  · exact storesWf_logError h

theorem State.storesWf_otherLease {s : State} {pkg inc : Nat} {name : Word} {hold : Bool} {len : Nat} (h : s.storesWf) :
    (s.otherLease pkg inc name hold len).storesWf := by
  unfold State.otherLease
  extract_lets
  split
  · exact storesWf_setRow h
  · split
    · exact storesWf_setRow h
    · exact h

theorem State.storesWf_wake {s : State} (h : s.storesWf) : s.wake.storesWf := storesWf_mapCores (fun _ => rfl) h

theorem State.storesWf_sregWrite {s : State} {c k : Nat} {sl : Slot} {idx : Nat} {w : Word} (h : s.storesWf) :
    (s.sregWrite c k sl idx w).storesWf := by
  unfold State.sregWrite
  extract_lets
  split
  · exact storesWf_setSlot h
  · exact storesWf_setSlot h
  · exact storesWf_setSlot h
  · exact storesWf_setSlot h
  · exact storesWf_setSlot h
  · exact storesWf_setPart_same rfl h
  · exact storesWf_setPart_same rfl h
  · exact storesWf_setSlot h
  · exact storesWf_setSlot h
  · exact storesWf_setPart_same rfl h
  · exact storesWf_setPart_same rfl h
  · exact storesWf_setPart_same rfl h
  · exact storesWf_setPart_same rfl h
  · exact storesWf_setPart_same rfl h
  · exact storesWf_setPart_same rfl h
  · exact storesWf_setPart_same rfl h
  · exact storesWf_setPart_same rfl h
  · exact storesWf_modGrotto h
  · exact storesWf_setSlot h
  · exact storesWf_setSlot h
  · exact storesWf_setPart_same rfl h
  · exact storesWf_setPart_same rfl h
  · exact h

/-! ### Scalar instructions and outstanding accesses -/

theorem nextWf_issueReg {i : Instr} {s : State} {sd : Nat} {f : Ctx → Word} (h : s.storesWf) : NextWf (issueReg i s sd f) :=
  nextWf_issueSlot h

theorem nextWf_issueCtx {i : Instr} {s : State} {f : Ctx → Ctx} (h : s.storesWf) : NextWf (issueCtx i s f) := nextWf_issueSlot h

theorem nextWf_issueCond {i : Instr} {s : State} {kd : Nat} {f : Ctx → Bool} (h : s.storesWf) : NextWf (issueCond i s kd f) :=
  nextWf_issueCtx h

theorem nextWf_issuePred {i : Instr} {s : State} {kd p : Nat} {f : Pred → Bool} (h : s.storesWf) : NextWf (issuePred i s kd p f) := by
  unfold issuePred
  refine nextWf_issueWith h (fun _ => ?_)
  extract_lets
  split
  · exact storesWf_setSlot h
  · split
    · exact trivial
    · exact h

theorem nextWf_execMfs {sd spec : Nat} {s : State} (h : s.storesWf) : NextWf (execMfs sd spec s) := by
  unfold execMfs
  refine nextWf_issueWith h (fun _ => ?_)
  split
  · exact trivial
  · split
    · next e1 =>
        refine storesWf_setSlot (storesWf_of_snd ?_ e1)
        split
        · exact storesWf_takeFree_snd h
        · exact h

theorem nextWf_execMts {sa spec : Nat} {s : State} (h : s.storesWf) : NextWf (execMts sa spec s) := by
  unfold execMts
  refine nextWf_issueWith h (fun _ => ?_)
  split
  · exact trivial
  · exact trivial
  · extract_lets
    split
    · exact trivial
    · split
      · exact trivial
      · exact storesWf_sregWrite h

theorem nextWf_issueTransfer {i : Instr} {s : State} {k : Nat} {target : Ctx → Nat} {link annul : Bool} (h : s.storesWf) :
    NextWf (issueTransfer i s k target link annul) := by
  unfold issueTransfer
  refine nextWf_issueWith h (fun _ => ?_)
  extract_lets
  split
  · split
    · exact trivial
    · exact storesWf_setSlot h
  · split
    · exact h
    · exact storesWf_setSlot h

theorem nextWf_execLoop {lc sa body count : Nat} {s : State} (h : s.storesWf) : NextWf (execLoop lc sa body count s) := by
  unfold execLoop
  refine nextWf_issueWith h (fun _ => ?_)
  extract_lets
  split <;> exact storesWf_setSlot h

theorem State.storesWf_unpipe {s : State} {c k : Nat} (h : s.storesWf) : (s.unpipe c k).storesWf := storesWf_setCore_same rfl h

theorem nextWf_execLoopp {lc depth sa p k count e : Nat} {s : State} (h : s.storesWf) :
    NextWf (execLoopp lc depth sa p k count e s) := by
  unfold execLoopp
  refine nextWf_issueWith h (fun _ => ?_)
  extract_lets
  split
  · exact trivial
  · split
    · exact trivial
    · split
      · exact storesWf_setSlot h
      · exact storesWf_unpipe (storesWf_setSlot h)

theorem State.storesWf_breakSegment {s : State} {c k tag : Nat} (h : s.storesWf) : (s.breakSegment c k tag).storesWf :=
  storesWf_modSlot (storesWf_unpipe (storesWf_setCore_same rfl h))

theorem nextWf_execBrk {lc k : Nat} {s : State} (h : s.storesWf) : NextWf (execBrk lc k s) := by
  unfold execBrk
  refine nextWf_issueWith h (fun _ => ?_)
  extract_lets
  split
  · split
    · exact trivial
    · extract_lets
      split
      · split
        · exact storesWf_settle (storesWf_breakSegment (storesWf_setSlot h))
        · exact storesWf_setSlot h
      · exact storesWf_setSlot h
  · exact h

theorem State.storesWf_sendNew {s : State} {sl : Slot} {a : P0Acc} (h : s.storesWf) : (s.sendNew sl a).storesWf := by
  unfold State.sendNew
  extract_lets
  split
  · exact storesWf_sendP0 h
  · exact h

theorem Body.storesWf_pushAcc {s : State} {sl : Slot} {t : Target} {a : AccArgs} (h : s.storesWf) : (s.pushAcc sl t a).storesWf := by
  unfold State.pushAcc
  split
  · exact trivial
  · split
    · exact h
    · exact storesWf_sendNew (storesWf_setSlot (storesWf_keepNotes h))

theorem Body.storesWf_objectAcc {s : State} {sl : Slot} {kind : AccKind} {a : AccArgs} (h : s.storesWf) :
    (s.objectAcc sl kind a).storesWf := by
  unfold State.objectAcc
  split
  · exact trivial
  · exact Body.storesWf_pushAcc h

theorem Body.storesWf_windowAcc {s : State} {sl : Slot} {a : AccArgs} (h : s.storesWf) : (s.windowAcc sl a).storesWf := by
  unfold State.windowAcc
  extract_lets
  split
  · exact trivial
  · exact Body.storesWf_pushAcc h

theorem Body.storesWf_elementAcc {s : State} {sl : Slot} {kind : AccKind} {d e : Nat} {a : AccArgs} (h : s.storesWf) :
    (s.elementAcc sl kind d e a).storesWf := by
  unfold State.elementAcc
  extract_lets
  split
  · exact trivial
  · split
    · exact trivial
    · split
      · exact trivial
      · exact Body.storesWf_objectAcc h

theorem nextWf_execLds {sd c sa : Nat} {o : AccOrd} {size : Size} {imm : Int} {s : State} (h : s.storesWf) :
    NextWf (execLds sd c sa o size imm s) := nextWf_issueWith h (fun _ => Body.storesWf_objectAcc h)

theorem nextWf_execSts {sd c sa : Nat} {o : AccOrd} {size : Size} {imm : Int} {s : State} (h : s.storesWf) :
    NextWf (execSts sd c sa o size imm s) := nextWf_issueWith h (fun _ => Body.storesWf_objectAcc h)

theorem nextWf_execLdp {sd sa : Nat} {o : AccOrd} {imm : Int} {s : State} (h : s.storesWf) : NextWf (execLdp sd sa o imm s) :=
  nextWf_issueWith h (fun _ => Body.storesWf_windowAcc h)

theorem nextWf_execStp {sd sa : Nat} {o : AccOrd} {imm : Int} {s : State} (h : s.storesWf) : NextWf (execStp sd sa o imm s) :=
  nextWf_issueWith h (fun _ => Body.storesWf_windowAcc h)

theorem nextWf_execLde {sd d sa : Nat} {o : AccOrd} {size : Size} {imm : Int} {s : State} (h : s.storesWf) :
    NextWf (execLde sd d sa o size imm s) := nextWf_issueWith h (fun _ => Body.storesWf_elementAcc h)

theorem nextWf_execSte {sd d sa : Nat} {o : AccOrd} {size : Size} {imm : Int} {s : State} (h : s.storesWf) :
    NextWf (execSte sd d sa o size imm s) := nextWf_issueWith h (fun _ => Body.storesWf_elementAcc h)

theorem Body.storesWf_atomic {s : State} {sl : Slot} {space : ASpace} {kind : AccKind} {a : AccArgs} (h : s.storesWf) :
    (s.atomic sl space kind a).storesWf := by
  unfold State.atomic
  split
  · exact Body.storesWf_objectAcc h
  · exact Body.storesWf_windowAcc h

theorem nextWf_execAtom {c sa : Nat} {o : AccOrd} {op : Aop} {size : Size} {space : ASpace} {sb : Nat} {s : State} (h : s.storesWf) :
    NextWf (execAtom c sa o op size space sb s) := nextWf_issueWith h (fun _ => Body.storesWf_atomic h)

theorem nextWf_execAtomf {sd c sa : Nat} {o : AccOrd} {op : Aop} {size : Size} {space : ASpace} {sb : Nat} {s : State} (h : s.storesWf) :
    NextWf (execAtomf sd c sa o op size space sb s) := nextWf_issueWith h (fun _ => Body.storesWf_atomic h)

theorem nextWf_execAcas {sd c sa : Nat} {o : AccOrd} {size : Size} {space : ASpace} {sb sc : Nat} {s : State} (h : s.storesWf) :
    NextWf (execAcas sd c sa o size space sb sc s) := nextWf_issueWith h (fun _ => Body.storesWf_atomic h)

theorem nextWf_execCapsel {cd sa imm : Nat} {s : State} (h : s.storesWf) : NextWf (execCapsel cd sa imm s) := by
  unfold execCapsel
  refine nextWf_issueWith h (fun _ => ?_)
  extract_lets
  split
  · exact h
  · split
    · exact trivial
    · split
      · exact trivial
      · split
        · exact trivial
        · exact storesWf_setSlot (storesWf_keepNotes h)

theorem nextWf_execCapnar {cd ca sb : Nat} {form : NarForm} {s : State} (h : s.storesWf) : NextWf (execCapnar cd ca sb form s) := by
  unfold execCapnar
  refine nextWf_issueWith h (fun _ => ?_)
  split
  · exact trivial
  · exact storesWf_setSlot h

theorem nextWf_execTdset {dd sa : Nat} {f : TdField} {s : State} (h : s.storesWf) : NextWf (execTdset dd sa f s) := by
  unfold execTdset
  refine nextWf_issueWith h (fun _ => ?_)
  split
  · exact trivial
  · exact storesWf_setSlot h

theorem nextWf_execTdcap {dd ca : Nat} {s : State} (h : s.storesWf) : NextWf (execTdcap dd ca s) := by
  unfold execTdcap
  refine nextWf_issueWith h (fun _ => ?_)
  extract_lets
  split
  · exact trivial
  · exact storesWf_setSlot h

theorem nextWf_slotEvent {s : State} {c k : Nat} {f : Slot → Option State} (h : s.storesWf) (hf : ∀ a, OptWf (f a)) :
    NextWf (slotEvent s c k f) := by
  unfold slotEvent
  split
  · exact trivial
  · split
    · exact h
    · split
      · next e2 => exact (hf _).get e2
      · exact h

theorem State.storesWf_finishAcc {s : State} {c k : Nat} {sl : Slot} {a : P0Acc} (h : s.storesWf) : (s.finishAcc c k sl a).storesWf :=
  storesWf_settle (storesWf_stepP0 h)

theorem nextWf_execLoadDataReturn {core slot idx : Nat} {s : State} (h : s.storesWf) : NextWf (execLoadDataReturn core slot idx s) :=
  nextWf_slotEvent h (fun _ => optWf_map (fun _ => storesWf_finishAcc h))

theorem nextWf_execPostedAccessAck {core slot idx : Nat} {s : State} (h : s.storesWf) :
    NextWf (execPostedAccessAck core slot idx s) := nextWf_slotEvent h (fun _ => optWf_map (fun _ => storesWf_finishAcc h))

theorem nextWf_execFence {paths scope classes : Nat} {s : State} (h : s.storesWf) : NextWf (execFence paths scope classes s) := by
  unfold execFence
  refine nextWf_issueWith h (fun _ => ?_)
  extract_lets
  split
  · exact storesWf_dropFences h
  · split
    · exact storesWf_dropFences h
    · exact storesWf_dropFences (storesWf_setSlot (storesWf_dropFences h))

theorem nextWf_execFencem {engines : Nat} {s : State} (h : s.storesWf) : NextWf (execFencem engines s) := by
  unfold execFencem
  refine nextWf_issueWith h (fun _ => ?_)
  extract_lets
  split
  · exact trivial
  · split
    · exact h
    · exact storesWf_setSlot (storesWf_foldl (fun _ _ h => storesWf_addCmd h) h)

theorem nextWf_execJoinm {s : State} (h : s.storesWf) : NextWf (execJoinm s) := by
  unfold execJoinm
  refine nextWf_issueWith h (fun _ => ?_)
  extract_lets
  split
  · exact h
  · split
    · exact trivial
    · exact h

theorem nextWf_execWaitc {loads stores copies tileops : Nat} {s : State} (h : s.storesWf) :
    NextWf (execWaitc loads stores copies tileops s) := by
  unfold execWaitc
  refine nextWf_issueWith h (fun _ => ?_)
  extract_lets
  split
  · exact trivial
  · split <;> exact h

theorem nextWf_execMarkerRetire {core slot : Nat} {eng : Eng} {s : State} (h : s.storesWf) :
    NextWf (execMarkerRetire core slot eng s) := by
  unfold execMarkerRetire
  refine nextWf_slotEvent h (fun _ => ?_)
  split
  · split
    · exact storesWf_completeCmd h
    · exact trivial
  · exact trivial

theorem ReadNow.storesWf_value {r : BytesNow} (h : r.storesWf) : r.value.storesWf := by
  cases r with
  | ok t b => exact h
  | stall t => exact h
  | fault t f => exact h

theorem State.storesWf_sendLines {s : State} {p : Nat} {t : Target} {n scope : Nat} {write : Bool} {token : Option Word} (h : s.storesWf) :
    (s.sendLines p t n scope write token).storesWf := by
  unfold State.sendLines
  split
  · exact storesWf_foldl (fun _ _ h => storesWf_sendReq_snd h) h
  · exact h

theorem BytesNow.storesWf_readBytesNow {s : State} {sl : Slot} {t : Target} {n scope off oid : Nat} {evict : Nat} (h : s.storesWf) :
    (s.readBytesNow sl t n scope off oid evict).storesWf := by
  unfold State.readBytesNow
  extract_lets
  split
  · exact h
  · split
    · exact storesWf_dropPoisoned (storesWf_keepNotes (storesWf_sendLines h))
    · exact storesWf_afterRead _ _ _ _ (storesWf_keepNotes (storesWf_sendLines h))

theorem ReadNow.storesWf_readNow {s : State} {sl : Slot} {t : Target} {n scope off oid : Nat} {evict : Nat} (h : s.storesWf) :
    (s.readNow sl t n scope off oid evict).storesWf := ReadNow.storesWf_value (BytesNow.storesWf_readBytesNow h)

theorem ReadNow.storesWf_waitaRead {s : State} {sl : Slot} {c sa : Nat} {o : AccOrd} {size : Size} {space : ASpace} {imm : Int}
    (h : s.storesWf) :
    (s.waitaRead sl c sa o size space imm).storesWf := by
  unfold State.waitaRead
  extract_lets
  split
  · split
    · exact h
    · exact ReadNow.storesWf_readNow h
  · split
    · exact h
    · exact ReadNow.storesWf_readNow h

theorem nextWf_execWaita {sd c sa : Nat} {o : AccOrd} {size : Size} {space : ASpace} {imm : Int} {s : State} (h : s.storesWf) :
    NextWf (execWaita sd c sa o size space imm s) := by
  unfold execWaita
  refine nextWf_issueWith h (fun _ => ?_)
  split
  · exact h
  · split
    · next e1 => exact (ReadNow.storesWf_waitaRead h).of_eq e1
    · next e1 => exact (ReadNow.storesWf_waitaRead h).of_eq e1
    · next e1 => split <;> exact (ReadNow.storesWf_waitaRead h).of_eq e1

theorem nextWf_execWaitaRepoll {core slot : Nat} {s : State} (h : s.storesWf) : NextWf (execWaitaRepoll core slot s) := by
  unfold execWaitaRepoll
  refine nextWf_slotEvent h (fun _ => ?_)
  split
  · exact storesWf_setSlot h
  · exact trivial

theorem nextWf_execTokp {sluice sa : Nat} {s : State} (h : s.storesWf) : NextWf (execTokp sluice sa s) := by
  unfold execTokp
  refine nextWf_issueWith h (fun _ => ?_)
  extract_lets
  split
  · exact h
  · split
    · exact storesWf_markTokens (storesWf_setSlot (storesWf_setCore_same rfl h))
    · split
      · exact h
      · exact storesWf_setCore_same rfl h

theorem State.storesWf_popToken {s : State} {c n : Nat} (h : s.storesWf) : (s.popToken c n).storesWf := storesWf_setCore_same rfl h

theorem nextWf_execTokg {sd sluice : Nat} {s : State} (h : s.storesWf) : NextWf (execTokg sd sluice s) := by
  unfold execTokg
  refine nextWf_issueWith h (fun _ => ?_)
  split
  · exact h
  · exact storesWf_writeReg (storesWf_popToken h)

theorem nextWf_execTokn {sd sluice : Nat} {s : State} (h : s.storesWf) : NextWf (execTokn sd sluice s) := by
  unfold execTokn
  refine nextWf_issueWith h (fun _ => ?_)
  split
  · exact storesWf_writeReg h
  · exact storesWf_writeReg (storesWf_popToken h)

theorem nextWf_execTokenEntry {core slot : Nat} {s : State} (h : s.storesWf) : NextWf (execTokenEntry core slot s) :=
  nextWf_slotEvent h (fun _ => optWf_map (fun _ => storesWf_enterToken h))

theorem nextWf_execSluiceReservationGrant {core sluice : Nat} {s : State} (h : s.storesWf) :
    NextWf (execSluiceReservationGrant core sluice s) := by
  unfold execSluiceReservationGrant
  split
  · exact trivial
  · extract_lets
    split
    · exact h
    · split
      · exact h
      · split
        · split
          · exact storesWf_setSlot (storesWf_setCore_same rfl h)
          · exact storesWf_setSlot h
        · exact h

/-! ### Steps of VL, VS, VA and MX -/

theorem State.storesWf_vaWrite {s : State} {c : Nat} {sl : Slot} {cmd : Cmd} {o : VaOut} (h : s.storesWf) :
    (s.vaWrite c sl cmd o).storesWf := by
  unfold State.vaWrite
  refine storesWf_advanceCmd (storesWf_setSlot (storesWf_setCore_same ?_ h))
  rw [putScales_spad]
  split
  · exact putPort_spad ..
  · rfl

theorem optWf_stepOf {s : State} {c k : Nat} {e : Eng} {sl : Slot} {f : Cmd → Option State} (h : s.storesWf) (hf : ∀ a, OptWf (f a)) :
    OptWf (s.stepOf c k e sl f) := by
  unfold State.stepOf
  split
  · split
    · exact optWf_startStep h hf
    · exact trivial
  · exact trivial

theorem optWf_vaStep {s : State} {c : Nat} {sl : Slot} {cmd : Cmd} (h : s.storesWf) : OptWf (s.vaStep c sl cmd) := by
  unfold State.vaStep
  split
  · exact trivial
  · split
    · exact storesWf_engineFault h
    · exact storesWf_vaWrite h

theorem optWf_loadStep {s : State} {c : Nat} {sl : Slot} {cmd : Cmd} {a : RowArgs} (h : s.storesWf) : OptWf (s.loadStep c sl cmd a) := by
  unfold State.loadStep
  split
  · exact storesWf_engineFault h
  · split
    · exact storesWf_engineFault h
    · split
      · exact storesWf_engineFault h
      · exact trivial
      · split
        · next e => exact storesWf_engineFault (storesWf_of_fst (storesWf_readPieces_fst (storesWf_sendPieces h)) e)
        · next e =>
          have ht := storesWf_of_fst (storesWf_readPieces_fst (storesWf_sendPieces h)) e
          exact storesWf_advanceCmd (storesWf_residFill (storesWf_setSlot (storesWf_setCore_same (putPort_spad ..) ht)))

theorem State.storesWf_rejectStore {s : State} {c : Nat} {sl : Slot} {cmd : Cmd} {x : Piece} (h : s.storesWf) :
    (s.rejectStore c sl cmd x).storesWf := storesWf_modSlot (storesWf_loseLease h)

theorem State.storesWf_storePieces {s : State} {c : Nat} {sl : Slot} {cmd : Cmd} {a : RowArgs} {bs : List (Bool × Byte)} {ps : List Piece}
    (h : s.storesWf) :
    (s.storePieces c sl cmd a bs ps).storesWf := by
  unfold State.storePieces
  split
  · exact storesWf_rejectStore h
  · exact storesWf_residFill (storesWf_writePieces (storesWf_sendPieces h))

theorem optWf_storeStep {s : State} {c : Nat} {sl : Slot} {cmd : Cmd} {a : RowArgs} (h : s.storesWf) :
    OptWf (s.storeStep c sl cmd a) := by
  unfold State.storeStep
  split
  · exact storesWf_engineFault h
  · exact trivial
  · extract_lets data
    clear_value data
    split
    · exact storesWf_engineFault h
    · split
      · exact storesWf_engineFault h
      · split
        · exact storesWf_engineFault h
        · split
          · exact storesWf_engineFault h
          · exact trivial
          · exact storesWf_advanceCmd (storesWf_modCtx (storesWf_storePieces h))

theorem State.storesWf_prefetchPiece {s : State} {c p scope : Nat} {f : Fill} {x : Piece} (h : s.storesWf) :
    (s.prefetchPiece c p scope f x).storesWf := by
  unfold State.prefetchPiece
  extract_lets
  split
  · exact storesWf_keepNotes h
  · split
    · exact storesWf_afterRead _ _ _ _ (storesWf_sendPieces (storesWf_keepNotes h))
    · exact storesWf_keepNotes h

theorem State.storesWf_prefStep {s : State} {c : Nat} {sl : Slot} {cmd : Cmd} {scope evict : Nat} (h : s.storesWf) :
    (s.prefStep c sl cmd scope evict).storesWf := by
  unfold State.prefStep
  extract_lets
  split
  · exact h
  · split
    · exact h
    · split
      · exact h
      · exact storesWf_residFill (storesWf_foldl (fun _ _ h => storesWf_prefetchPiece h) h)

theorem State.storesWf_setHint {s : State} {p x t : Nat} {cls : Retain} (h : s.storesWf) : (s.setHint p x t cls).storesWf := by
  unfold State.setHint
  extract_lets q rest u
  have hu : u.storesWf :=
    storesWf_setPart _ _ (nodup_lines_map (fun l => by split <;> rfl) (h.lines p)) h
  clear_value u
  split
  · exact hu
  · exact storesWf_setPart_same rfl hu

theorem State.storesWf_hintStep {s : State} {c : Nat} {sl : Slot} {cmd : Cmd} {cls : Retain} (h : s.storesWf) :
    (s.hintStep c sl cmd cls).storesWf := by
  unfold State.hintStep
  extract_lets
  split
  · exact h
  · split
    · exact h
    · exact storesWf_setHint (storesWf_keepNotes h)

theorem optWf_vlStep {s : State} {c : Nat} {sl : Slot} {cmd : Cmd} (h : s.storesWf) : OptWf (s.vlStep c sl cmd) := by
  unfold State.vlStep
  split
  · exact storesWf_advanceCmd (storesWf_prefStep h)
  · exact storesWf_advanceCmd (storesWf_hintStep h)
  · split
    · exact optWf_loadStep h
    · exact trivial

theorem optWf_vsStep {s : State} {c : Nat} {sl : Slot} {cmd : Cmd} (h : s.storesWf) : OptWf (s.vsStep c sl cmd) := by
  unfold State.vsStep
  split
  · exact optWf_storeStep h
  · exact trivial

theorem nextWf_execVlStep {core slot : Nat} {s : State} (h : s.storesWf) : NextWf (execVlStep core slot s) :=
  nextWf_slotEvent h (fun _ => optWf_stepOf h (fun _ => optWf_vlStep h))

theorem nextWf_execVsStep {core slot : Nat} {s : State} (h : s.storesWf) : NextWf (execVsStep core slot s) :=
  nextWf_slotEvent h (fun _ => optWf_stepOf h (fun _ => optWf_vsStep h))

theorem nextWf_execVaStep {core slot : Nat} {s : State} (h : s.storesWf) : NextWf (execVaStep core slot s) :=
  nextWf_slotEvent h (fun _ => optWf_stepOf h (fun _ => optWf_vaStep h))

theorem nextWf_execMxsa {ma sa sb : Nat} {src : MxSrc} {s : State} (h : s.storesWf) : NextWf (execMxsa ma sa sb src s) := by
  unfold execMxsa
  refine nextWf_issueWith h (fun _ => ?_)
  extract_lets
  split
  · exact trivial
  · exact storesWf_setSlot h

theorem nextWf_execMxsb {mb sa sb : Nat} {src : MxSrc} {s : State} (h : s.storesWf) : NextWf (execMxsb mb sa sb src s) := by
  unfold execMxsb
  refine nextWf_issueWith h (fun _ => ?_)
  extract_lets
  split
  · exact trivial
  · exact storesWf_setSlot h

theorem nextWf_execMxsm {ms sa : Nat} {mode : MsMode} {s : State} (h : s.storesWf) : NextWf (execMxsm ms sa mode s) := by
  unfold execMxsm
  refine nextWf_issueWith h (fun _ => ?_)
  extract_lets
  split
  · exact trivial
  · exact storesWf_setSlot h

theorem optWf_mxStepWith {s : State} {c : Nat} {sl : Slot} {cmd : Cmd} {p : MxPlan} {n : Nat} (h : s.storesWf) :
    OptWf (s.mxStepWith c sl cmd p n) := by
  unfold State.mxStepWith
  extract_lets
  split
  · exact storesWf_engineFault h
  · split
    · exact storesWf_engineFault h
    · exact trivial
    · split
      · exact storesWf_engineFault h
      · split
        · next e3 => exact storesWf_engineFault (storesWf_of_fst (storesWf_readPieces_fst (storesWf_sendPieces h)) e3)
        · next e3 => exact storesWf_advanceCmd (storesWf_setCore_same rfl
            (storesWf_residFill (storesWf_of_fst (storesWf_readPieces_fst (storesWf_sendPieces h)) e3)))

theorem optWf_mxCmdStep {s : State} {c : Nat} {sl : Slot} {cmd : Cmd} {a : Mma} (h : s.storesWf) : OptWf (s.mxCmdStep c sl cmd a) := by
  unfold State.mxCmdStep
  extract_lets
  split
  · exact storesWf_engineFault h
  · split
    · exact storesWf_engineFault h
    · split
      · exact storesWf_completeCmd h
      · exact optWf_mxStepWith h

theorem nextWf_execMxStep {core jet : Nat} {s : State} (h : s.storesWf) : NextWf (execMxStep core jet s) := by
  unfold execMxStep
  split
  · exact trivial
  · split
    · exact h
    · split
      · exact h
      · extract_lets
        split
        · split
          · next e4 => exact (optWf_bind (fun _ => optWf_mxCmdStep h)).get e4
          · exact h
        · exact h

theorem nextWf_execMxCommandStart {core : Nat} {s : State} (h : s.storesWf) : NextWf (execMxCommandStart core s) := by
  unfold execMxCommandStart
  split
  · exact trivial
  · split
    · split
      · exact storesWf_putCmd h
      · exact h
    · exact h

/-! ### Steps of XF and the commons -/

theorem nextWf_xfEvent {s : State} {c idx : Nat} {f : Slot → Cmd → Option State} (h : s.storesWf) (hf : ∀ a a1, OptWf (f a a1)) :
    NextWf (xfEvent s c idx f) := by
  unfold xfEvent
  split
  · exact trivial
  · split
    · exact h
    · split
      · exact h
      · split
        · exact storesWf_getD (optWf_startStep h (fun _ => hf _ _)) h
        · exact h

theorem State.storesWf_doneUnits {s : State} {c : Nat} {cmd : Cmd} {all : Bool} (h : s.storesWf) : (s.doneUnits c cmd all).storesWf := by
  unfold State.doneUnits
  split
  · exact storesWf_dropUnits h
  · exact h

theorem State.storesWf_payDone {s : State} {c : Nat} {cmd : Cmd} (h : s.storesWf) : (s.payDone c cmd).storesWf := by
  unfold State.payDone
  extract_lets
  split
  · exact storesWf_completeCmd (storesWf_doneUnits h)
  · exact storesWf_putCmd (storesWf_doneUnits h)

theorem State.storesWf_xfAdvance {s : State} {c : Nat} {cmd : Cmd} {mpc : Nat} {last : Bool} (h : s.storesWf) :
    (s.xfAdvance c cmd mpc last).storesWf := by
  unfold State.xfAdvance
  split
  · exact storesWf_payDone h
  · exact storesWf_doneUnits (storesWf_putCmd h)

theorem optWf_xfEnd {c : Nat} {cmd : Cmd} {r : XRes} {mpc : Nat} {last : Bool} (h : r.storesWf) : OptWf (xfEnd c cmd r mpc last) := by
  cases r with
  | ok t => exact storesWf_xfAdvance h
  | fault t f => exact storesWf_engineFault h
  | wait => exact trivial

theorem XRead.storesWf_xfRead {s : State} {c : Nat} {sl : Slot} {cmd : Cmd} {scope : Nat} {reads also : List XAcc} (h : s.storesWf) :
    (s.xfRead c sl cmd scope reads also).storesWf := by
  unfold State.xfRead
  extract_lets
  split
  · exact h
  · split
    · exact h
    · exact trivial
    · exact h
    · exact trivial
    · split
      · next e3 => exact storesWf_of_fst (storesWf_readPieces_fst (storesWf_sendPieces h)) e3
      · next e4 => exact storesWf_of_fst (storesWf_readPieces_fst (storesWf_sendPieces h)) e4

theorem XRes.storesWf_xfStore {s : State} {c : Nat} {sl : Slot} {cmd : Cmd} {side : XSide} {bs : List Byte} {ps : List Piece}
    (h : s.storesWf) :
    (s.xfStore c sl cmd side bs ps).storesWf := by
  unfold State.xfStore
  extract_lets
  split
  · exact storesWf_loseLease h
  · exact storesWf_writePieces (storesWf_sendPieces h)

theorem XRes.storesWf_xfWrite {s : State} {c : Nat} {sl : Slot} {cmd : Cmd} {side : XSide} {bs : List Byte} (h : s.storesWf) :
    (s.xfWrite c sl cmd side bs).storesWf := by
  unfold State.xfWrite
  extract_lets
  split
  · exact h
  · split
    · exact h
    · exact trivial
    · exact XRes.storesWf_xfStore h

theorem State.storesWf_moveFill {s : State} {c : Nat} {sl : Slot} {cmd : Cmd} {scope : Nat} {xs : List XAcc} (h : s.storesWf) :
    (s.moveFill c sl cmd scope xs).storesWf := by
  unfold State.moveFill
  extract_lets
  split
  · exact storesWf_foldl (fun _ _ h => storesWf_residSet h) (storesWf_residFill h)
  · exact storesWf_residFill h

theorem XRes.storesWf_moveBytes {s : State} {c : Nat} {sl : Slot} {cmd : Cmd} {v : Move} {lo n : Nat} (h : s.storesWf) :
    (s.moveBytes c sl cmd v lo n).storesWf := by
  unfold State.moveBytes
  extract_lets reads also
  split
  · next e => exact (XRead.storesWf_xfRead h).of_eq e
  · next t bs e =>
    have ht : t.storesWf := (XRead.storesWf_xfRead h).of_eq e
    extract_lets r
    have hr : r.storesWf := by
      unfold r
      split
      · exact ht
      · exact XRes.storesWf_xfWrite ht
    clear_value r
    split
    · exact storesWf_moveFill hr
    · exact hr

theorem optWf_moveStep {s : State} {c : Nat} {sl : Slot} {cmd : Cmd} {v : Move} (h : s.storesWf) : OptWf (s.moveStep c sl cmd v) := by
  unfold State.moveStep
  extract_lets
  split
  · exact storesWf_engineFault h
  · exact optWf_xfEnd (XRes.storesWf_moveBytes h)

theorem State.storesWf_endBindings {s : State} {sel : Binding → Bool} (h : s.storesWf) : (s.endBindings sel).storesWf :=
  storesWf_foldl (fun _ _ h => storesWf_modGrotto h) h

theorem State.storesWf_endExpired {s : State} (h : s.storesWf) : s.endExpired.storesWf := storesWf_endBindings h

theorem State.storesWf_queueUnits {s : State} {k : EngKind} {c p : Nat} {cmd : Cmd} (h : s.storesWf) :
    (s.queueUnits k c p cmd).storesWf := by
  unfold State.queueUnits
  extract_lets
  split <;> exact storesWf_modGrotto h

theorem UnitRes.storesWf_unitState {s : State} {c : Nat} {sl : Slot} {cmd : Cmd} (h : s.storesWf) : (s.unitState c sl cmd).storesWf := by
  unfold State.unitState
  split
  · exact trivial
  · split
    · split <;> exact trivial
    · exact storesWf_queueUnits (storesWf_putCmd h)

theorem State.storesWf_arbRound {s : State} {k : EngKind} (h : s.storesWf) : (s.arbRound k).storesWf := by
  unfold State.arbRound
  exact storesWf_modGrotto (storesWf_endExpired h)

theorem State.storesWf_conduitRound {s : State} (h : s.storesWf) : s.conduitRound.storesWf := by
  unfold State.conduitRound
  exact storesWf_modGrotto h

theorem State.storesWf_lemconRound {s : State} (h : s.storesWf) : s.lemconRound.storesWf := storesWf_modGrotto h

theorem State.storesWf_bindEngine {s : State} {k : EngKind} {i p : Nat} (h : s.storesWf) : (s.bindEngine k i p).storesWf :=
  storesWf_modGrotto h

theorem optWf_collectStep {s : State} {c : Nat} {sl : Slot} {cmd : Cmd} (h : s.storesWf) : OptWf (s.collectStep c sl cmd) := by
  unfold State.collectStep
  split
  · exact storesWf_engineFault h
  · extract_lets u cmd' w op total lo n out reads r
    have hu : u.storesWf := storesWf_keepNotes h
    have hr : r.storesWf := by
      unfold r
      split
      · next e => exact (XRead.storesWf_xfRead hu).of_eq e
      · next e => exact XRes.storesWf_xfWrite ((XRead.storesWf_xfRead hu).of_eq e)
    exact optWf_xfEnd hr

theorem readWf_readOne {s : State} {c : Nat} {sl : Slot} {cmd : Cmd} {x : XSide} {n : Nat} (h : s.storesWf) :
    ReadWf (s.readOne c sl cmd x n) := by
  unfold State.readOne
  split
  · next e =>
    have hr := (XRead.storesWf_xfRead h).of_eq e
    exact ⟨h, fun _ e => by cases e; exact hr⟩
  · next e => exact ⟨(XRead.storesWf_xfRead h).of_eq e, fun _ e => by cases e⟩

theorem optWf_packStep {s : State} {c : Nat} {sl : Slot} {cmd : Cmd} {put : Bool} (h : s.storesWf) : OptWf (s.packStep c sl cmd put) := by
  unfold State.packStep
  split
  extract_lets
  split
  · exact storesWf_engineFault h
  · split
    · split
      · next e => exact optWf_xfEnd ((readWf_readOne h).error e).2
      · next e => exact optWf_xfEnd (XRes.storesWf_xfWrite ((readWf_readOne h).ok e))
    · exact optWf_xfEnd (XRes.storesWf_xfWrite h)

theorem readWf_walkStream {s : State} {c : Nat} {sl : Slot} {cmd : Cmd} {src : XSide} {whole : Bool} {tail n off : Nat} (h : s.storesWf) :
    ReadWf (s.walkStream c sl cmd src whole tail n off) := by
  induction n generalizing s off with
  | zero => exact ⟨h, fun _ e => by cases e⟩
  | succ n ih =>
    unfold State.walkStream
    split
    · next e =>
      obtain ⟨ht, hr⟩ := (readWf_readOne h).error e
      exact ⟨ht, fun _ e => by cases e; exact hr⟩
    · next e =>
      have ht := (readWf_readOne h).ok e
      dsimp only
      split
      · exact ⟨ht, fun _ e => by cases e; exact ht⟩
      · split
        · split
          · next e =>
            obtain ⟨hu, hr⟩ := (readWf_readOne ht).error e
            exact ⟨hu, fun _ e => by cases e; exact hr⟩
          · next e => exact ih ((readWf_readOne ht).ok e)
        · exact ih ht

theorem XRes.storesWf_checkStream_fst {s : State} {c : Nat} {sl : Slot} {cmd : Cmd} {src dst : XSide} (h : s.storesWf) :
    (s.checkStream c sl cmd src dst).1.storesWf := by
  unfold State.checkStream
  split
  · next e => exact ((readWf_readOne h).error e).2
  · next e =>
    have ht := (readWf_readOne h).ok e
    extract_lets
    split
    · exact ht
    · split
      · exact ht
      · split
        · next e => exact ((readWf_walkStream ht).error e).2
        · next e => split <;> exact (readWf_walkStream ht).ok e

theorem XRes.storesWf_unpackStep_fst {s : State} {c : Nat} {sl : Slot} {cmd : Cmd} {src dst : XSide} {m : Nat} (h : s.storesWf) :
    (s.unpackStep c sl cmd src dst m).1.storesWf := by
  unfold State.unpackStep
  split
  · next e => exact ((readWf_readOne h).error e).2
  · next t _ e =>
    have ht := (readWf_readOne h).ok e
    extract_lets u n
    have hw : ReadWf (if n = 0 then (t, .error (.ok t)) else t.walkStream c sl cmd src false 0 m 16) := by
      split
      · exact ⟨ht, fun _ e => by cases e; exact ht⟩
      · exact readWf_walkStream ht
    split
    · next e => exact (hw.error e).2
    · next e =>
      have h1 := hw.ok e
      split
      · next e => exact ((readWf_readOne h1).error e).2
      · next e =>
        have h2 := (readWf_readOne h1).ok e
        split
        · next e => exact ((readWf_readOne h2).error e).2
        · next e => exact XRes.storesWf_xfWrite ((readWf_readOne h2).ok e)

theorem optWf_expandStep {s : State} {c : Nat} {sl : Slot} {cmd : Cmd} {put : Bool} (h : s.storesWf) :
    OptWf (s.expandStep c sl cmd put) := by
  unfold State.expandStep
  split
  extract_lets
  split
  · exact optWf_xfEnd (XRes.storesWf_checkStream_fst h)
  · exact optWf_xfEnd (XRes.storesWf_unpackStep_fst h)

theorem optWf_payStep {s : State} {c : Nat} {sl : Slot} {cmd : Cmd} (h : s.storesWf) : OptWf (s.payStep c sl cmd) := by
  unfold State.payStep
  split
  · exact optWf_collectStep h
  · exact optWf_packStep h
  · exact optWf_expandStep h
  · split
    · exact optWf_moveStep h
    · exact trivial

theorem optWf_payloadStep {s : State} {c : Nat} {sl : Slot} {cmd : Cmd} (h : s.storesWf) : OptWf (s.payloadStep c sl cmd) := by
  unfold State.payloadStep
  split
  · split
    · exact storesWf_engineFault h
    · exact storesWf_payDone h
  · extract_lets
    split
    · exact trivial
    · next e1 => exact (UnitRes.storesWf_unitState (storesWf_endExpired h)).of_eq e1
    · exact optWf_payStep (storesWf_endExpired h)

theorem nextWf_execXfPayloadStep {core idx : Nat} {s : State} (h : s.storesWf) : NextWf (execXfPayloadStep core idx s) := by
  unfold execXfPayloadStep
  refine nextWf_xfEvent h (fun _ _ => ?_)
  split
  · exact optWf_payloadStep h
  · exact trivial

theorem XRes.storesWf_flagStore {s : State} {c : Nat} {sl : Slot} {cmd : Cmd} {x : Piece} (h : s.storesWf) :
    (s.flagStore c sl cmd x).storesWf := by
  unfold State.flagStore
  extract_lets scope l old u v
  have hu : u.storesWf := storesWf_keepNotes (storesWf_sendPieces h)
  have hv : v.storesWf := by
    unfold v
    split
    · exact storesWf_afterRead _ _ _ _ hu
    · exact hu
  split
  · exact storesWf_dropPoisoned h
  · exact storesWf_storeAt _ _ _ _ hv

theorem XRes.storesWf_flagWrite {s : State} {c : Nat} {sl : Slot} {cmd : Cmd} {t : Target} (h : s.storesWf) :
    (s.flagWrite c sl cmd t).storesWf := by
  unfold State.flagWrite
  extract_lets
  split
  · exact h
  · exact trivial
  · split
    · exact storesWf_loseLease h
    · exact XRes.storesWf_flagStore h

theorem optWf_flagStep {s : State} {c : Nat} {sl : Slot} {cmd : Cmd} (h : s.storesWf) : OptWf (s.flagStep c sl cmd) := by
  unfold State.flagStep
  split
  · exact storesWf_engineFault h
  · split
    · next e1 => exact storesWf_completeCmd ((XRes.storesWf_flagWrite h).of_eq e1)
    · next e1 => exact storesWf_engineFault ((XRes.storesWf_flagWrite h).of_eq e1)
    · exact trivial

theorem nextWf_execFlagStep {core idx : Nat} {s : State} (h : s.storesWf) : NextWf (execFlagStep core idx s) := by
  unfold execFlagStep
  refine nextWf_xfEvent h (fun _ _ => ?_)
  split
  · exact optWf_flagStep h
  · exact trivial

theorem State.storesWf_modRill {s : State} {p : Nat} {f : Rill → Rill} (h : s.storesWf) : (s.modRill p f).storesWf :=
  storesWf_setPart_same rfl h

theorem State.storesWf_rillTidy {s : State} {p : Nat} (h : s.storesWf) : (s.rillTidy p).storesWf := by
  unfold State.rillTidy
  refine storesWf_setPart _ _ (nodup_lines_map (fun l => ?_) (h.lines p)) h
  split
  · split <;> rfl
  · rfl

theorem optWf_rillGet {s : State} {p : Nat} {w : Nat × RillEntry × Nat} (h : s.storesWf) : OptWf (s.rillGet p w) := by
  unfold State.rillGet
  extract_lets
  split
  · split
    · exact trivial
    · exact storesWf_modRill h
  · extract_lets
    split
    · exact storesWf_modRill h
    · split
      · split
        · exact trivial
        · exact storesWf_modRill h
      · exact trivial
      · split
        · exact storesWf_modRill h
        · exact storesWf_afterRead _ _ _ _ (storesWf_keepNotes (storesWf_sendPieces h))

theorem State.storesWf_rillServed {s : State} (h : s.storesWf) : s.rillServed.storesWf := storesWf_modGrotto h

theorem nextWf_execRillFetch {part : Nat} {s : State} (h : s.storesWf) : NextWf (execRillFetch part s) := by
  unfold execRillFetch
  split
  · exact trivial
  · split
    · exact h
    · split
      · exact storesWf_getD (optWf_map_state (fun _ h => storesWf_rillServed h) (optWf_rillGet h)) h
      · exact storesWf_rillServed h

theorem State.storesWf_rillRound {s : State} (h : s.storesWf) : s.rillRound.storesWf := storesWf_modGrotto h

theorem nextWf_execArbiterRound {res : Res} {s : State} (h : s.storesWf) : NextWf (execArbiterRound res s) := by
  unfold execArbiterRound
  split
  · exact storesWf_arbRound h
  · exact storesWf_arbRound h
  · exact storesWf_arbRound h
  · exact storesWf_conduitRound h
  · exact storesWf_lemconRound h
  · exact storesWf_rillRound h

theorem nextWf_execBindingExpiry {kind : EngKind} {index : Nat} {s : State} (h : s.storesWf) :
    NextWf (execBindingExpiry kind index s) := by
  unfold execBindingExpiry
  split
  · exact trivial
  · exact storesWf_endBindings h

theorem XRes.storesWf_writeRecord {s : State} {c : Nat} {sl : Slot} {a : Nat} {bs : List Byte} (h : s.storesWf) :
    (s.writeRecord c sl a bs).storesWf := by
  unfold State.writeRecord
  split
  · exact h
  · exact storesWf_writeLoc _ _ h

theorem State.storesWf_withdraw {s : State} {p : Nat} (h : s.storesWf) : (s.withdraw p).storesWf := storesWf_rillTidy (storesWf_modRill h)

theorem XRes.storesWf_publish {s : State} {cmd : Cmd} {p k : Nat} (h : s.storesWf) : (s.publish cmd p k).storesWf := by
  unfold State.publish
  extract_lets
  split
  · exact storesWf_withdraw h
  · split
    · exact h
    · split
      · exact h
      · split
        · exact h
        · exact storesWf_rillTidy (storesWf_modRill h)

theorem State.storesWf_rillStep {s : State} {p cur : Nat} (h : s.storesWf) : (s.rillStep p cur).storesWf := by
  unfold State.rillStep
  split
  · exact storesWf_rillTidy (storesWf_modRill h)
  · exact h

theorem State.storesWf_bindAnswer {s : State} {kind : EngKind} {index p : Nat} (h : s.storesWf) :
    (s.bindAnswer kind index p).2.2.storesWf := by
  have hb (i : Nat) : (s.bindEngine kind i p).storesWf := storesWf_bindEngine h
  unfold State.bindAnswer
  extract_lets all mine full fullAll free
  clear_value free mine fullAll full
  split
  · split
    · split
      · exact hb _
      · split
        · exact hb _
        · exact h
    · split
      · exact hb _
      · exact h
  · split
    · exact hb _
    · split
      · exact h
      · split
        · exact h
        · exact hb _

theorem XRes.storesWf_singleStep {s : State} {c : Nat} {sl : Slot} {cmd : Cmd} (h : s.storesWf) : (s.singleStep c sl cmd).storesWf := by
  unfold State.singleStep
  extract_lets u p b
  have hu : u.storesWf := storesWf_endExpired h
  split
  · exact hu
  · exact XRes.storesWf_publish hu
  · exact storesWf_rillStep hu
  · exact XRes.storesWf_writeRecord hu
  · exact XRes.storesWf_writeRecord (storesWf_bindAnswer hu)
  · exact storesWf_endBindings hu
  · exact XRes.storesWf_writeRecord hu
  · exact trivial

theorem optWf_xfSingle {s : State} {c : Nat} {sl : Slot} {cmd : Cmd} (h : s.storesWf) : OptWf (s.xfSingle c sl cmd) := by
  unfold State.xfSingle
  split
  · split
    · exact optWf_flagStep h
    · exact trivial
  · split
    · exact storesWf_payDone h
    · split
      · next e2 => exact storesWf_xfAdvance ((XRes.storesWf_singleStep h).of_eq e2)
      · exact storesWf_engineFault h
      · exact trivial

theorem nextWf_execXfSingleStep {core idx : Nat} {s : State} (h : s.storesWf) : NextWf (execXfSingleStep core idx s) := by
  unfold execXfSingleStep
  refine nextWf_xfEvent h (fun _ _ => ?_)
  extract_lets
  split
  · exact optWf_xfSingle h
  · exact trivial

theorem State.storesWf_cancelXf {s : State} {c k seq : Nat} (h : s.storesWf) : (s.cancelXf c k seq).storesWf := by
  unfold State.cancelXf
  exact storesWf_settle (storesWf_setCore_same rfl (storesWf_dropUnits h))

theorem nextWf_execBcan {sF : Nat} {o : AccOrd} {s : State} (h : s.storesWf) : NextWf (execBcan sF o s) := by
  unfold execBcan
  refine nextWf_issueWith h (fun _ => ?_)
  split
  · next e => exact storesWf_cancelXf ((Body.storesWf_pushEngine h).of_eq e)
  · exact Body.storesWf_pushEngine h

/-! ### Tasks, traps and translation -/

theorem ReadNow.storesWf_readObj {s : State} {sl : Slot} {cap : Cap} {off n al : Nat} (h : s.storesWf) :
    (s.readObj sl cap off n al).storesWf := by
  unfold State.readObj
  split
  · exact h
  · exact ReadNow.storesWf_readNow h

theorem State.storesWf_spawn_snd {s : State} {me : Task} {dep : Bool} {t : Task} (h : s.storesWf) : (s.spawn me dep t).2.storesWf := by
  unfold State.spawn
  split
  · exact h
  · dsimp only
    split
    · exact h
    · split
      · exact h
      · refine storesWf_enterTask ?_
        split
        · exact storesWf_putTask h
        · exact h

theorem ReadNow.storesWf_readExt_fst {s : State} {sl : Slot} {cap : Cap} {k off : Nat} {ws : List Word} (h : s.storesWf) :
    (s.readExt sl cap k off ws).1.storesWf := by
  induction k generalizing s off ws with
  | zero => exact h
  | succ k ih =>
    unfold State.readExt
    split
    · next e =>
      have ht := (ReadNow.storesWf_readObj h).of_eq e
      split
      · exact ht
      · exact ih ht
    · exact ReadNow.storesWf_readObj h

theorem nextWf_execTspawn {sd c sa sb : Nat} {dep : Bool} {s : State} (h : s.storesWf) : NextWf (execTspawn sd c sa sb dep s) := by
  unfold execTspawn
  refine nextWf_issueWith h (fun sl => ?_)
  extract_lets x cap off
  split
  · exact h
  · split
    · next e => exact (ReadNow.storesWf_readObj h).of_eq e
    · next e => exact (ReadNow.storesWf_readObj h).of_eq e
    · next e =>
      have ht := (ReadNow.storesWf_readObj h).of_eq e
      extract_lets b
      split
      · exact trivial
      · exact ht
      · next ext _ _ _ _ _ =>
        have hext : ext.1.storesWf := by
          unfold ext
          split
          · exact ht
          · exact ReadNow.storesWf_readExt_fst ht
        clear_value ext
        split
        · exact hext
        · exact hext
        · exact storesWf_writeReg (storesWf_spawn_snd hext)

theorem State.storesWf_addEdges {s : State} {p dep : Nat} {srcs : List Nat} (h : s.storesWf) : (s.addEdges p dep srcs).storesWf :=
  storesWf_modTask (storesWf_foldl (fun _ _ h => storesWf_modTask h) h)

theorem State.storesWf_depend_snd {s : State} {p b : Nat} {srcs : Option (List Nat)} (h : s.storesWf) :
    (s.depend p b srcs).2.storesWf := by
  unfold State.depend
  split
  · exact h
  · split
    · exact h
    · split
      · exact h
      · dsimp only
        split
        · exact h
        · split
          · exact h
          · exact storesWf_addEdges h

theorem nextWf_execTdep {sd sa sb : Nat} {grp : Bool} {s : State} (h : s.storesWf) : NextWf (execTdep sd sa sb grp s) := by
  unfold execTdep
  refine nextWf_issueWith h (fun _ => ?_)
  extract_lets
  split
  · exact trivial
  · exact storesWf_writeReg (storesWf_depend_snd h)

theorem State.storesWf_issued {s : State} {c k : Nat} (h : s.storesWf) : (s.issued c k).storesWf := storesWf_setCore_same rfl h

theorem nextWf_execTend {s : State} (h : s.storesWf) : NextWf (execTend s) := by
  unfold execTend
  refine nextWf_issueWith h (fun _ => ?_)
  split
  · exact trivial
  · exact storesWf_settle (storesWf_setSlot (storesWf_issued h))

theorem nextWf_execTtrig {s : State} (h : s.storesWf) : NextWf (execTtrig s) := by
  unfold execTtrig
  refine nextWf_issueWith h (fun _ => ?_)
  split
  · split
    · exact h
    · exact storesWf_settleTrig (storesWf_setSlot h)
  · exact h

theorem nextWf_execTyld {s : State} (h : s.storesWf) : NextWf (execTyld s) := by
  unfold execTyld
  refine nextWf_issueWith h (fun _ => ?_)
  split
  · exact trivial
  · exact storesWf_setSlot h

theorem nextWf_execTself {sd : Nat} {item : SelfItem} {s : State} (h : s.storesWf) : NextWf (execTself sd item s) :=
  nextWf_issueWith h (fun _ => storesWf_writeReg h)

theorem nextWf_execTprio {sd sa sb : Nat} {s : State} (h : s.storesWf) : NextWf (execTprio sd sa sb s) := by
  unfold execTprio
  refine nextWf_issueWith h (fun _ => ?_)
  extract_lets
  split
  · exact trivial
  · split
    · exact trivial
    · split
      · exact storesWf_writeReg h
      · exact storesWf_writeReg (storesWf_bump (storesWf_putTask h))

theorem nextWf_execGjoin {sd sa imm : Nat} {s : State} (h : s.storesWf) : NextWf (execGjoin sd sa imm s) := by
  unfold execGjoin
  refine nextWf_issueWith h (fun _ => ?_)
  extract_lets
  split
  · exact trivial
  · split
    · exact h
    · extract_lets r u
      have hu : u.storesWf := by
        unfold u
        split
        · exact storesWf_steer (storesWf_joinGroup h)
        · exact h
      clear_value u
      exact storesWf_writeReg hu

theorem nextWf_execGleave {sd sa imm : Nat} {s : State} (h : s.storesWf) : NextWf (execGleave sd sa imm s) := by
  unfold execGleave
  refine nextWf_issueWith h (fun _ => ?_)
  extract_lets
  split
  · exact trivial
  · split
    · exact storesWf_writeReg (storesWf_steer (storesWf_leaveGroup h))
    · exact storesWf_writeReg h

theorem State.storesWf_parkOn {s : State} {sl : Slot} {w : Wait} (h : s.storesWf) : (s.parkOn sl w).storesWf :=
  storesWf_saveSlot (storesWf_modTask h)

theorem nextWf_execGbar {sd sa imm : Nat} {s : State} (h : s.storesWf) : NextWf (execGbar sd sa imm s) := by
  unfold execGbar
  refine nextWf_issueWith h (fun _ => ?_)
  extract_lets
  split
  · exact trivial
  · split
    · exact trivial
    · split
      · exact h
      · split
        · exact storesWf_steer (storesWf_releaseGroup (storesWf_setGroup (storesWf_writeReg h)))
        · exact storesWf_parkOn (storesWf_stepOver (storesWf_setGroup (storesWf_writeReg h)))

theorem nextWf_execGmem {sd sa imm : Nat} {s : State} (h : s.storesWf) : NextWf (execGmem sd sa imm s) := by
  unfold execGmem
  refine nextWf_issueWith h (fun _ => ?_)
  extract_lets
  split
  · exact trivial
  · exact storesWf_writeReg h

theorem ReadNow.storesWf_rmwNow {s : State} {sl : Slot} {t : Target} {scope off : Nat} {cap : Cap} {f : Nat → Nat} (h : s.storesWf) :
    (s.rmwNow sl t scope off cap f).storesWf := by
  unfold State.rmwNow
  extract_lets
  split
  · exact h
  · exact storesWf_loseLease h
  · split
    · exact storesWf_dropPoisoned (storesWf_keepNotes (storesWf_sendLines h))
    · exact storesWf_storeAt _ _ _ _ (storesWf_afterRead _ _ _ _ (storesWf_keepNotes (storesWf_sendLines h)))

theorem State.storesWf_of_timelineValue {s u : State} {t : Task} {off scope v : Nat} {cap : Cap} (h : s.storesWf)
    (e : s.timelineValue t off scope cap = some (u, v)) : u.storesWf := by
  unfold State.timelineValue at e
  split at e
  · cases e
  · extract_lets at e
    split at e
    · cases e
    · cases e
      exact storesWf_afterRead _ _ _ _ (storesWf_keepNotes (storesWf_sendLines h))

theorem State.storesWf_retest {s : State} {p id : Nat} (h : s.storesWf) : (s.retest p id).storesWf := by
  unfold State.retest
  split
  · exact h
  · split
    · split
      · exact h
      · next e =>
        split
        · exact h
        · exact storesWf_makeReady (storesWf_modTask (storesWf_of_timelineValue h e))
    · exact h

theorem State.storesWf_retestAll {s : State} (h : s.storesWf) : s.retestAll.storesWf :=
  storesWf_foldl (fun _ _ h => storesWf_foldl (fun _ _ h => storesWf_retest h) h) h

theorem nextWf_issueTimeline {i : Instr} {s : State} {sd c sa scope : Nat} {f : Ctx → Nat → Nat} (h : s.storesWf) :
    NextWf (issueTimeline i s sd c sa scope f) := by
  unfold issueTimeline
  refine nextWf_issueWith h (fun _ => ?_)
  extract_lets
  split
  · exact h
  · split
    · exact trivial
    · split
      · next e2 => exact (ReadNow.storesWf_rmwNow h).of_eq e2
      · next e2 => exact (ReadNow.storesWf_rmwNow h).of_eq e2
      · next e2 => exact storesWf_retestAll (storesWf_writeReg ((ReadNow.storesWf_rmwNow h).of_eq e2))

theorem nextWf_execTlinc {sd c sa sb scope : Nat} {s : State} (h : s.storesWf) : NextWf (execTlinc sd c sa sb scope s) :=
  nextWf_issueTimeline h

theorem nextWf_execTlset {sd c sa sb scope : Nat} {s : State} (h : s.storesWf) : NextWf (execTlset sd c sa sb scope s) :=
  nextWf_issueTimeline h

theorem nextWf_execTlwait {sd c sa sb scope : Nat} {s : State} (h : s.storesWf) : NextWf (execTlwait sd c sa sb scope s) := by
  unfold execTlwait
  refine nextWf_issueWith h (fun _ => ?_)
  extract_lets
  split
  · exact trivial
  · split
    · exact h
    · split
      · exact trivial
      · split
        · next e3 => exact (ReadNow.storesWf_readNow h).of_eq e3
        · next e3 => exact (ReadNow.storesWf_readNow h).of_eq e3
        · next e3 =>
            split
            · exact storesWf_writeReg ((ReadNow.storesWf_readNow h).of_eq e3)
            · exact storesWf_parkOn ((ReadNow.storesWf_readNow h).of_eq e3)

theorem nextWf_execTlget {sd c sa scope : Nat} {s : State} (h : s.storesWf) : NextWf (execTlget sd c sa scope s) :=
  nextWf_issueWith h (fun _ => Body.storesWf_objectAcc h)

theorem nextWf_execTlwaitRetest {part task : Nat} {s : State} (h : s.storesWf) : NextWf (execTlwaitRetest part task s) := by
  unfold execTlwaitRetest
  split
  · exact trivial
  · exact storesWf_retest h

theorem nextWf_execResq {sd sa sb region : Nat} {s : State} (h : s.storesWf) : NextWf (execResq sd sa sb region s) := by
  unfold execResq
  refine nextWf_issueWith h (fun _ => ?_)
  split
  · exact trivial
  · exact storesWf_writeReg h

theorem nextWf_execReshint {sa sb region : Nat} {clear : Bool} {mask : Nat} {s : State} (h : s.storesWf) :
    NextWf (execReshint sa sb region clear mask s) := by
  unfold execReshint
  refine nextWf_issueWith h (fun _ => ?_)
  split
  · exact trivial
  · split
    · exact storesWf_residClear h
    · exact storesWf_residSet h

theorem nextWf_execDispatchDecision {part : Nat} {s : State} (h : s.storesWf) : NextWf (execDispatchDecision part s) := by
  unfold execDispatchDecision
  split
  · exact trivial
  · split
    · exact storesWf_settle (storesWf_decision h)
    · exact h

theorem nextWf_execPreemptionRequest {core slot : Nat} {s : State} (h : s.storesWf) : NextWf (execPreemptionRequest core slot s) := by
  unfold execPreemptionRequest
  split
  · exact trivial
  · exact storesWf_preempt h

theorem nextWf_execDrainLimitExpiry {core slot : Nat} {s : State} (h : s.storesWf) : NextWf (execDrainLimitExpiry core slot s) := by
  unfold execDrainLimitExpiry
  refine nextWf_slotEvent h (fun _ => ?_)
  split
  · split
    · exact storesWf_settleDrain (storesWf_setCore_same rfl h)
    · exact trivial
  · exact trivial

theorem nextWf_execSliceExpiry {core slot : Nat} {s : State} (h : s.storesWf) : NextWf (execSliceExpiry core slot s) := by
  unfold execSliceExpiry
  refine nextWf_slotEvent h (fun _ => ?_)
  extract_lets
  split
  · split
    · exact storesWf_preempt h
    · exact storesWf_setSlot h
  · exact trivial

theorem nextWf_execHandlerRecordEntry {s : State} (h : s.storesWf) : NextWf (execHandlerRecordEntry s) := storesWf_enterHandler h

theorem nextWf_execFrameSlotFreed {core slot : Nat} {s : State} (h : s.storesWf) : NextWf (execFrameSlotFreed core slot s) :=
  nextWf_slotEvent h (fun _ => optWf_map (fun _ => storesWf_saveSlot h))

theorem BytesNow.storesWf_readEach {s : State} {sl : Slot} {scope : Nat} {xs : List Piece} {bs : List Byte} (h : s.storesWf) :
    (s.readEach sl scope xs bs).storesWf := by
  induction xs generalizing s bs with
  | nil => exact h
  | cons x xs ih =>
    unfold State.readEach
    split
    · next e => exact ih ((BytesNow.storesWf_readBytesNow h).of_eq e)
    · exact BytesNow.storesWf_readBytesNow h

theorem State.storesWf_writeEach {s : State} {sl : Slot} {cap : Cap} {scope : Nat} {xs : List Piece} {bs : List Byte} (h : s.storesWf) :
    (s.writeEach sl cap scope xs bs).storesWf := by
  induction xs generalizing s bs with
  | nil => exact h
  | cons x xs ih => exact ih (storesWf_storeAt _ _ _ _ (storesWf_keepNotes (storesWf_sendLines h)))

theorem BytesNow.storesWf_loadObj {s : State} {sl : Slot} {cap : Cap} {off n al scope : Nat} (h : s.storesWf) :
    (s.loadObj sl cap off n al scope).storesWf := by
  unfold State.loadObj
  split
  · exact h
  · split
    · exact h
    · exact BytesNow.storesWf_readEach h

theorem BytesNow.storesWf_storeObj {s : State} {sl : Slot} {cap : Cap} {off al scope : Nat} {bs : List Byte} (h : s.storesWf) :
    (s.storeObj sl cap off al scope bs).storesWf := by
  unfold State.storeObj
  split
  · exact h
  · split
    · exact h
    · exact storesWf_loseLease h
    · exact storesWf_writeEach h

theorem okWf_putFrame {s : State} {p i : Nat} {b : List Byte} (h : s.storesWf) : OkWf (s.putFrame p i b) := by
  unfold State.putFrame
  split
  · exact trivial
  · next e => exact (okWf_gwrite h).get e

theorem State.storesWf_of_savedFrame {s u : State} {t : Task} {i : Nat} {b : List Byte} (h : s.storesWf)
    (e : s.savedFrame t i = .ok (b, u)) : u.storesWf := by
  unfold State.savedFrame at e
  split at e
  · cases e
  · cases e
    exact storesWf_keepNotes h

theorem okWf_patchFrame {s : State} {t : Task} {i : Nat} {f : List Byte → List Byte} (h : s.storesWf) : OkWf (s.patchFrame t i f) := by
  unfold State.patchFrame
  split
  · exact trivial
  · next e => exact okWf_putFrame (storesWf_of_savedFrame h e)

theorem nextWf_execTrap {sa imm : Nat} {hv : Bool} {s : State} (h : s.storesWf) : NextWf (execTrap sa imm hv s) :=
  nextWf_issueWith h (fun _ => storesWf_raiseFault (storesWf_stepOver h))

theorem State.storesWf_killTask {s : State} {t : Task} (h : s.storesWf) : (s.killTask t).storesWf := by
  unfold State.killTask
  split
  · exact storesWf_endTask (storesWf_freeSlot h)
  · exact storesWf_endTask h

theorem State.storesWf_reflect {s : State} {t : Task} (h : s.storesWf) : (s.reflect t).storesWf := by
  unfold State.reflect
  extract_lets
  split
  · exact storesWf_pendHandler (storesWf_setTask h)
  · exact storesWf_logError (storesWf_setTask h)

theorem State.storesWf_answer {s : State} {t : Task} {form : EretForm} (h : s.storesWf) : (s.answer t form).storesWf := by
  unfold State.answer
  split
  · exact storesWf_resumeTask h
  · exact storesWf_killTask h
  · exact storesWf_reflect h

theorem nextWf_execEret {sa : Nat} {form : EretForm} {s : State} (h : s.storesWf) : NextWf (execEret sa form s) := by
  unfold execEret
  refine nextWf_issueWith h (fun _ => ?_)
  extract_lets
  split
  · exact trivial
  · split
    · exact trivial
    · split
      · exact h
      · exact storesWf_settle (storesWf_modSlot (storesWf_issued (storesWf_answer h)))

theorem nextWf_execMfsp {sd sa item : Nat} {s : State} (h : s.storesWf) : NextWf (execMfsp sd sa item s) := by
  unfold execMfsp
  refine nextWf_issueWith h (fun _ => ?_)
  extract_lets
  split
  · exact trivial
  · split
    · exact h
    · split
      · exact storesWf_writeReg (storesWf_takeFree_snd h)
      · split
        · exact trivial
        · next e => exact storesWf_writeReg (storesWf_of_savedFrame h e)

theorem nextWf_execMtsp {sa sb item : Nat} {s : State} (h : s.storesWf) : NextWf (execMtsp sa sb item s) := by
  unfold execMtsp
  refine nextWf_issueWith h (fun _ => ?_)
  extract_lets
  split
  · exact trivial
  · split
    · exact trivial
    · split
      · exact h
      · split
        · exact h
        · split
          · next e4 => exact (okWf_patchFrame h).get e4
          · exact trivial

theorem nextWf_execFltinfo {sd sa : Nat} {item : FltItem} {s : State} (h : s.storesWf) : NextWf (execFltinfo sd sa item s) := by
  unfold execFltinfo
  refine nextWf_issueWith h (fun _ => ?_)
  split
  · exact trivial
  · exact storesWf_writeReg h

theorem nextWf_execCtxsv {sd sa sb c : Nat} {move : Bool} {scope : Nat} {s : State} (h : s.storesWf) :
    NextWf (execCtxsv sd sa sb c move scope s) := by
  unfold execCtxsv
  refine nextWf_issueWith h (fun _ => ?_)
  split
  · exact trivial
  · split
    · exact trivial
    · split
      · exact h
      · split
        · exact trivial
        · split
          · exact trivial
          · next e =>
            have hu := storesWf_of_savedFrame h e
            extract_lets out
            split
            · next e => exact (BytesNow.storesWf_storeObj hu).of_eq e
            · next e => exact (BytesNow.storesWf_storeObj hu).of_eq e
            · next e =>
              have hv := (BytesNow.storesWf_storeObj hu).of_eq e
              extract_lets w
              have hw : w.storesWf := by
                unfold w
                split
                · exact storesWf_removeTask hv
                · exact hv
              exact storesWf_writeReg hw

theorem State.storesWf_of_enterImport {s u : State} {me : Task} {core : Nat} {b w : List Byte} {v : Word} (h : s.storesWf)
    (e : s.enterImport me core b w = .ok (v, u)) : u.storesWf := by
  unfold State.enterImport at e
  split at e
  · cases e; exact h
  · split at e
    · cases e; exact h
    · extract_lets at e
      split at e
      · cases e
      · next e' => cases e; exact storesWf_enterTask (storesWf_takeFree_snd ((okWf_putFrame h).get e'))

theorem nextWf_execCtxld {sd sb c scope : Nat} {s : State} (h : s.storesWf) : NextWf (execCtxld sd sb c scope s) := by
  unfold execCtxld
  refine nextWf_issueWith h (fun _ => ?_)
  extract_lets
  split
  · exact h
  · split
    · next e => exact (BytesNow.storesWf_loadObj h).of_eq e
    · next e => exact (BytesNow.storesWf_loadObj h).of_eq e
    · next e =>
      have ht := (BytesNow.storesWf_loadObj h).of_eq e
      split
      · exact trivial
      · exact ht
      · split
        · next e => exact (BytesNow.storesWf_loadObj ht).of_eq e
        · next e => exact (BytesNow.storesWf_loadObj ht).of_eq e
        · next e =>
          have hu := (BytesNow.storesWf_loadObj ht).of_eq e
          extract_lets
          split
          · exact trivial
          · split
            · exact trivial
            · next e => exact storesWf_writeReg (storesWf_of_enterImport hu e)

theorem State.storesWf_mapCaches {s : State} {f : Region → Region} (h : s.storesWf) : (s.mapCaches f).storesWf :=
  ⟨h.mem, h.cist, h.spad, h.lines⟩

theorem State.storesWf_noteEffect {s : State} {c k : Nat} {leaf : Option Nat} (h : s.storesWf) : (s.noteEffect c k leaf).storesWf :=
  storesWf_modSlot h

theorem nextWf_execTlbiv {sd sa sb : Nat} {form : TlbForm} {s : State} (h : s.storesWf) : NextWf (execTlbiv sd sa sb form s) := by
  unfold execTlbiv
  refine nextWf_issueWith h (fun _ => ?_)
  extract_lets a b t
  have ht : t.storesWf := by
    unfold t
    split
    · exact storesWf_mapCaches h
    · exact h
  split
  · exact trivial
  · split
    · exact h
    · exact storesWf_writeReg (storesWf_noteEffect ht)

theorem State.storesWf_shoot {s : State} {c k p g : Nat} {leaf : Option Nat} (h : s.storesWf) : (s.shoot c k p g leaf).storesWf :=
  storesWf_noteEffect (storesWf_mapCaches h)

theorem State.storesWf_clearLeaf {s : State} {p at_ v : Nat} (h : s.storesWf) : (s.clearLeaf p at_ v).storesWf := by
  unfold State.clearLeaf
  extract_lets
  split
  · exact storesWf_setPart_same rfl (storesWf_writeSys _ _ h)
  · exact storesWf_writeSys _ _ h

theorem nextWf_execUnmap {sd sa : Nat} {shoot : Bool} {s : State} (h : s.storesWf) : NextWf (execUnmap sd sa shoot s) := by
  unfold execUnmap
  refine nextWf_issueWith h (fun _ => ?_)
  extract_lets
  split
  · exact trivial
  · split
    · exact trivial
    · split
      · exact trivial
      · split
        · exact h
        · split
          · exact storesWf_writeReg (storesWf_shoot h)
          · split
            · exact storesWf_writeReg h
            · exact trivial
            · split
              · exact trivial
              · exact storesWf_writeReg (storesWf_shoot (storesWf_clearLeaf (storesWf_sendLines h)))

theorem nextWf_execMapsync {s : State} (h : s.storesWf) : NextWf (execMapsync s) := by
  unfold execMapsync
  refine nextWf_issueWith h (fun _ => ?_)
  split
  · exact storesWf_setSlot h
  · exact h

theorem nextWf_raiseAt {s : State} {f : Slot → Option State} (h : s.storesWf) (hf : ∀ a, OptWf (f a)) : NextWf (raiseAt s f) := by
  unfold raiseAt
  extract_lets
  split
  · exact trivial
  · split
    · exact storesWf_modSlot h
    · split
      · exact storesWf_raiseFault (storesWf_setSlot h)
      · exact storesWf_getD (hf _) h

theorem nextWf_execFetchCheckFault {s : State} (h : s.storesWf) : NextWf (execFetchCheckFault s) := by
  unfold execFetchCheckFault
  refine nextWf_raiseAt h (fun _ => ?_)
  split
  · refine storesWf_faultOrHold ?_
    split
    · exact storesWf_fetchLost h
    · exact h
  · exact trivial

theorem nextWf_raiseWord {word : Nat} {s : State} (h : s.storesWf) : NextWf (raiseWord word s) :=
  nextWf_raiseAt h (fun _ => storesWf_raiseFault h)

theorem nextWf_execIllegalInstruction {word : Nat} {s : State} (h : s.storesWf) : NextWf (execIllegalInstruction word s) := by
  unfold execIllegalInstruction
  split
  · exact nextWf_raiseAt h (fun _ => trivial)
  · exact nextWf_issueWith h (fun _ => trivial)
  · exact nextWf_raiseWord h

theorem nextWf_execTranslationLeaseExpiry {region : Nat} {s : State} (h : s.storesWf) :
    NextWf (execTranslationLeaseExpiry region s) := by
  unfold execTranslationLeaseExpiry
  split
  · exact trivial
  · exact storesWf_setRegion _ _ h

theorem nextWf_execCisternRefreshWindow {s : State} (h : s.storesWf) : NextWf (execCisternRefreshWindow s) := h

/-! ### Regions, frames, tokens and messages -/

theorem State.storesWf_modRegion {s : State} {r : Nat} {f : Region → Region} (h : s.storesWf) : (s.modRegion r f).storesWf :=
  storesWf_setRegion _ _ h

theorem State.storesWf_startClock {s : State} {r : Nat} (h : s.storesWf) : (s.startClock r).storesWf := storesWf_modRegion h

theorem State.storesWf_stopClock {s : State} {r : Nat} (h : s.storesWf) : (s.stopClock r).storesWf := storesWf_setClock h

theorem State.storesWf_clearSlices {s : State} {l : List Nat} (h : s.storesWf) : (s.clearSlices l).storesWf :=
  storesWf_foldl (fun _ _ h => storesWf_dropL2 _ _ h) h

theorem State.storesWf_joinWindow {s : State} {l : List Nat} (h : s.storesWf) : (s.joinWindow l).storesWf :=
  storesWf_foldl (fun _ _ h => storesWf_modRegion h) (storesWf_clearSlices h)

theorem State.storesWf_leaveWindow {s : State} {r : Nat} (h : s.storesWf) : (s.leaveWindow r).storesWf :=
  storesWf_modRegion (storesWf_joinWindow (storesWf_clearSlices h))

theorem State.storesWf_dropCopies {s : State} {p : Nat} (h : s.storesWf) : (s.dropCopies p).storesWf :=
  storesWf_foldl (fun _ _ h => storesWf_residClear h) 
    (storesWf_dropRes _ _ (storesWf_setPart_same rfl ⟨h.mem, h.cist, h.spad, h.lines⟩))

theorem State.storesWf_rehome {s : State} {p : Nat} {l : List Nat} (h : s.storesWf) : (s.rehome p l).storesWf := by
  unfold State.rehome
  split
  · exact storesWf_clearSlices (storesWf_dropCopies h)
  · exact h

theorem State.storesWf_furtherFault {s : State} {t : Task} {r : Nat} {f : FaultRec} (h : s.storesWf) :
    (s.furtherFault t r f).storesWf := by
  unfold State.furtherFault
  extract_lets
  split
  · exact storesWf_pendHandler h
  · exact storesWf_logError h

theorem State.storesWf_loseWindow {s : State} {t : Task} (h : s.storesWf) : (s.loseWindow t).storesWf :=
  storesWf_setTask (storesWf_dropWindow h)

theorem State.storesWf_strand {s : State} {r : Nat} {scrub : Bool} {t : Task} (h : s.storesWf) : (s.strand r scrub t).storesWf := by
  unfold State.strand
  split
  · extract_lets u v
    have hu : u.storesWf := by
      unfold u
      split
      · exact storesWf_loseWindow h
      · exact h
    clear_value u
    have hv : v.storesWf := storesWf_modTask hu
    clear_value v
    split
    · next e1 =>
        extract_lets
        split
        · exact storesWf_raiseParked (storesWf_of_snd (storesWf_takeFree_snd hv) e1)
        · exact storesWf_raiseParked (storesWf_of_snd (storesWf_takeFree_snd hv) e1)
        · exact storesWf_furtherFault (storesWf_of_snd (storesWf_takeFree_snd hv) e1)
        · exact storesWf_furtherFault (storesWf_of_snd (storesWf_takeFree_snd hv) e1)
        · exact storesWf_of_snd (storesWf_takeFree_snd hv) e1
  · exact h

theorem State.storesWf_strandAll {s : State} {r : Nat} {scrub : Bool} (h : s.storesWf) : (s.strandAll r scrub).storesWf := by
  unfold State.strandAll
  extract_lets
  split
  · refine storesWf_steer (storesWf_foldl (fun _ _ h => ?_) h)
    split
    · exact h
    · exact storesWf_strand h
  · exact h

theorem State.storesWf_loseTask {s : State} {c k : Nat} (h : s.storesWf) : (s.loseTask c k).storesWf := by
  unfold State.loseTask
  split
  · exact h
  · extract_lets u v
    have hu : u.storesWf := storesWf_freeSlot (storesWf_foldl (fun _ _ h => storesWf_strayWrite h) h)
    clear_value u
    have hv : v.storesWf := by
      unfold v
      split
      · exact storesWf_setTask (storesWf_dropWindow hu)
      · exact hu
    clear_value v
    split
    · next e1 =>
        extract_lets
        split
        · split
          · exact storesWf_furtherFault (storesWf_of_snd (storesWf_takeFree_snd hv) e1)
          · exact storesWf_raiseParked (storesWf_of_snd (storesWf_takeFree_snd hv) e1)
        · exact storesWf_of_snd (storesWf_takeFree_snd hv) e1

theorem State.storesWf_failSlice {s : State} {r c k : Nat} {sl : Slot} (h : s.storesWf) : (s.failSlice r c k sl).storesWf :=
  storesWf_foldl (fun _ _ h => storesWf_deferAcc h) h

theorem State.storesWf_failPeers {s : State} {r : Nat} {peers : List Nat} (h : s.storesWf) : (s.failPeers r peers).storesWf := by
  unfold State.failPeers
  refine storesWf_foldl (fun _ _ h => ?_) h
  split
  · exact storesWf_failSlice h
  · exact h

theorem State.storesWf_modSignQ {s : State} {f : List Nat → List Nat} (h : s.storesWf) : (s.modSignQ f).storesWf := by
  unfold State.modSignQ
  exact storesWf_modGrotto h

theorem State.storesWf_lastRegion {s : State} {p : Nat} (h : s.storesWf) : (s.lastRegion p).storesWf := by
  unfold State.lastRegion
  split
  · exact storesWf_setPart_same rfl (storesWf_endBindings (storesWf_withdraw h))
  · exact h

theorem State.storesWf_assertReset {s : State} {r : Nat} (h : s.storesWf) : (s.assertReset r).storesWf := by
  unfold State.assertReset
  extract_lets g peers u v w y z again
  have hu : u.storesWf := storesWf_foldl (fun _ _ h => storesWf_loseTask h) (storesWf_failPeers h)
  clear_value u
  have hv : v.storesWf := storesWf_strandAll hu
  clear_value v
  have hw : w.storesWf := storesWf_setCore_same rfl hv
  clear_value w
  have hy : y.storesWf := by
    unfold y
    split
    · exact storesWf_rehome hw
    · exact hw
  clear_value y
  have hz : z.storesWf := storesWf_modSignQ (storesWf_leaveWindow hy)
  clear_value z
  exact storesWf_lastRegion (storesWf_steer (storesWf_modRegion hz))

theorem State.storesWf_resetEvent {s : State} {r : Nat} (h : s.storesWf) : (s.resetEvent r).storesWf := by
  unfold State.resetEvent
  split
  · exact storesWf_modRegion h
  · exact storesWf_assertReset h

theorem State.storesWf_newScrub {s : State} {r : Nat} (h : s.storesWf) : (s.newScrub r).storesWf := storesWf_modRegion h

theorem State.storesWf_scrubIdle {s : State} {r : Nat} (h : s.storesWf) : (s.scrubIdle r).storesWf :=
  storesWf_modRegion (storesWf_startClock (storesWf_newScrub h))

theorem State.storesWf_scrubEvent_fst {s : State} {r : Nat} (h : s.storesWf) : (s.scrubEvent r).1.storesWf := by
  unfold State.scrubEvent
  split
  · exact storesWf_scrubIdle h
  · exact storesWf_scrubIdle h
  · dsimp only
    exact storesWf_foldl (fun _ _ h => storesWf_preempt h) (storesWf_steer (storesWf_modRegion (storesWf_newScrub h)))
  · dsimp only
    exact storesWf_modRegion (storesWf_newScrub h)
  · split
    · exact h
    · dsimp only
      exact storesWf_modRegion h
  · exact h

theorem State.storesWf_releasePart {s : State} {p : Nat} (h : s.storesWf) : (s.releasePart p).storesWf := by
  unfold State.releasePart
  refine storesWf_steer (storesWf_modGrotto (storesWf_giveLease (storesWf_endBindings (storesWf_withdraw
    (storesWf_setPart_same rfl (storesWf_foldl (fun _ _ h => storesWf_freeMailbox (storesWf_dropWindow h))
      (storesWf_foldl (fun _ _ h => ?_) h)))))))
  split
  · exact storesWf_freeSlot h
  · exact h

theorem State.storesWf_scrubAll_fst {s : State} {l : List Nat} (h : s.storesWf) : (s.scrubAll l).1.storesWf :=
  storesWf_foldl (fun _ _ h => storesWf_modRegion h)
    (foldl_keeps (P := fun a : State × List Nat => a.1.storesWf) (fun _ _ h => storesWf_scrubEvent_fst h) l
      (storesWf_foldl (fun _ _ h => storesWf_modRegion h) (storesWf_foldl (fun _ _ h => storesWf_releasePart h) h)))

theorem State.storesWf_leavePartition {s : State} {r : Nat} (h : s.storesWf) : (s.leavePartition r).storesWf :=
  storesWf_lastRegion (storesWf_steer (storesWf_modRegion (storesWf_setClock
    (storesWf_leaveWindow (storesWf_rehome (storesWf_strandAll h))))))

theorem State.storesWf_scrubUnit {s : State} {r : Nat} (h : s.storesWf) : (s.scrubUnit r).storesWf := by
  unfold State.scrubUnit
  extract_lets
  split
  · exact storesWf_modRegion (storesWf_clearUnit _ _ _ h)
  · exact h

theorem State.storesWf_phaseDone {s : State} {r : Nat} (h : s.storesWf) : (s.phaseDone r).storesWf := by
  unfold State.phaseDone
  extract_lets
  split
  · exact storesWf_modRegion h
  · exact storesWf_modSignQ (storesWf_modRegion h)

theorem optWf_signNext {s : State} (h : s.storesWf) : OptWf s.signNext := by
  unfold State.signNext
  split
  · exact trivial
  · split
    · exact trivial
    · exact storesWf_modGrotto (storesWf_modSignQ (storesWf_modRegion (storesWf_stopClock h)))

theorem State.storesWf_checkToken_snd {s : State} {r seq : Nat} (h : s.storesWf) : (s.checkToken r seq).2.storesWf := by
  unfold State.checkToken
  split
  · split
    · exact storesWf_steer (storesWf_modRegion h)
    · exact h
  · exact h
  · exact h

theorem State.storesWf_assign {s : State} {r p : Nat} (h : s.storesWf) : (s.assign r p).storesWf := by
  unfold State.assign
  extract_lets u held
  have hu : u.storesWf := by
    unfold u
    split
    · exact storesWf_setPart_same rfl h
    · exact h
  clear_value u
  exact storesWf_modRegion (storesWf_startClock (storesWf_rehome hu))

theorem nextWf_execRgnasn {sd sa sb : Nat} {s : State} (h : s.storesWf) : NextWf (execRgnasn sd sa sb s) := by
  unfold execRgnasn
  refine nextWf_issueWith h (fun _ => ?_)
  extract_lets
  split
  · exact trivial
  · split
    · exact storesWf_writeReg h
    · split
      · exact storesWf_writeReg (storesWf_assign h)
      · exact storesWf_writeReg h
      · exact storesWf_writeReg h
      · exact storesWf_writeReg h

theorem nextWf_execRgnwin {sd sa : Nat} {s : State} (h : s.storesWf) : NextWf (execRgnwin sd sa s) := by
  unfold execRgnwin
  refine nextWf_issueWith h (fun _ => ?_)
  extract_lets
  split
  · exact trivial
  · split
    · exact trivial
    · split
      · exact trivial
      · split
        · exact trivial
        · split
          · exact storesWf_writeReg h
          · exact storesWf_writeReg (storesWf_joinWindow h)

theorem nextWf_execRgnrst {sd sa : Nat} {s : State} (h : s.storesWf) : NextWf (execRgnrst sd sa s) := by
  unfold execRgnrst
  refine nextWf_issueWith h (fun _ => ?_)
  extract_lets
  split
  · exact trivial
  · split
    · exact storesWf_writeReg h
    · exact storesWf_writeReg (storesWf_resetEvent h)

theorem nextWf_execScrub {sd sa : Nat} {frame : Bool} {s : State} (h : s.storesWf) : NextWf (execScrub sd sa frame s) := by
  unfold execScrub
  refine nextWf_issueWith h (fun _ => ?_)
  extract_lets
  split
  · split
    · exact trivial
    · split
      · exact storesWf_writeReg h
      · exact storesWf_writeReg (storesWf_modGrotto h)
  · split
    · exact trivial
    · split
      · next e2 => exact storesWf_writeReg (storesWf_of_fst (storesWf_scrubAll_fst h) e2)

theorem nextWf_execScrst {sd sa : Nat} {alloc : Bool} {s : State} (h : s.storesWf) : NextWf (execScrst sd sa alloc s) := by
  unfold execScrst
  refine nextWf_issueWith h (fun _ => ?_)
  extract_lets
  split
  · split
    · exact h
    · exact storesWf_writeReg (storesWf_modGrotto h)
  · split
    · exact trivial
    · exact storesWf_writeReg h

theorem nextWf_execTokchk {sd sa sb c : Nat} {get : Bool} {s : State} (h : s.storesWf) : NextWf (execTokchk sd sa sb c get s) := by
  unfold execTokchk
  refine nextWf_issueWith h (fun _ => ?_)
  extract_lets
  split
  · exact trivial
  · split
    · split
      · exact trivial
      · split
        · exact storesWf_writeReg h
        · split
          · exact h
          · split
            · next e => exact (BytesNow.storesWf_storeObj h).of_eq e
            · next e => exact (BytesNow.storesWf_storeObj h).of_eq e
            · next e => exact storesWf_writeReg ((BytesNow.storesWf_storeObj h).of_eq e)
    · exact storesWf_writeReg (storesWf_checkToken_snd h)

theorem State.storesWf_landSent {s : State} {c k m : Nat} {sl : Slot} (h : s.storesWf) : (s.landSent c k m sl).storesWf := by
  unfold State.landSent
  refine storesWf_foldl (fun _ _ h => ?_) h
  split
  · exact storesWf_performP0 h
  · exact h

theorem State.storesWf_dropUnsent {s : State} {c k m : Nat} (h : s.storesWf) : (s.dropUnsent c k m).storesWf := by
  unfold State.dropUnsent
  exact storesWf_settle (storesWf_modSlot h)

theorem State.storesWf_landAll {s : State} {p m : Nat} (h : s.storesWf) : (s.landAll p m).storesWf := by
  unfold State.landAll
  refine storesWf_foldl (fun _ _ h => ?_) h
  split
  · exact storesWf_landSent h
  · exact h

theorem State.storesWf_zeroise {s : State} {p m : Nat} (h : s.storesWf) : (s.zeroise p m).storesWf := by
  unfold State.zeroise
  refine storesWf_setPart_same rfl (storesWf_foldl (fun _ _ h => ?_) h)
  split
  · exact storesWf_dropUnsent h
  · exact h

theorem nextWf_execKeyz {sd sa : Nat} {s : State} (h : s.storesWf) : NextWf (execKeyz sd sa s) := by
  unfold execKeyz
  refine nextWf_issueWith h (fun _ => ?_)
  extract_lets
  split
  · exact trivial
  · split
    · exact trivial
    · split
      · exact storesWf_landAll h
      · exact storesWf_writeReg (storesWf_zeroise (storesWf_landAll h))

theorem nextWf_execMsgf {sd sa c imm : Nat} {s : State} (h : s.storesWf) : NextWf (execMsgf sd sa c imm s) := by
  unfold execMsgf
  refine nextWf_issueWith h (fun _ => ?_)
  split
  · exact h
  · split
    · next e1 => exact (BytesNow.storesWf_loadObj h).of_eq e1
    · next e1 => exact (BytesNow.storesWf_loadObj h).of_eq e1
    · next e1 =>
        split
        · exact trivial
        · exact storesWf_writeReg (storesWf_modGrotto ((BytesNow.storesWf_loadObj h).of_eq e1))

theorem Delivery.storesWf_stop {s : State} {f : FaultRec} (h : s.storesWf) : (Delivery.stop s f).storesWf := by
  unfold Delivery.stop
  split
  · exact trivial
  · exact h

theorem Delivery.storesWf_deliverMsg {s : State} {e : MsgEntry} {imm i : Nat} {msg : List Byte} (h : s.storesWf) :
    (s.deliverMsg e imm i msg).storesWf := by
  unfold State.deliverMsg
  extract_lets
  split
  · exact Delivery.storesWf_stop h
  · extract_lets
    split
    · exact Delivery.storesWf_stop h
    · extract_lets
      split
      · exact Delivery.storesWf_stop h
      · split
        · exact storesWf_loseLease h
        · split
          · exact trivial
          · exact storesWf_enterTask (storesWf_modGrotto (storesWf_takeFree_snd
              (storesWf_storeAt _ _ _ _ (storesWf_keepNotes (storesWf_sendLines h)))))

theorem Delivery.storesWf_sendMsg {s : State} {from_ imm : Nat} {msg : List Byte} (h : s.storesWf) :
    (s.sendMsg from_ imm msg).storesWf := by
  unfold State.sendMsg
  extract_lets
  split
  · exact h
  · split
    · exact h
    · split
      · exact h
      · exact Delivery.storesWf_deliverMsg h

theorem nextWf_execXenq {sd sa c imm : Nat} {s : State} (h : s.storesWf) : NextWf (execXenq sd sa c imm s) := by
  unfold execXenq
  refine nextWf_issueWith h (fun _ => ?_)
  split
  · exact h
  · split
    · next e1 => exact (BytesNow.storesWf_loadObj h).of_eq e1
    · next e1 => exact (BytesNow.storesWf_loadObj h).of_eq e1
    · next e1 =>
        split
        · exact (BytesNow.storesWf_loadObj h).of_eq e1
        · exact trivial
        · next e2 => exact storesWf_writeReg ((Delivery.storesWf_sendMsg ((BytesNow.storesWf_loadObj h).of_eq e1)).of_eq e2)

theorem nextWf_execRegionResetRelease {region : Nat} {s : State} (h : s.storesWf) : NextWf (execRegionResetRelease region s) := by
  unfold execRegionResetRelease
  split
  · exact trivial
  · extract_lets
    split
    · split
      · exact storesWf_scrubEvent_fst (storesWf_steer (storesWf_startClock (storesWf_modRegion h)))
      · exact storesWf_steer (storesWf_startClock (storesWf_modRegion h))
    · exact h

theorem nextWf_execQuiesceComplete {region : Nat} {s : State} (h : s.storesWf) : NextWf (execQuiesceComplete region s) := by
  unfold execQuiesceComplete
  split
  · exact trivial
  · split
    · exact storesWf_leavePartition h
    · exact h

theorem nextWf_execScrubPhaseComplete {region : Nat} {s : State} (h : s.storesWf) : NextWf (execScrubPhaseComplete region s) := by
  unfold execScrubPhaseComplete
  split
  · exact trivial
  · split
    · exact storesWf_phaseDone h
    · exact h

theorem nextWf_execTokenSigned {s : State} (h : s.storesWf) : NextWf (execTokenSigned s) := storesWf_getD (optWf_signNext h) h

theorem State.storesWf_forgetFrame {s : State} {f : Nat} (h : s.storesWf) : (s.forgetFrame f).storesWf := by
  unfold State.forgetFrame
  extract_lets u v w y
  have hu : u.storesWf := storesWf_dropResAll _ h
  clear_value u
  have hv : v.storesWf := storesWf_foldl (fun _ _ h => storesWf_dropL2 _ _ h) hu
  clear_value v
  have hw : w.storesWf := ⟨hv.mem, hv.cist, hv.spad, hv.lines⟩
  clear_value w
  have hy : y.storesWf := by
    unfold y
    split
    · exact storesWf_zeroFrame _ hw
    · exact hw
  clear_value y
  exact storesWf_mapCaches hy

theorem nextWf_execFrameScrubStart {s : State} (h : s.storesWf) : NextWf (execFrameScrubStart s) := by
  unfold execFrameScrubStart
  split
  · exact h
  · split
    · exact storesWf_modGrotto (storesWf_forgetFrame h)
    · exact h

theorem nextWf_execScrubOnFreeAck {idx : Nat} {s : State} (h : s.storesWf) : NextWf (execScrubOnFreeAck idx s) := by
  unfold execScrubOnFreeAck
  split
  · exact h
  · split
    · exact storesWf_modGrotto (storesWf_zeroFrame _ h)
    · exact h

/-! ### Conduits, the pool and step leases -/

theorem State.storesWf_modConduit {s : State} {n : Nat} {f : Conduit → Conduit} (h : s.storesWf) : (s.modConduit n f).storesWf :=
  storesWf_modLinks h

theorem State.storesWf_logConduit {s : State} {n : Nat} (h : s.storesWf) : (s.logConduit n).storesWf := storesWf_logError h

theorem State.storesWf_failAcc {s : State} {c k p code : Nat} {a : P0Acc} (h : s.storesWf) : (s.failAcc c k p code a).storesWf :=
  storesWf_settle (storesWf_deferAcc (storesWf_giveUp h))

theorem State.storesWf_mapSaved {s : State} {f : Task → Task} (h : s.storesWf) : (s.mapSaved f).storesWf :=
  storesWf_mapParts (fun _ => rfl) h

theorem State.storesWf_modSaved {s : State} {p id seq : Nat} {f : P0Acc → P0Acc} (h : s.storesWf) :
    (s.modSaved p id seq f).storesWf := storesWf_modTask h

theorem State.storesWf_failSaved {s : State} {p : Nat} {t : Task} {code : Nat} {a : P0Acc} (h : s.storesWf) :
    (s.failSaved p t code a).storesWf := storesWf_modTask (storesWf_giveUp h)

theorem State.storesWf_routeAcquires {s : State} (h : s.storesWf) : s.routeAcquires.storesWf := storesWf_mapParts (fun _ => rfl) h

theorem State.storesWf_releaseHeld {s : State} (h : s.storesWf) : s.releaseHeld.storesWf := by
  unfold State.releaseHeld
  refine storesWf_poolRetry ?_
  split
  · exact storesWf_routeAcquires (storesWf_foldl (fun _ _ h => storesWf_settle (storesWf_retryHeld h)) h)
  · exact storesWf_foldl (fun _ _ h => storesWf_settle (storesWf_retryHeld h)) h

theorem State.storesWf_copySaved {s : State} {p : Nat} {t : Task} {a : P0Acc} (h : s.storesWf) : (s.copySaved p t a).storesWf := by
  unfold State.copySaved
  split
  · split
    · exact h
    · refine storesWf_modSaved ?_
      split
      · exact h
      · exact storesWf_sealMsg h
  · exact h

theorem State.storesWf_resend {s : State} {n : Nat} (h : s.storesWf) : (s.resend n).storesWf :=
  storesWf_routeAcquires (storesWf_mapParts (fun _ => rfl) (storesWf_foldl (fun _ _ h => storesWf_copySaved h)
    (storesWf_foldl (fun _ _ h => storesWf_sendP0 h) (storesWf_foldl (fun _ _ h => storesWf_modAcc h) (storesWf_mapSaved h)))))

theorem State.storesWf_conduitTo {s : State} {n : Nat} {f : Conduit → Conduit} (h : s.storesWf) : (s.conduitTo n f).storesWf :=
  storesWf_releaseHeld (storesWf_logConduit (storesWf_modConduit h))

theorem State.storesWf_linkLost {s : State} {n : Nat} (h : s.storesWf) : (s.linkLost n).storesWf := by
  unfold State.linkLost
  split
  · exact h
  · exact h
  · exact storesWf_releaseHeld (storesWf_resend (storesWf_logConduit (storesWf_modConduit h)))

theorem nextWf_conduitEvent {s : State} {n : Nat} {st : CState} {f : State} (h : s.storesWf) (h1 : f.storesWf) :
    NextWf (conduitEvent s n st f) := by
  unfold conduitEvent
  split
  · exact trivial
  · split
    · exact h1
    · exact h

theorem State.storesWf_returnRest {s : State} {n : Nat} (h : s.storesWf) : (s.returnRest n).storesWf :=
  storesWf_bump (storesWf_mapParts (fun _ => rfl) (storesWf_mapSaved h))

theorem nextWf_execDrainComplete {conduit : Nat} {s : State} (h : s.storesWf) : NextWf (execDrainComplete conduit s) := by
  unfold execDrainComplete
  refine nextWf_conduitEvent h ?_
  split
  · exact storesWf_conduitTo (storesWf_returnRest h)
  · exact h

theorem nextWf_execTrainingAttemptSuccess {conduit : Nat} {s : State} (h : s.storesWf) :
    NextWf (execTrainingAttemptSuccess conduit s) := nextWf_conduitEvent h (storesWf_conduitTo h)

theorem nextWf_execTrainingAttemptFail {conduit : Nat} {s : State} (h : s.storesWf) : NextWf (execTrainingAttemptFail conduit s) := by
  unfold execTrainingAttemptFail
  refine nextWf_conduitEvent h ?_
  split
  · exact storesWf_modConduit h
  · exact storesWf_conduitTo h

theorem nextWf_execRetuneComplete {conduit : Nat} {s : State} (h : s.storesWf) : NextWf (execRetuneComplete conduit s) :=
  nextWf_conduitEvent h (storesWf_conduitTo h)

theorem nextWf_execRetuneFail {conduit : Nat} {s : State} (h : s.storesWf) : NextWf (execRetuneFail conduit s) :=
  nextWf_conduitEvent h (storesWf_conduitTo h)

theorem nextWf_execLossOfSignal {conduit : Nat} {s : State} (h : s.storesWf) : NextWf (execLossOfSignal conduit s) := by
  unfold execLossOfSignal
  split
  · exact trivial
  · exact storesWf_linkLost h

theorem nextWf_execLinkRetryExhausted {conduit : Nat} {s : State} (h : s.storesWf) : NextWf (execLinkRetryExhausted conduit s) := by
  unfold execLinkRetryExhausted
  split
  · exact trivial
  · exact storesWf_linkLost h

theorem nextWf_accEvent {s : State} {c k idx : Nat} {f : Slot → P0Acc → State} (h : s.storesWf) (hf : ∀ a a1, (f a a1).storesWf) :
    NextWf (accEvent s c k idx f) := nextWf_slotEvent h (fun _ => optWf_map (fun _ => hf _ _))

theorem nextWf_execHeldRequestTimeout {core slot idx : Nat} {s : State} (h : s.storesWf) :
    NextWf (execHeldRequestTimeout core slot idx s) := by
  unfold execHeldRequestTimeout
  refine nextWf_accEvent h (fun _ _ => ?_)
  split
  · exact storesWf_failAcc h
  · exact h

theorem nextWf_execRequestOutcomeTimeout {core slot idx : Nat} {s : State} (h : s.storesWf) :
    NextWf (execRequestOutcomeTimeout core slot idx s) := by
  unfold execRequestOutcomeTimeout
  refine nextWf_accEvent h (fun _ _ => ?_)
  split
  · exact storesWf_failAcc h
  · exact h

theorem nextWf_execRetryStatus {core slot idx : Nat} {s : State} (h : s.storesWf) : NextWf (execRetryStatus core slot idx s) := by
  unfold execRetryStatus
  refine nextWf_accEvent h (fun _ _ => ?_)
  split
  · split
    · exact storesWf_modAcc h
    · exact h
  · exact h

theorem nextWf_staleCmd {s : State} {core : Nat} {m : Option Cmd} {f : Cmd → Host.Outcome State Fault Refusal} (h : s.storesWf)
    (hf : ∀ a, NextWf (f a)) :
    NextWf (staleCmd s core m f) := by
  unfold staleCmd
  split
  · exact h
  · split
    · exact h
    · extract_lets
      split
      · exact hf _
      · exact h

theorem nextWf_xfNext {s : State} {core : Nat} {m : Cmd} (h : s.storesWf) : NextWf (xfNext s core m) := by
  unfold xfNext
  extract_lets
  split
  · exact nextWf_execFlagStep h
  · split
    · exact nextWf_execXfPayloadStep h
    · exact nextWf_execXfSingleStep h

theorem nextWf_execStaleAnswer {core slot : Nat} {src : StaleSrc} {s : State} (h : s.storesWf) :
    NextWf (execStaleAnswer core slot src s) := by
  unfold execStaleAnswer
  split
  · refine nextWf_slotEvent h (fun _ => optWf_bind (fun _ => ?_))
    split
    · exact storesWf_settle (storesWf_deferAcc (storesWf_loseLease h))
    · exact trivial
  · split
    · exact trivial
    · exact nextWf_staleCmd h (fun _ => nextWf_execVsStep h)
  · split
    · exact trivial
    · exact nextWf_staleCmd h (fun _ => nextWf_xfNext h)

theorem State.storesWf_fenceAll {s : State} (h : s.storesWf) : s.fenceAll.storesWf :=
  storesWf_foldl (fun _ _ h => storesWf_failSaved h) (storesWf_foldl (fun _ _ h => storesWf_failAcc h) h)

theorem nextWf_execFencedAnswer {s : State} (h : s.storesWf) : NextWf (execFencedAnswer s) :=
  storesWf_logError (storesWf_mapParts (fun _ => rfl) (storesWf_dropResAll _ (storesWf_fenceAll (storesWf_modLinks h))))

theorem nextWf_execRecall {base size : Nat} {s : State} (h : s.storesWf) : NextWf (execRecall base size s) := by
  unfold execRecall
  split
  · exact storesWf_poolRetry (storesWf_recallLines _ _ h)
  · exact h

theorem nextWf_execReadLeaseExpiry {part line : Nat} {s : State} (h : s.storesWf) : NextWf (execReadLeaseExpiry part line s) := by
  unfold execReadLeaseExpiry
  split
  · exact trivial
  · split
    · exact storesWf_dropRes _ _ h
    · exact h

theorem nextWf_execJoin {s : State} (h : s.storesWf) : NextWf (execJoin s) := by
  unfold execJoin
  split
  · exact h
  · exact storesWf_modLinks h

theorem State.storesWf_releaseSlice {s : State} {slice : Nat} (h : s.storesWf) : (s.releaseSlice slice).storesWf := by
  unfold State.releaseSlice
  refine storesWf_releaseHeld (storesWf_foldl (fun _ _ h => ?_) h)
  split
  · exact storesWf_settle (storesWf_sendP0 h)
  · exact h

theorem nextWf_execJoinAccepted {slice : Nat} {s : State} (h : s.storesWf) : NextWf (execJoinAccepted slice s) := by
  unfold execJoinAccepted
  split
  · exact trivial
  · split
    · exact storesWf_releaseSlice (storesWf_modLinks h)
    · exact h

theorem nextWf_execInboundPeerRequest {addr size : Nat} {op : PeerOp} {s : State} (h : s.storesWf) :
    NextWf (execInboundPeerRequest addr size op s) := by
  unfold execInboundPeerRequest
  extract_lets
  split
  · split
    · exact h
    · exact storesWf_modLinks h
  · exact storesWf_writeSys _ _ h
  · split
    · exact h
    · exact storesWf_modLinks (storesWf_writeSys _ _ h)
  · split
    · exact h
    · refine storesWf_modLinks ?_
      split
      · exact storesWf_writeSys _ _ h
      · exact h

theorem nextWf_execLkst {sd sa : Nat} {port : Bool} {s : State} (h : s.storesWf) : NextWf (execLkst sd sa port s) := by
  unfold execLkst
  refine nextWf_issueWith h (fun _ => ?_)
  extract_lets
  split
  · split
    · exact trivial
    · exact storesWf_writeReg h
  · exact storesWf_writeReg h

theorem State.storesWf_conduitsTo {s : State} {l : List Nat} {f : Conduit → Conduit} (h : s.storesWf) : (s.conduitsTo l f).storesWf :=
  storesWf_foldl (fun _ _ h => storesWf_logConduit (storesWf_modConduit h)) h

theorem nextWf_execLkdrn {sd sa : Nat} {s : State} (h : s.storesWf) : NextWf (execLkdrn sd sa s) := by
  unfold execLkdrn
  refine nextWf_issueWith h (fun _ => ?_)
  extract_lets
  split
  · exact trivial
  · exact storesWf_writeReg (storesWf_conduitsTo h)

theorem nextWf_execLkrsm {sd sa : Nat} {s : State} (h : s.storesWf) : NextWf (execLkrsm sd sa s) := by
  unfold execLkrsm
  refine nextWf_issueWith h (fun _ => ?_)
  extract_lets
  split
  · exact trivial
  · exact storesWf_writeReg (storesWf_releaseHeld (storesWf_modLinks (storesWf_conduitsTo h)))

theorem State.storesWf_installMap_snd {s : State} {b : List Byte} (h : s.storesWf) : (s.installMap b).2.storesWf := by
  unfold State.installMap
  split
  · exact h
  · split
    · exact h
    · dsimp only
      split
      · exact h
      · exact storesWf_foldl (fun _ _ h => storesWf_modConduit h) (storesWf_modLinks h)

theorem nextWf_execLktop {sd sa c : Nat} {s : State} (h : s.storesWf) : NextWf (execLktop sd sa c s) := by
  unfold execLktop
  refine nextWf_issueWith h (fun _ => ?_)
  extract_lets
  split
  · exact trivial
  · split
    · exact h
    · split
      · next e2 => exact (BytesNow.storesWf_loadObj h).of_eq e2
      · next e2 => exact (BytesNow.storesWf_loadObj h).of_eq e2
      · next e2 =>
          split
          · exact trivial
          · split
            · next e4 => exact storesWf_writeReg (storesWf_of_snd (storesWf_installMap_snd ((BytesNow.storesWf_loadObj h).of_eq e2)) e4)

theorem State.storesWf_grant {s : State} {p : Nat} {name tok : Word} {sent waited len : Nat} (h : s.storesWf) :
    (s.grant p name tok sent waited len).storesWf := storesWf_setPart_same rfl (storesWf_setRow h)

theorem State.storesWf_nextToken_snd {s : State} {name : Word} (h : s.storesWf) : (s.nextToken name).2.storesWf :=
  ⟨h.mem, h.cist, h.spad, h.lines⟩

theorem State.storesWf_acquire_snd {s : State} {p : Nat} {name : Word} {len : Nat} {wait : Bool} (h : s.storesWf) :
    (s.acquire p name len wait).2.storesWf := by
  unfold State.acquire
  split
  · exact ⟨h.mem, h.cist, h.spad, h.lines⟩
  · split
    · exact storesWf_bump (storesWf_setPart_same rfl h)
    · exact h

theorem State.storesWf_of_acquire_granted {s t u : State} {p len v : Nat} {name : Word} {wait : Bool} (h : s.storesWf)
    (e : s.acquire p name len wait = (some (v, t), u)) : t.storesWf := by
  unfold State.acquire at e
  split at e
  · cases e
    exact storesWf_grant (storesWf_nextToken_snd (name := name) h)
  · split at e <;> cases e
    exact h

theorem nextWf_execLsacq {sd sa sb : Nat} {wait : Bool} {s : State} (h : s.storesWf) : NextWf (execLsacq sd sa sb wait s) := by
  unfold execLsacq
  refine nextWf_issueWith h (fun _ => ?_)
  extract_lets
  split
  · exact trivial
  · split
    · exact trivial
    · split
      · exact trivial
      · split
        · split
          · split
            · exact storesWf_writeReg (storesWf_setPart_same rfl h)
            · exact h
          · exact h
        · split
          · exact storesWf_writeReg h
          · split
            · exact trivial
            · split
              · next e => exact storesWf_writeReg (storesWf_of_acquire_granted h e)
              · next e => exact storesWf_of_snd (storesWf_acquire_snd h) e

theorem State.storesWf_answerAcq {s : State} {p : Nat} {a : Acquire} {v : Nat} (h : s.storesWf) : (s.answerAcq p a v).storesWf :=
  storesWf_modSlot (storesWf_setPart_same rfl h)

theorem nextWf_execLeaseGrant {part token waited : Nat} {s : State} (h : s.storesWf) : NextWf (execLeaseGrant part token waited s) := by
  unfold execLeaseGrant
  split
  · exact trivial
  · split
    · exact h
    · extract_lets
      split
      · exact storesWf_answerAcq (storesWf_grant h)
      · exact h

theorem nextWf_execLsacqWaitTimeout {part : Nat} {s : State} (h : s.storesWf) : NextWf (execLsacqWaitTimeout part s) := by
  unfold execLsacqWaitTimeout
  split
  · exact trivial
  · split
    · exact h
    · split
      · exact storesWf_answerAcq h
      · exact h

theorem nextWf_execLsrnw {sd sb : Nat} {s : State} (h : s.storesWf) : NextWf (execLsrnw sd sb s) := by
  unfold execLsrnw
  refine nextWf_issueWith h (fun _ => ?_)
  extract_lets
  split
  · exact trivial
  · split
    · exact trivial
    · split
      · exact storesWf_writeReg h
      · split
        · exact trivial
        · split
          · exact storesWf_writeReg (storesWf_loseLease h)
          · exact storesWf_writeReg (storesWf_setPart_same rfl (storesWf_setRow h))

theorem nextWf_execLsrel {sd : Nat} {s : State} (h : s.storesWf) : NextWf (execLsrel sd s) := by
  unfold execLsrel
  refine nextWf_issueWith h (fun _ => ?_)
  extract_lets
  split
  · exact trivial
  · split
    · exact storesWf_writeReg h
    · exact storesWf_writeReg (storesWf_setPart_same rfl h)
    · split
      · exact h
      · split
        · exact trivial
        · exact storesWf_writeReg (storesWf_setPart_same rfl (storesWf_giveLease h))

theorem nextWf_execLstok {sd : Nat} {item : TokItem} {s : State} (h : s.storesWf) : NextWf (execLstok sd item s) :=
  nextWf_issueWith h (fun _ => storesWf_writeReg h)

theorem nextWf_execStepLeaseExpiry {part : Nat} {s : State} (h : s.storesWf) : NextWf (execStepLeaseExpiry part s) := by
  unfold execStepLeaseExpiry
  split
  · exact trivial
  · split
    · refine storesWf_foldl (fun _ _ h => ?_) (storesWf_foldl (fun _ _ h => ?_) (storesWf_loseLease h))
      · split
        · exact storesWf_failSaved h
        · exact h
      · split
        · exact storesWf_failAcc h
        · exact h
    · exact h

/-! ### Host commands, the table of instructions and the step -/

theorem State.storesWf_complete {s : State} {d : HostDone} (h : s.storesWf) : (s.complete d).storesWf := storesWf_modHost h

theorem CmdAns.storesWf_pfOnly {fn : HostFn} {code : Nat} {f : HostDone → State → State} {a : Option Nat}
    {s : State} (hf : ∀ a t, t.storesWf → (f a t).storesWf) (h : s.storesWf) :
    (pfOnly fn code f a s).storesWf := by
  unfold pfOnly
  split
  · exact hf _ _ h
  · exact storesWf_complete h

theorem State.storesWf_enqueue {s : State} {c : HostCmd} (h : s.storesWf) : (s.enqueue c).storesWf := storesWf_modHost h

theorem State.storesWf_command {s : State} {fn : HostFn} {w : HostWork} {now : CmdNow} (hnow : ∀ a t, t.storesWf → (now a t).storesWf)
    (h : s.storesWf) : (s.command fn w now).storesWf := by
  unfold State.command
  split
  · exact storesWf_enqueue h
  · split
    · next e => exact (hnow _ _ h).of_eq e
    · exact storesWf_enqueue h
    · exact storesWf_enqueue h

theorem nextWf_hostEvent {fn : HostFn} {w : HostWork} {now : CmdNow} {s : State} (hb : ∀ a t, t.storesWf → (now a t).storesWf)
    (h : s.storesWf) :
    NextWf (hostEvent fn w now s) := by
  unfold hostEvent
  split
  · exact storesWf_command hb h
  · exact trivial

theorem State.storesWf_enterLaunch {s : State} {d : HostDone} {part : Nat} {ts : List Task} (h : s.storesWf) :
    (s.enterLaunch d part ts).storesWf := storesWf_complete (storesWf_foldl (fun _ _ h => storesWf_enterTask h) (storesWf_modHost h))

theorem CmdAns.storesWf_launchNow {fn : HostFn} {nrec part addr tag : Nat} {a : Option Nat} {s : State} (h : s.storesWf) :
    (launchNow fn nrec part addr tag a s).storesWf := by
  unfold launchNow
  extract_lets
  split
  · exact storesWf_complete h
  · split
    · exact storesWf_complete h
    · split
      · exact storesWf_complete h
      · split
        · exact trivial
        · split
          · exact storesWf_complete h
          · split
            · split
              · exact storesWf_complete h
              · exact trivial
            · exact storesWf_enterLaunch (storesWf_keepNotes h)

theorem nextWf_execLaunch {fn : HostFn} {nrec part addr tag : Nat} {s : State} (h : s.storesWf) :
    NextWf (execLaunch fn nrec part addr tag s) := nextWf_hostEvent (fun _ _ h => CmdAns.storesWf_launchNow h) h

theorem CmdAns.storesWf_tokchkNow {fn : HostFn} {region seq : Nat} {a : Option Nat} {s : State} (h : s.storesWf) :
    (tokchkNow fn region seq a s).storesWf := by
  unfold tokchkNow
  extract_lets
  split
  · exact storesWf_complete h
  · exact storesWf_complete (storesWf_checkToken_snd h)

theorem nextWf_execTokchkCommand {fn : HostFn} {region seq : Nat} {s : State} (h : s.storesWf) :
    NextWf (execTokchkCommand fn region seq s) := nextWf_hostEvent (fun _ _ h => CmdAns.storesWf_tokchkNow h) h

theorem State.storesWf_writeArea {s : State} {p : Nat} {xs : List Piece} {bs : List Byte} (h : s.storesWf) :
    (s.writeArea p xs bs).storesWf := by
  induction xs generalizing s bs with
  | nil => exact h
  | cons x xs ih => exact ih (storesWf_storeAt _ _ _ _ (storesWf_keepNotes (storesWf_sendLines h)))

theorem CmdAns.storesWf_tokgetNow {fn : HostFn} {region addr : Nat} {a : Option Nat} {s : State} (h : s.storesWf) :
    (tokgetNow fn region addr a s).storesWf := by
  unfold tokgetNow
  extract_lets
  split
  · exact storesWf_complete h
  · split
    · exact storesWf_complete h
    · split
      · exact storesWf_complete h
      · split
        · exact storesWf_complete (storesWf_writeArea h)
        · split
          · exact storesWf_complete h
          · exact trivial

theorem nextWf_execTokget {fn : HostFn} {region addr : Nat} {s : State} (h : s.storesWf) : NextWf (execTokget fn region addr s) :=
  nextWf_hostEvent (fun _ _ h => CmdAns.storesWf_tokgetNow h) h

theorem CmdAns.storesWf_repairNow {fn : HostFn} {image : List Nat} {a : Option Nat} {s : State} (h : s.storesWf) :
    (repairNow fn image a s).storesWf := by
  unfold repairNow
  refine CmdAns.storesWf_pfOnly (fun _ _ h => ?_) h
  split
  · exact storesWf_complete h
  · split
    · exact storesWf_complete h
    · exact storesWf_complete (storesWf_modHost h)

theorem nextWf_execRepair {fn : HostFn} {image : List Nat} {s : State} (h : s.storesWf) : NextWf (execRepair fn image s) :=
  nextWf_hostEvent (fun _ _ h => CmdAns.storesWf_repairNow h) h

theorem CmdAns.storesWf_acceptNow {fn : HostFn} {mask : Nat} {a : Option Nat} {s : State} (h : s.storesWf) :
    (acceptNow fn mask a s).storesWf := by
  unfold acceptNow
  refine CmdAns.storesWf_pfOnly (fun _ _ h => ?_) h
  extract_lets
  split
  · exact storesWf_complete h
  · split
    · exact storesWf_complete h
    · split
      · exact storesWf_complete h
      · exact storesWf_complete (storesWf_modHost h)

theorem nextWf_execAccept {fn : HostFn} {mask : Nat} {s : State} (h : s.storesWf) : NextWf (execAccept fn mask s) :=
  nextWf_hostEvent (fun _ _ h => CmdAns.storesWf_acceptNow h) h

theorem CmdAns.storesWf_keysetNow {fn : HostFn} {part slot key : Nat} {a : Option Nat} {s : State} (h : s.storesWf) :
    (keysetNow fn part slot key a s).storesWf := by
  unfold keysetNow
  refine CmdAns.storesWf_pfOnly (fun _ _ h => ?_) h
  split
  · exact storesWf_complete h
  · exact storesWf_complete (storesWf_setPart_same rfl h)

theorem nextWf_execKeyset {fn : HostFn} {part slot key : Nat} {s : State} (h : s.storesWf) : NextWf (execKeyset fn part slot key s) :=
  nextWf_hostEvent (fun _ _ h => CmdAns.storesWf_keysetNow h) h

theorem CmdAns.storesWf_pubkeyNow {fn : HostFn} {a : Option Nat} {s : State} (h : s.storesWf) : (pubkeyNow fn a s).storesWf :=
  CmdAns.storesWf_pfOnly (fun _ _ h => storesWf_complete h) h

theorem nextWf_execPubkey {fn : HostFn} {s : State} (h : s.storesWf) : NextWf (execPubkey fn s) :=
  nextWf_hostEvent (fun _ _ h => CmdAns.storesWf_pubkeyNow h) h

theorem CmdAns.storesWf_readlogNow {fn : HostFn} {a : Option Nat} {s : State} (h : s.storesWf) : (readlogNow fn a s).storesWf := by
  unfold readlogNow
  refine CmdAns.storesWf_pfOnly (fun _ _ h => ?_) h
  split
  · exact storesWf_complete (storesWf_takeFree_snd h)
  · exact storesWf_complete (storesWf_modHost h)

theorem nextWf_execReadlog {fn : HostFn} {s : State} (h : s.storesWf) : NextWf (execReadlog fn s) :=
  nextWf_hostEvent (fun _ _ h => CmdAns.storesWf_readlogNow h) h

theorem CmdAns.storesWf_unlistedNow {fn : HostFn} {code : Nat} {a : Option Nat} {s : State} (h : s.storesWf) :
    (unlistedNow fn code a s).storesWf := by
  unfold unlistedNow
  split
  · exact h
  · exact storesWf_complete h

theorem nextWf_execUnlistedCommandCode {fn : HostFn} {code : Nat} {s : State} (h : s.storesWf) :
    NextWf (execUnlistedCommandCode fn code s) := nextWf_hostEvent (fun _ _ h => CmdAns.storesWf_unlistedNow h) h

theorem CmdAns.storesWf_now {fn : HostFn} {w : HostWork} {a : Option Nat} {s : State} (h : s.storesWf) :
    (HostWork.now fn w a s).storesWf := by
  unfold HostWork.now
  split
  · exact CmdAns.storesWf_launchNow h
  · exact CmdAns.storesWf_tokchkNow h
  · exact CmdAns.storesWf_tokgetNow h
  · exact CmdAns.storesWf_repairNow h
  · exact CmdAns.storesWf_acceptNow h
  · exact CmdAns.storesWf_keysetNow h
  · exact CmdAns.storesWf_pubkeyNow h
  · exact CmdAns.storesWf_readlogNow h
  · exact CmdAns.storesWf_unlistedNow h

theorem State.storesWf_drainQueue {s : State} {cs : List HostCmd} (h : s.storesWf) : (s.drainQueue cs).storesWf := by
  induction cs generalizing s with
  | nil => exact h
  | cons x xs ih =>
    unfold State.drainQueue
    split
    · exact ih (storesWf_enqueue h)
    · split
      · next e => exact ih ((CmdAns.storesWf_now h).of_eq e)
      · exact ih (storesWf_enqueue h)
      · exact ih (storesWf_enqueue h)

theorem State.storesWf_hostRetry {s : State} (h : s.storesWf) : s.hostRetry.storesWf := storesWf_drainQueue (storesWf_modHost h)

theorem State.storesWf_closeWindow {s : State} {p : Nat} (h : s.storesWf) : (s.closeWindow p).storesWf :=
  storesWf_hostRetry (storesWf_setPart_same rfl h)

theorem nextWf_execCstwin {sd : Nat} {close : Bool} {s : State} (h : s.storesWf) : NextWf (execCstwin sd close s) := by
  unfold execCstwin
  refine nextWf_issueWith h (fun _ => ?_)
  extract_lets
  split
  · exact trivial
  · split
    · split
      · exact storesWf_writeReg h
      · split
        · exact h
        · exact storesWf_writeReg (storesWf_closeWindow h)
    · split
      · exact storesWf_writeReg h
      · split
        · exact storesWf_writeReg h
        · exact storesWf_writeReg (storesWf_setPart_same rfl h)

theorem nextWf_execFeat {sd : Nat} {item : FeatItem} {s : State} (h : s.storesWf) : NextWf (execFeat sd item s) :=
  nextWf_issueWith h (fun _ => storesWf_writeReg h)

theorem nextWf_execErrlog {sd sa c : Nat} {pop : Bool} {s : State} (h : s.storesWf) : NextWf (execErrlog sd sa c pop s) := by
  unfold execErrlog
  refine nextWf_issueWith h (fun _ => ?_)
  extract_lets
  split
  · exact storesWf_writeReg h
  · split
    · exact trivial
    · split
      · exact storesWf_writeReg h
      · split
        · exact h
        · split
          · next e5 => exact (BytesNow.storesWf_storeObj h).of_eq e5
          · next e5 => exact (BytesNow.storesWf_storeObj h).of_eq e5
          · next e5 => exact storesWf_writeReg (storesWf_modHost ((BytesNow.storesWf_storeObj h).of_eq e5))

theorem State.storesWf_answerSide {s : State} {cmd : Nat} {v : Option (List Nat)} (h : s.storesWf) : (s.answerSide cmd v).storesWf :=
  storesWf_modHost h

theorem State.storesWf_sensors_snd {s : State} {n : Nat} (h : s.storesWf) : (s.sensors n).2.storesWf := by
  induction n generalizing s with
  | zero => exact h
  | succ n ih => exact ih (storesWf_takeFree_snd h)

theorem nextWf_execSidebandTemperature {s : State} (h : s.storesWf) : NextWf (execSidebandTemperature s) :=
  storesWf_answerSide (storesWf_sensors_snd h)

theorem nextWf_execSidebandPower {s : State} (h : s.storesWf) : NextWf (execSidebandPower s) :=
  storesWf_answerSide (storesWf_takeFree_snd h)

theorem nextWf_execSidebandPwst {s : State} (h : s.storesWf) : NextWf (execSidebandPwst s) := storesWf_answerSide h

theorem nextWf_execSidebandLstate {s : State} (h : s.storesWf) : NextWf (execSidebandLstate s) := storesWf_answerSide h

theorem nextWf_execSidebandDevid {s : State} (h : s.storesWf) : NextWf (execSidebandDevid s) := storesWf_answerSide h

theorem nextWf_execSidebandPubkey {s : State} (h : s.storesWf) : NextWf (execSidebandPubkey s) := storesWf_answerSide h

theorem nextWf_execSidebandNack {cmd : Nat} {s : State} (h : s.storesWf) : NextWf (execSidebandNack cmd s) := storesWf_answerSide h

theorem State.storesWf_packageReset {s : State} (h : s.storesWf) : s.packageReset.storesWf where
  mem := h.mem
  cist := h.cist
  spad c := by
    have e : (s.packageReset.core c).spad = (s.core c).spad := spad_mget_map (g := fun x => x.2.afterReset) (fun _ => rfl) s.cores c
    exact e ▸ h.spad c
  lines _ := List.nodup_nil

theorem nextWf_execPackageReset {s : State} (h : s.storesWf) : NextWf (execPackageReset s) := storesWf_packageReset h

theorem State.storesWf_setBase {s : State} {r b : Nat} (h : s.storesWf) : (s.setBase r b).storesWf := by
  unfold State.setBase
  extract_lets
  split
  · exact storesWf_steer (storesWf_modRegion h)
  · exact storesWf_modRegion h

theorem State.storesWf_logThermal {s : State} {r : Nat} (h : s.storesWf) : (s.logThermal r).storesWf := storesWf_logError h

theorem State.storesWf_stepDown {s : State} {l : List Nat} (h : s.storesWf) : (s.stepDown l).storesWf :=
  storesWf_foldl (fun _ _ h => storesWf_setBase h) h

theorem State.storesWf_stepUp {s : State} {l : List Nat} (h : s.storesWf) : (s.stepUp l).storesWf :=
  storesWf_foldl (fun _ _ h => storesWf_setBase h) h

theorem nextWf_execPowerLimit {s : State} (h : s.storesWf) : NextWf (execPowerLimit s) := storesWf_logThermal (storesWf_stepDown h)

theorem nextWf_execJunctionThrottle {die : Nat} {s : State} (h : s.storesWf) : NextWf (execJunctionThrottle die s) := by
  unfold execJunctionThrottle
  split
  · exact trivial
  · exact storesWf_logThermal (storesWf_stepDown h)

theorem nextWf_execJunctionCooled {die : Nat} {s : State} (h : s.storesWf) : NextWf (execJunctionCooled die s) := by
  unfold execJunctionCooled
  split
  · exact trivial
  · exact storesWf_logThermal (storesWf_stepUp h)

theorem nextWf_execJunctionShutdown {die : Nat} {s : State} (h : s.storesWf) : NextWf (execJunctionShutdown die s) := by
  unfold execJunctionShutdown
  split
  · exact trivial
  · have ht : (s.logThermal (16 * die)).storesWf := storesWf_logThermal h
    exact ⟨ht.mem, ht.cist, ht.spad, ht.lines⟩

theorem nextWf_exec {i : Instr} {s : State} (h : s.storesWf) : NextWf (exec i s) := by
  unfold exec
  cases i with
  | nop | prep | prepr | capclr => exact nextWf_issueCtx h
  | mov | sel | lea | add | sub | mul | mulh | mulhu | div | divu | rem | remu | min | max | minu | maxu | and | or | xor | andn | shl
    | shr | sra | rol | clz | ctz | popc | brev | sext | zext | addi | muli | andi | ori | xori | shli | shri | srai | ldi | ldih
    | capinf | tdget | ttget | mxrd => exact nextWf_issueReg h
  | cmp | cmpi | kand | kor | kxor | knot => exact nextWf_issueCond h
  | vany | vall => exact nextWf_issuePred h
  | br | bra | call | ret => exact nextWf_issueTransfer h
  | pref | hint | vld | vlds | vldt | vldg | vldc | vst | vsts | vstt | vsct | vstc | vadd | vsub | vmul | vfma | vfms | vneg | vabs
    | vmin | vmax | vrcp | vrsq | vexp2 | vlog2 | viadd | visub | vimul | vand | vor | vxor | vshl | vshr | vsra | vimin | vimax | vcmp
    | vicmp | pand | por | pxor | pnot | pmov | vmov | vsel | vbcst | vperm | vrmg | vidx | vred | vreds | vscan | vcvt | vcvts | vscl
    | vpack | vunpk | vqln | mma | mmas | mmal | mmaz | bget | bput | bcpy | bfill | xflag | rlpub | rlstp | rlqry | cbind | crel
    | ccoll | ccmp | cdcp | cstat => exact nextWf_issueEngine h
  | ttag | fmtm => exact nextWf_issueEngineWith h
  | mfs => exact nextWf_execMfs h
  | mts => exact nextWf_execMts h
  | loop => exact nextWf_execLoop h
  | loopp => exact nextWf_execLoopp h
  | brk => exact nextWf_execBrk h
  | lds => exact nextWf_execLds h
  | sts => exact nextWf_execSts h
  | ldp => exact nextWf_execLdp h
  | stp => exact nextWf_execStp h
  | lde => exact nextWf_execLde h
  | ste => exact nextWf_execSte h
  | atom => exact nextWf_execAtom h
  | atomf => exact nextWf_execAtomf h
  | acas => exact nextWf_execAcas h
  | capsel => exact nextWf_execCapsel h
  | capnar => exact nextWf_execCapnar h
  | tdset => exact nextWf_execTdset h
  | tdcap => exact nextWf_execTdcap h
  | fence => exact nextWf_execFence h
  | fencem => exact nextWf_execFencem h
  | joinm => exact nextWf_execJoinm h
  | waitc => exact nextWf_execWaitc h
  | waita => exact nextWf_execWaita h
  | tokp => exact nextWf_execTokp h
  | tokg => exact nextWf_execTokg h
  | tokn => exact nextWf_execTokn h
  | mxsa => exact nextWf_execMxsa h
  | mxsb => exact nextWf_execMxsb h
  | mxsm => exact nextWf_execMxsm h
  | bcan => exact nextWf_execBcan h
  | tspawn => exact nextWf_execTspawn h
  | tdep => exact nextWf_execTdep h
  | tend => exact nextWf_execTend h
  | ttrig => exact nextWf_execTtrig h
  | tyld => exact nextWf_execTyld h
  | tself => exact nextWf_execTself h
  | tprio => exact nextWf_execTprio h
  | gjoin => exact nextWf_execGjoin h
  | gleave => exact nextWf_execGleave h
  | gbar => exact nextWf_execGbar h
  | gmem => exact nextWf_execGmem h
  | tlinc => exact nextWf_execTlinc h
  | tlset => exact nextWf_execTlset h
  | tlwait => exact nextWf_execTlwait h
  | tlget => exact nextWf_execTlget h
  | resq => exact nextWf_execResq h
  | reshint => exact nextWf_execReshint h
  | trap => exact nextWf_execTrap h
  | eret => exact nextWf_execEret h
  | mfsp => exact nextWf_execMfsp h
  | mtsp => exact nextWf_execMtsp h
  | ctxsv => exact nextWf_execCtxsv h
  | ctxld => exact nextWf_execCtxld h
  | fltinfo => exact nextWf_execFltinfo h
  | tlbiv => exact nextWf_execTlbiv h
  | unmap => exact nextWf_execUnmap h
  | mapsync => exact nextWf_execMapsync h
  | cstwin => exact nextWf_execCstwin h
  | rgnasn => exact nextWf_execRgnasn h
  | rgnwin => exact nextWf_execRgnwin h
  | rgnrst => exact nextWf_execRgnrst h
  | scrub => exact nextWf_execScrub h
  | scrst => exact nextWf_execScrst h
  | tokchk => exact nextWf_execTokchk h
  | keyz => exact nextWf_execKeyz h
  | msgf => exact nextWf_execMsgf h
  | xenq => exact nextWf_execXenq h
  | lkst => exact nextWf_execLkst h
  | lkdrn => exact nextWf_execLkdrn h
  | lktop => exact nextWf_execLktop h
  | lkrsm => exact nextWf_execLkrsm h
  | lsacq => exact nextWf_execLsacq h
  | lsrnw => exact nextWf_execLsrnw h
  | lsrel => exact nextWf_execLsrel h
  | lstok => exact nextWf_execLstok h
  | feat => exact nextWf_execFeat h
  | errlog => exact nextWf_execErrlog h
  | loadDataReturn => exact nextWf_execLoadDataReturn h
  | postedAccessAck => exact nextWf_execPostedAccessAck h
  | markerRetire => exact nextWf_execMarkerRetire h
  | waitaRepoll => exact nextWf_execWaitaRepoll h
  | tokenEntry => exact nextWf_execTokenEntry h
  | sluiceReservationGrant => exact nextWf_execSluiceReservationGrant h
  | vlStep => exact nextWf_execVlStep h
  | vsStep => exact nextWf_execVsStep h
  | vaStep => exact nextWf_execVaStep h
  | mxStep => exact nextWf_execMxStep h
  | mxCommandStart => exact nextWf_execMxCommandStart h
  | xfPayloadStep => exact nextWf_execXfPayloadStep h
  | xfSingleStep => exact nextWf_execXfSingleStep h
  | flagStep => exact nextWf_execFlagStep h
  | rillFetch => exact nextWf_execRillFetch h
  | bindingExpiry => exact nextWf_execBindingExpiry h
  | arbiterRound => exact nextWf_execArbiterRound h
  | tlwaitRetest => exact nextWf_execTlwaitRetest h
  | dispatchDecision => exact nextWf_execDispatchDecision h
  | preemptionRequest => exact nextWf_execPreemptionRequest h
  | drainLimitExpiry => exact nextWf_execDrainLimitExpiry h
  | sliceExpiry => exact nextWf_execSliceExpiry h
  | handlerRecordEntry => exact nextWf_execHandlerRecordEntry h
  | frameSlotFreed => exact nextWf_execFrameSlotFreed h
  | fetchCheckFault => exact nextWf_execFetchCheckFault h
  | illegalInstruction => exact nextWf_execIllegalInstruction h
  | regionResetRelease => exact nextWf_execRegionResetRelease h
  | quiesceComplete => exact nextWf_execQuiesceComplete h
  | scrubPhaseComplete => exact nextWf_execScrubPhaseComplete h
  | tokenSigned => exact nextWf_execTokenSigned h
  | frameScrubStart => exact nextWf_execFrameScrubStart h
  | scrubOnFreeAck => exact nextWf_execScrubOnFreeAck h
  | translationLeaseExpiry => exact nextWf_execTranslationLeaseExpiry h
  | cisternRefreshWindow => exact nextWf_execCisternRefreshWindow h
  | drainComplete => exact nextWf_execDrainComplete h
  | trainingAttemptSuccess => exact nextWf_execTrainingAttemptSuccess h
  | trainingAttemptFail => exact nextWf_execTrainingAttemptFail h
  | retuneComplete => exact nextWf_execRetuneComplete h
  | retuneFail => exact nextWf_execRetuneFail h
  | lossOfSignal => exact nextWf_execLossOfSignal h
  | linkRetryExhausted => exact nextWf_execLinkRetryExhausted h
  | heldRequestTimeout => exact nextWf_execHeldRequestTimeout h
  | requestOutcomeTimeout => exact nextWf_execRequestOutcomeTimeout h
  | retryStatus => exact nextWf_execRetryStatus h
  | staleAnswer => exact nextWf_execStaleAnswer h
  | fencedAnswer => exact nextWf_execFencedAnswer h
  | readLeaseExpiry => exact nextWf_execReadLeaseExpiry h
  | join => exact nextWf_execJoin h
  | joinAccepted => exact nextWf_execJoinAccepted h
  | leaseGrant => exact nextWf_execLeaseGrant h
  | lsacqWaitTimeout => exact nextWf_execLsacqWaitTimeout h
  | stepLeaseExpiry => exact nextWf_execStepLeaseExpiry h
  | inboundPeerRequest => exact nextWf_execInboundPeerRequest h
  | launch => exact nextWf_execLaunch h
  | tokchkCommand => exact nextWf_execTokchkCommand h
  | tokget => exact nextWf_execTokget h
  | repair => exact nextWf_execRepair h
  | accept => exact nextWf_execAccept h
  | keyset => exact nextWf_execKeyset h
  | pubkey => exact nextWf_execPubkey h
  | readlog => exact nextWf_execReadlog h
  | unlistedCommandCode => exact nextWf_execUnlistedCommandCode h
  | sidebandTemperature => exact nextWf_execSidebandTemperature h
  | sidebandPower => exact nextWf_execSidebandPower h
  | sidebandPwst => exact nextWf_execSidebandPwst h
  | sidebandLstate => exact nextWf_execSidebandLstate h
  | sidebandDevid => exact nextWf_execSidebandDevid h
  | sidebandPubkey => exact nextWf_execSidebandPubkey h
  | sidebandNack => exact nextWf_execSidebandNack h
  | packageReset => exact nextWf_execPackageReset h
  | powerLimit => exact nextWf_execPowerLimit h
  | junctionThrottle => exact nextWf_execJunctionThrottle h
  | junctionShutdown => exact nextWf_execJunctionShutdown h
  | junctionCooled => exact nextWf_execJunctionCooled h
  -- RECALL, whose constructor has the name of a command of Mathlib.
  | _ => exact nextWf_execRecall h

/-- The event keeps the form: a next state that it answers from a canonical state is canonical. -/
def KeepsWf (f : Happening) : Prop := ∀ s : State, s.storesWf → NextWf (f s)

theorem optWf_firstEvent {s : State} {fs : List Happening} (hfs : ∀ f ∈ fs, KeepsWf f) (h : s.storesWf) :
    OptWf (firstEvent s fs) := by
  induction fs with
  | nil => exact trivial
  | cons f fs ih =>
    have hf := hfs f (List.mem_cons_self ..)
    have hrest := ih (fun g hg => hfs g (List.mem_cons_of_mem _ hg))
    unfold firstEvent
    split
    · next e =>
      split
      · exact hrest
      · exact (hf s h).get e
    · exact hrest

theorem State.storesWf_of_fetchAt {s u : State} {c w : Nat} {sl : Slot} {t : Target} (h : s.storesWf)
    (e : s.fetchAt c sl t = .ok (w, u)) : u.storesWf := by
  unfold State.fetchAt at e
  extract_lets at e
  split at e
  · cases e
    exact storesWf_keepNotes h
  · split at e
    · cases e
    · cases e
      exact storesWf_setCore_same rfl (storesWf_afterRead _ _ _ _ (storesWf_keepNotes (storesWf_sendPieces h)))

theorem State.storesWf_of_fetch {s u : State} {c w : Nat} {sl : Slot} (h : s.storesWf) (e : s.fetch c sl = .ok (w, u)) :
    u.storesWf := by
  unfold State.fetch at e
  split at e
  · cases e
  · split at e
    · cases e
    · exact storesWf_of_fetchAt h e

theorem nextWf_issueTurn {s : State} {c k : Nat} (h : s.storesWf) : NextWf (issueTurn s c k) := by
  unfold issueTurn
  extract_lets u
  have hu : u.storesWf := ⟨h.mem, h.cist, h.spad, h.lines⟩
  split
  · exact trivial
  · split
    · exact storesWf_modSlot hu
    · split
      · exact nextWf_exec hu
      · next e =>
        have ht := storesWf_of_fetch hu e
        split <;> exact nextWf_exec ht

theorem nextWf_eventTurn {s : State} {i : Instr} (h : s.storesWf) : NextWf (eventTurn s i) := by
  unfold eventTurn
  split
  · next e => exact storesWf_wake ((nextWf_exec h).get e)
  · exact nextWf_exec h
theorem keepsWf_slotEvents (c k : Nat) (sl : Slot) : ∀ f ∈ slotEvents c k sl, KeepsWf f := by
  simp only [slotEvents, List.forall_mem_append, List.forall_mem_flatMap, List.forall_mem_cons, List.forall_mem_map]
  refine ⟨⟨fun i _ => ⟨?_, ?_, ?_, ?_, nofun⟩, ?_, ?_, ?_, ?_, ?_, ?_, ?_, nofun⟩, ?_, ?_, ?_, ?_, ?_, nofun⟩
  · exact fun _ h => nextWf_execLoadDataReturn h
  · exact fun _ h => nextWf_execPostedAccessAck h
  · exact fun _ h => nextWf_execHeldRequestTimeout h
  · exact fun _ h => nextWf_execRequestOutcomeTimeout h
  · exact fun _ h => nextWf_execVlStep h
  · exact fun _ h => nextWf_execVaStep h
  · exact fun _ h => nextWf_execVsStep h
  · exact fun _ h => nextWf_execTokenEntry h
  · exact fun _ h => nextWf_execSliceExpiry h
  · exact fun _ h => nextWf_execDrainLimitExpiry h
  · exact fun _ h => nextWf_execFrameSlotFreed h
  all_goals exact fun _ h => nextWf_execMarkerRetire h

theorem nextWf_turn {s : State} {a : Act} (h : s.storesWf) : NextWf (turn s a) := by
  unfold turn
  split
  · exact h
  · split
    · split
      · exact nextWf_issueTurn h
      · exact h
    · exact nextWf_eventTurn h
    · exact storesWf_poolWrite _ _ h
    · exact storesWf_poison h
    · exact storesWf_correctedAt h
    · exact storesWf_scrubUnit h
    · exact storesWf_otherLease h

theorem keepsWf_coreEvents (c : Nat) (co : Core) : ∀ f ∈ coreEvents c co, KeepsWf f := by
  simp only [coreEvents, List.forall_mem_append, List.forall_mem_flatMap, List.forall_mem_cons, List.forall_mem_map]
  refine ⟨⟨⟨fun _ _ => keepsWf_slotEvents _ _ _, fun _ _ => ?_⟩, ?_, ?_, ?_, ?_, nofun⟩, fun i _ => ⟨?_, ?_, ?_, nofun⟩⟩
  · exact fun _ h => nextWf_execSluiceReservationGrant h
  · exact fun _ h => nextWf_execMxCommandStart h
  · exact fun _ h => nextWf_execMxStep h
  · exact fun _ h => nextWf_execMxStep h
  · exact fun _ h => nextWf_execMxStep h
  · exact fun _ h => nextWf_execXfPayloadStep h
  · exact fun _ h => nextWf_execXfSingleStep h
  · exact fun _ h => nextWf_execFlagStep h

theorem keepsWf_grantEvents (s : State) (p : Nat) (v : Part) : ∀ f ∈ s.grantEvents p v, KeepsWf f := by
  unfold State.grantEvents
  split
  · split
    · exact List.forall_mem_singleton.mpr fun _ h => nextWf_execLeaseGrant h
    · exact nofun
  · exact nofun

theorem keepsWf_partEvents (s : State) (p : Nat) (v : Part) : ∀ f ∈ s.partEvents p v, KeepsWf f := by
  simp only [State.partEvents, List.forall_mem_append, List.forall_mem_cons, List.forall_mem_map]
  refine ⟨⟨keepsWf_grantEvents s p v, ?_, ?_, ?_, ?_, nofun⟩, fun _ _ => ?_⟩
  · exact fun _ h => nextWf_execStepLeaseExpiry h
  · exact fun _ h => nextWf_execLsacqWaitTimeout h
  · exact fun _ h => nextWf_execDispatchDecision h
  · exact fun _ h => nextWf_execRillFetch h
  · exact fun _ h => nextWf_execTlwaitRetest h

theorem keepsWf_regionEvents (r : Nat) : ∀ f ∈ regionEvents r, KeepsWf f := by
  simp only [regionEvents, List.forall_mem_cons]
  refine ⟨?_, ?_, ?_, ?_, nofun⟩
  · exact fun _ h => nextWf_execRegionResetRelease h
  · exact fun _ h => nextWf_execQuiesceComplete h
  · exact fun _ h => State.storesWf_scrubUnit h
  · exact fun _ h => nextWf_execScrubPhaseComplete h

theorem keepsWf_packageEvents (s : State) : ∀ f ∈ s.packageEvents, KeepsWf f := by
  simp only [State.packageEvents, List.forall_mem_append, List.forall_mem_cons, List.forall_mem_map]
  refine ⟨⟨⟨⟨⟨?_, ?_, ?_, ?_, ?_, ?_, ?_, ?_, ?_, ?_, nofun⟩, fun _ _ => ?_⟩, fun _ _ => ?_⟩, fun _ _ => ?_⟩, ?_, ?_, nofun⟩
  · exact fun _ h => nextWf_execHandlerRecordEntry h
  · exact fun _ h => nextWf_execTokenSigned h
  · exact fun _ h => nextWf_execFrameScrubStart h
  · exact fun _ h => nextWf_execScrubOnFreeAck h
  · exact fun _ h => nextWf_execArbiterRound h
  · exact fun _ h => nextWf_execArbiterRound h
  · exact fun _ h => nextWf_execArbiterRound h
  · exact fun _ h => nextWf_execArbiterRound h
  · exact fun _ h => nextWf_execArbiterRound h
  · exact fun _ h => nextWf_execJoin h
  · exact fun _ h => nextWf_execJoinAccepted h
  · exact fun _ h => nextWf_execDrainComplete h
  · exact fun _ h => nextWf_execBindingExpiry h
  · exact fun _ h => storesWf_releaseHeld h
  · exact fun _ h => storesWf_hostRetry h

theorem keepsWf_dueEvents (s : State) : ∀ f ∈ s.dueEvents, KeepsWf f := by
  simp only [State.dueEvents, List.forall_mem_append, List.forall_mem_flatMap]
  exact ⟨⟨⟨fun _ _ => keepsWf_coreEvents _ _, fun _ _ => keepsWf_partEvents _ _ _⟩, fun _ _ => keepsWf_regionEvents _⟩,
    keepsWf_packageEvents s⟩

theorem nextWf_idleTurn {s : State} (h : s.storesWf) : NextWf (idleTurn s) := by
  unfold idleTurn
  split
  · exact nextWf_issueTurn h
  · split
    · next e => exact storesWf_wake ((optWf_firstEvent (keepsWf_dueEvents s) h).get e)
    · have hw : s.wake.storesWf := storesWf_wake h
      exact ⟨hw.mem, hw.cist, hw.spad, hw.lines⟩

theorem nextWf_step {s : State} (h : s.storesWf) : NextWf (step s) := by
  unfold step
  split
  · exact nextWf_turn ⟨h.mem, h.cist, h.spad, h.lines⟩
  · split
    · exact h
    · exact nextWf_idleTurn h

end Sys2Proof.Machine

namespace Sys2Proof

/-- Settles O7: each instruction, event and outside write keeps the form, and a step runs one of them. -/
theorem storesStayCanonical : Obligations.StoresStayCanonical := by
  unfold Obligations.StoresStayCanonical
  intro s t h e
  exact (Machine.nextWf_step h).get e

end Sys2Proof
end

section
/-! PROOFS. What MTS writes and what the register then reads (R12, R13, R111 to R115). -/

namespace Sys2Proof.Machine

/-! ### Registers with RW bits -/

/-- The indices of the special registers with RW bits: those of the context, the two selectors of the slot, those of a partition, and
HVHNDL of the Grotto. -/
def rwIndices : List Nat :=
  [0x008, 0x009, 0x00A, 0x00B, 0x010, 0x080, 0x081, 0x10A, 0x201, 0x109, 0x040, 0x041, 0x084, 0x0C1, 0x0C2, 0x104, 0x105, 0x106, 0x107,
   0x108, 0x203, 0x304]

theorem mem_rwIndices {n : Nat} {r : SReg} (h : sreg? n = some r) (hrw : r.rw ≠ 0) : n ∈ rwIndices := by
  unfold sreg? at h
  split at h <;> cases h <;> simp [roReg, rwIndices] at hrw ⊢

/-- What a register with RW bits reads after the write of `w`: in KREG the bit of k0 is fixed at 1 (R113). -/
def sregShown (n : Nat) (w : Word) : Word := if n = 0x010 then toW (w.toNat % 256 / 2 * 2 + 1) else w

/-- A write of a register with RW bits leaves the slot where it was, with its registers, and the register reads what was written. -/
theorem sregWrite_shown {s : State} {c k n : Nat} {sl : Slot} (w : Word) (hs : s.slot? c k = some sl) (hn : n ∈ rwIndices) :
    ∃ v, (s.sregWrite c k sl n w).slot? c k = some v ∧ v.phase = sl.phase ∧ v.ctx.regs = sl.ctx.regs ∧
      v.ctx.loops = sl.ctx.loops ∧ (s.sregWrite c k sl n w).sregValue c k v 0 n = sregShown n w := by
  have put (v : Slot) : (s.setSlot c k v).slot? c k = some v := State.slot_setSlot_same s c k v
  simp only [rwIndices, List.mem_cons, List.not_mem_nil, or_false] at hn
  rcases hn with rfl | rfl | rfl | rfl | rfl | rfl | rfl | rfl | rfl | rfl | hn
  · exact ⟨_, put _, rfl, rfl, rfl, mget_mput_same _ _ _ _⟩
  · exact ⟨_, put _, rfl, rfl, rfl, mget_mput_same _ _ _ _⟩
  · exact ⟨_, put _, rfl, rfl, rfl, mget_mput_same _ _ _ _⟩
  · exact ⟨_, put _, rfl, rfl, rfl, mget_mput_same _ _ _ _⟩
  · refine ⟨_, put _, rfl, rfl, rfl, congrArg (fun m => toW (m + 1)) ?_⟩
    change w.toNat % 256 / 2 * 2 % 256 / 2 * 2 = w.toNat % 256 / 2 * 2
    omega
  · exact ⟨_, put _, rfl, rfl, rfl, BitVec.ofNat_toNat _ _⟩
  · exact ⟨_, put _, rfl, rfl, rfl, BitVec.ofNat_toNat _ _⟩
  · exact ⟨_, put _, rfl, rfl, rfl, BitVec.ofNat_toNat _ _⟩
  · exact ⟨_, put _, rfl, rfl, rfl, BitVec.ofNat_toNat _ _⟩
  · exact ⟨sl, hs, rfl, rfl, rfl, rfl⟩
  · rcases hn with rfl | rfl | rfl | rfl | rfl | rfl | rfl | rfl | rfl | rfl | rfl | rfl <;>
      exact ⟨sl, hs, rfl, rfl, rfl, by simp only [State.sregWrite, State.sregValue, State.part_setPart]; rfl⟩

theorem sameMemory_sregWrite (s : State) (c k : Nat) (sl : Slot) (n : Nat) (w : Word) : sameMemory s (s.sregWrite c k sl n w) := by
  unfold State.sregWrite
  extract_lets
  split <;> exact ⟨rfl, rfl, rfl, rfl, rfl⟩

/-- No register with RW bits reads otherwise once the word has issued, where no loop is active (R129). -/
theorem sregValue_past {s : State} {c k n : Nat} {v : Slot} (next : Nat) (hl : v.ctx.loops = []) (hn : n ∈ rwIndices) :
    ((s.mark c k).setSlot c k (v.past next)).sregValue c k (v.past next) 0 n = s.sregValue c k v 0 n := by
  have hlc : (v.past next).ctx.lc = v.ctx.lc := Ctx.retire_lc next hl
  simp only [rwIndices, List.mem_cons, List.not_mem_nil, or_false] at hn
  rcases hn with rfl | rfl | rfl | rfl | rfl | rfl | rfl | hn
  · exact congrArg (mget 0 · 0) hlc
  · exact congrArg (mget 0 · 1) hlc
  · exact congrArg (mget 0 · 2) hlc
  · exact congrArg (mget 0 · 3) hlc
  · exact congrArg (fun m => toW (m % 256 / 2 * 2 + 1)) (Slot.past_kreg v next)
  · exact congrArg toW (Slot.past_fmtmode v next)
  · exact congrArg toW (Slot.past_sptag v next)
  · have hpart (p : Nat) : ((s.mark c k).setSlot c k (v.past next)).part p = s.part p := rfl
    have hsel : selPart c (v.past next) = selPart c v := rfl
    rcases hn with rfl | rfl | rfl | rfl | rfl | rfl | rfl | rfl | rfl | rfl | rfl | rfl | rfl | rfl | rfl <;>
      simp only [State.sregValue, hpart, hsel] <;> rfl

/-! ### The value that is written -/

theorem rw_kreg {r : SReg} (h : sreg? 0x010 = some r) : r.rw = 254 := by
  cases h
  rfl

/-- The RW bits of a value, as the register then shows them. -/
theorem sregShown_land {n : Nat} {r : SReg} (h : sreg? n = some r) (v : Nat) :
    sregShown n (toW (Nat.land v r.rw)) = BitVec.ofNat 64 (Nat.land v r.rw + (if n = 0x010 then 1 else 0)) := by
  unfold sregShown
  split
  · next hn =>
    subst hn
    have hle : v &&& 254 ≤ 254 := Nat.and_le_right
    have heven : (v &&& 254) % 2 = 0 := by
      have := Nat.and_mod_two_pow (a := v) (b := 254) (n := 1)
      simpa using this
    have hw : (toW (v &&& 254)).toNat = v &&& 254 := Nat.mod_eq_of_lt (by omega)
    rw [rw_kreg h]
    change toW ((toW (v &&& 254)).toNat % 256 / 2 * 2 + 1) = toW ((v &&& 254) + 1)
    rw [hw]
    congr 1
    omega
  · rfl

/-! ### MTS -/

/-- A body that meets a fault of the control core: the slot takes it. -/
theorem issueWith_trapped {i : Instr} {s : State} {sl : Slot} {code : Nat} {body : Slot → Body} (h : Issues s sl i)
    (hb : body sl = .fault (ctlFault code sl)) : issueWith i s body = .next (s.trapped sl i code) := by
  rw [issueWith_pass h, hb]
  exact congrArg Host.Outcome.next (State.faultOrHold_raise rfl)

section
variable {s : State} {sl : Slot} {sa n : Nat} {r : SReg}

/-- A reserved bit is refused first, then a reserved value. -/
theorem exec_mts_refused (hi : Issues s sl (.mts sa n)) (hg : sregGate s.curCore sl n true = none) (hr : sreg? n = some r) {code : Nat}
    (h : Nat.land (sl.ctx.reg sa).toNat (allBits - Nat.lor r.rw r.ro) ≠ 0 ∧ code = 0x02 ∨
      Nat.land (sl.ctx.reg sa).toNat (allBits - Nat.lor r.rw r.ro) = 0 ∧
        s.sregRefuse s.curCore sl n (Nat.land (sl.ctx.reg sa).toNat r.rw) = some code) :
    exec (.mts sa n) s = .next (s.trapped sl (.mts sa n) code) := by
  refine issueWith_trapped hi ?_
  simp only [hg, hr]
  rcases h with ⟨h, rfl⟩ | ⟨h, hc⟩
  · rw [if_pos h]
  · rw [if_neg (fun hne => hne h), hc]

theorem exec_mts_written (hi : Issues s sl (.mts sa n)) (hg : sregGate s.curCore sl n true = none) (hr : sreg? n = some r) {v : Slot}
    (h0 : Nat.land (sl.ctx.reg sa).toNat (allBits - Nat.lor r.rw r.ro) = 0)
    (hok : s.sregRefuse s.curCore sl n (Nat.land (sl.ctx.reg sa).toNat r.rw) = none)
    (hv : (s.sregWrite s.curCore s.curSlot sl n (toW (Nat.land (sl.ctx.reg sa).toNat r.rw))).slot? s.curCore s.curSlot = some v)
    (hrun : v.phase = .run) :
    exec (.mts sa n) s = .next (((s.sregWrite s.curCore s.curSlot sl n (toW (Nat.land (sl.ctx.reg sa).toNat r.rw))).mark
      s.curCore s.curSlot).setSlot s.curCore s.curSlot (v.past (sl.ctx.pc + 8))) := by
  refine issueWith_done hi ?_ hv hrun
  simp only [hg, hr, hok]
  rw [if_neg (fun hne => hne h0)]

end

end Sys2Proof.Machine

namespace Sys2Proof

open Machine

/-- Settles O15, by the registers with RW bits: each reads what `sregWrite` put in its place, and no retirement of the word changes it. -/
theorem specialRegisterWrites : Obligations.SpecialRegisterWrites := by
  unfold Obligations.SpecialRegisterWrites
  intro s sl sa n r hi hg hr v
  refine ⟨fun h => exec_mts_refused hi hg hr (.inl ⟨h, rfl⟩), fun code h hc => exec_mts_refused hi hg hr (.inr ⟨h, hc⟩), ?_⟩
  intro h0 hok hl hrw
  have hn := mem_rwIndices hr hrw
  obtain ⟨u, hu, hphase, hregs, hloops, hval⟩ := sregWrite_shown (toW (Nat.land v r.rw)) hi.slot hn
  refine ⟨_, _, exec_mts_written hi hg hr h0 hok hu (hphase.trans hi.run), State.slot_setSlot_same _ _ _ _, ?_, ?_, ?_⟩
  · rw [Slot.past_regs, hregs]
  · exact sameMemory_sregWrite _ _ _ _ _ _
  · rw [sregValue_past _ (hloops.trans hl) hn, hval]
    exact sregShown_land hr v

end Sys2Proof
end
